-- ==== Sys2Proof/Word.lean ====
section
/-! DEFINITION. The word types of the Fequin and their plainest arithmetic (spec/00_scope.md R3, R7).
Everything a test could show wrong stands in Decode.lean or in a file of Machine/, not here. -/

namespace Sys2Proof

/-- A byte of memory. -/
abbrev Byte := BitVec 8

/-- A 32-bit register value. -/
abbrev Word := BitVec 32

/-- A 64-bit value: an address, a register pair, a system register. -/
abbrev DWord := BitVec 64

/-- One instruction word of a wave or of the Roller (R246). -/
abbrev Word96 := BitVec 96

/-- A set of lanes of a wave, bit i for lane i. -/
abbrev LaneSet := BitVec 32

/-- A table with natural keys: the keys rise strictly and an absent key is not listed. -/
abbrev Tbl (α : Type) := List (Nat × α)

/-- Join two 32-bit halves, the high one first. -/
def join (hi lo : Word) : DWord := hi ++ lo

/-- Bits 31:0 of a 64-bit value. -/
def loWord (x : DWord) : Word := x.setWidth 32

/-- Bits 63:32 of a 64-bit value. -/
def hiWord (x : DWord) : Word := (x >>> 32).setWidth 32

end Sys2Proof
end

