-- ==== Sys2Proof/Config.lean ====
section
/-! DEFINITION. What the part number fixes (the counts of spec/01_fequin_at_a_glance.md Table 1-1 and of the
storage chapters), and the free values of the model. A free value is an opaque constant with no body: no proof
can see what it is. -/

namespace Sys2Proof.Config

/-- Cores of the package (R11). -/
def nCores : Nat := 384
/-- Clusters of the package (R11). -/
def nClusters : Nat := 96
/-- Slices of the package (R11). -/
def nSlices : Nat := 12
/-- Compute dies (R10). -/
def nDies : Nat := 4
/-- L2 banks (R11); homes are numbered banks first, then memory-side units, then tier-cache banks (R108). -/
def nBanks : Nat := 768
/-- Bytes of one HBM4 stack (Table 2-2). -/
def stackBytes : Nat := 0x900000000
/-- First physical address above HBM (Table 2-2). -/
def hbmEnd : Nat := 0x6C00000000
/-- The LPDDR6 range (Table 2-2). -/
def tierBase : Nat := 0x10000000000
/-- First physical address above the LPDDR6 range (Table 2-2). -/
def tierEnd : Nat := 0x20000000000
/-- First physical address of the peer windows (Table 2-2). -/
def peerBase : Nat := 0x4000000000000
/-- First physical address of host memory (Table 2-2). -/
def hostBase : Nat := 0x8000000000000
/-- First address above the physical address space (R22). -/
def physEnd : Nat := 0x10000000000000

/-- What a byte of memory that nothing has written reads as. DESIGN CHOICE (log entry 3): the manual gives the
contents of HBM, LPDDR6 and host memory after reset no value. Unsafe: a proof can lean on the zero. -/
def unwritten : Byte := 0

/-- A free value for a result that the manual leaves open, applied to the counter `freeCtr` of the state
(log entry 2). -/
opaque freeValue : Nat → BitVec 64

/-- Whether a firmware image passes the SHA-512 and RSA-4096 checks of R464. The fused key is not in the manual,
so the answer is a free function of the image's bytes (log entry 2). -/
opaque imageVerifies : List Byte → Bool

/-- What the Aqwin controller answers to an SPDM certificate or challenge request (R465); the key material is not
in the manual, so the answer is a free function of the request's number (log entry 2). -/
opaque spdmAnswer : Nat → BitVec 64

/-- Which of the 16 LPDDR6 controllers holds a line of the tier, by its line index. The manual does not say (log
entry 2). -/
opaque tierUnit : Nat → BitVec 4

end Sys2Proof.Config
end

