-- ==== Sys2Proof/Syntax.lean ====
section
/-! DEFINITION. The instructions and operations of the Fequin: one constructor of `Instr` for each row of
spec/opcode_table.json. The wave and Roller words follow spec/12 to spec/18, the policy words spec/21, and the
events (homes, engines, scheduler, controller, host, peers) the rule that each row cites. -/

namespace Sys2Proof

/-- Type codes of the TYPE field, Table 12-8. -/
inductive Ty where
  | i8 | i16 | i32 | i64 | n8 | n16 | n32 | n64 | b32 | b64 | f16 | bf16 | f32 | f64 | fmt | f16x2 | bf16x2
  deriving DecidableEq, Repr

/-- Special registers for coordinates, Table 9-2, in the order of their numbers from 448. -/
inductive Special where
  | lane | tidX | tidY | tidZ | ntidX | ntidY | ntidZ | waveId | nwave | stage | stageWave | stageNwave
  | teamSlot | gangNteam | gangX | gangY | gangZ | ngangX | ngangY | ngangZ | gangIssue | gridId | coreId
  deriving DecidableEq, Repr

/-- A source operand field A, B or C (Tables 12-3 and 12-4). -/
inductive Src where
  | v (n : BitVec 8)
  | w (n : BitVec 7)
  | sp (r : Special)
  | zero
  | latch (n : BitVec 2)
  deriving DecidableEq, Repr

/-- A register that a D field names: a vector, a uniform or the zero register (Table 12-3). -/
inductive DReg where
  | v (n : BitVec 8)
  | w (n : BitVec 7)
  | zero
  deriving DecidableEq, Repr

/-- A destination of a fixed-latency instruction: NW and the register (Table 12-4, R55). -/
structure Dst where
  nw : Bool
  r  : DReg
  deriving DecidableEq, Repr

/-- A predicate register p0-p7. -/
abbrev Pred := BitVec 3

/-- A predicate destination with its NW bit. -/
structure PDst where
  nw : Bool
  p  : Pred
  deriving DecidableEq, Repr

/-- The guard: predicate and negation (R248). -/
structure Guard where
  neg : Bool
  p   : Pred
  deriving DecidableEq, Repr

/-- The hint field (Table 12-2); `set = none` is code 4. -/
structure Hints where
  stall : BitVec 4
  yld   : Bool
  set   : Option (BitVec 2)
  wait  : BitVec 4
  deriving DecidableEq, Repr

/-- Guard and hints, which every wave word reads alike (R247). -/
structure Hdr where
  g : Guard
  h : Hints
  deriving DecidableEq, Repr

/-- Rounding modes, Table 11-2. -/
inductive Rm where
  | rn | rz | rd | ru
  deriving DecidableEq, Repr

/-- Integer compares of R280. -/
inductive Cmp where
  | eq | ne | lt | le | gt | ge
  deriving DecidableEq, Repr

/-- Predicate combination of R280. -/
inductive Bop where
  | and | or | xor
  deriving DecidableEq, Repr

/-- Floating compares, Table 14-3. -/
inductive FCmp where
  | eq | ne | lt | le | gt | ge | num | nan | equ | neu | ltu | leu | gtu | geu
  deriving DecidableEq, Repr

/-- The rounding, flush and sign fields of Table 14-1. -/
structure FMod where
  rm  : Rm
  ftz : Bool
  na  : Bool
  nl  : Bool
  deriving DecidableEq, Repr

/-- A lane mask operand: all lanes, or a uniform register (R274). -/
inductive MaskSrc where
  | all
  | w (n : BitVec 7)
  deriving DecidableEq, Repr

/-- SHFL modes (R292). -/
inductive ShflMode where
  | abs | lo | hi | xor | rot
  deriving DecidableEq, Repr

/-- VOTE modes (R293). -/
inductive VoteMode where
  | all | any | uni
  deriving DecidableEq, Repr

/-- REDUX operations (R294). -/
inductive ReduxOp where
  | add | min | max | and | or | xor
  deriving DecidableEq, Repr

/-- Sizes of loads and stores: TYPE with the Q bit (R324). -/
inductive MemTy where
  | i8 | n8 | i16 | n16 | b32 | b64 | b128
  deriving DecidableEq, Repr

/-- Cache hints, Table 12-7. -/
structure CHint where
  l1   : BitVec 2
  home : BitVec 2
  deriving DecidableEq, Repr

/-- Atomic operations, Table 15-4. -/
inductive Aop where
  | add | min | max | and | or | xor | exch | cas
  deriving DecidableEq, Repr

/-- Accumulate operations, Table 6-1. -/
inductive AccOp where
  | add | min | max
  deriving DecidableEq, Repr

/-- Agent scope of FENCE, Table 7-4. -/
inductive Agent where
  | wave | team | gang | partition
  deriving DecidableEq, Repr

/-- The space mask of FENCE, Table 7-4. -/
structure Spaces where
  host  : Bool
  graph : Bool
  glob  : Bool
  loc   : Bool
  deriving DecidableEq, Repr

/-- A gid operand: GS = 0 an immediate, GS = 1 a uniform register (R260). -/
inductive GidSrc where
  | imm (n : BitVec 16)
  | w (n : BitVec 7)
  deriving DecidableEq, Repr

/-- Direction of an adjacency list (Table 16-1). -/
inductive Dir where
  | out | inn
  deriving DecidableEq, Repr

/-- Copy directions of R361. -/
inductive CpyDir where
  | g2l | l2g | g2g | l2l
  deriving DecidableEq, Repr

/-- Participant groups of CPY (R202). -/
inductive Grp where
  | wave | stage | team
  deriving DecidableEq, Repr

/-- Gather modes, Table 10-1. -/
inductive GMode where
  | edge | vpay | block
  deriving DecidableEq, Repr

/-- Completion classes, Table 7-3. -/
inductive Cls where
  | copy | gather | acc
  deriving DecidableEq, Repr

/-- CVTN direction and BSCALE modes (R316, R320). -/
inductive BsMode where
  | derive | apply | unscale
  deriving DecidableEq, Repr

/-- Element types of the Roller, the FMT codes of Table 10-4. -/
inductive RTy where
  | bf16 | f16 | f32 | f64 | narrow
  deriving DecidableEq, Repr

/-- The eight fields of a 96-bit word, Table 12-1. -/
structure Raw where
  op : BitVec 8
  g  : BitVec 4
  h  : BitVec 12
  d  : BitVec 10
  a  : BitVec 10
  b  : BitVec 10
  m  : BitVec 10
  x  : BitVec 32
  deriving DecidableEq, Repr

/-- SPDM requests of Table 0-2. -/
inductive Spdm where
  | measurement | certificate | challenge
  deriving DecidableEq, Repr

/-- Where an uncorrectable error strikes: a line of memory, storage inside a core by its unit number with the team that holds
it (R443), or a fabric port (R452). The place in a core is 512 times a wave's number in the team plus a register's number
(Table 12-3) for the register pool (1) and the uniform or cursor file (5), a line's index for the L1 (2), a byte of the core's
share for local memory (3, R43), and a tile for accumulator memory (4). -/
inductive ErrSite where
  | line (pa : Nat)
  | core (core unit team place lane : Nat)
  | port (n : Nat)
  deriving DecidableEq, Repr

/-- What a peer asks of this device's memory (R115, R124, R151): bytes stand for their number in a read. -/
inductive PeerOp where
  | read (n : Nat)
  | write (data : List Byte)
  | atom (aop : Aop) (ty : Ty) (b cmp : DWord)
  | acc (aop : AccOp) (ty : Ty) (addend : DWord)
  deriving DecidableEq, Repr

/-- A migration chunk: the header fields of Table 23-10 (with its reserved bits as one number) and the payload. -/
structure Chunk where
  kind : Nat
  seq  : Nat
  addr : Nat
  rsv  : Nat
  data : List Byte
  deriving DecidableEq, Repr

/-- The instructions and operations, one constructor per row of spec/opcode_table.json. -/
inductive Instr where
  -- integer and logic (spec/13)
  | iadd (hd : Hdr) (d : Dst) (a b : Src) (sat : Bool) (ty : Ty)
  | iaddImm (hd : Hdr) (d : Dst) (a : Src) (imm : Word) (sat : Bool) (ty : Ty)
  | isub (hd : Hdr) (d : Dst) (a b : Src) (sat : Bool) (ty : Ty)
  | imad (hd : Hdr) (d : Dst) (a b c : Src) (wide : Bool) (ty : Ty)
  | imadImm (hd : Hdr) (d : Dst) (a : Src) (imm : Word) (ty : Ty)
  | imulh (hd : Hdr) (d : Dst) (a b : Src) (ty : Ty)
  | iadd64 (hd : Hdr) (d : Dst) (a b : Src)
  | iadd64Imm (hd : Hdr) (d : Dst) (a : Src) (imm : Word)
  | lea (hd : Hdr) (d : Dst) (a b : Src) (sh : BitVec 4) (ty : Ty)
  | leaImm (hd : Hdr) (d : Dst) (a : Src) (imm : Word) (sh : BitVec 4) (ty : Ty)
  | imin (hd : Hdr) (d : Dst) (a b : Src) (ty : Ty)
  | imax (hd : Hdr) (d : Dst) (a b : Src) (ty : Ty)
  | iminImm (hd : Hdr) (d : Dst) (a : Src) (imm : Word) (ty : Ty)
  | imaxImm (hd : Hdr) (d : Dst) (a : Src) (imm : Word) (ty : Ty)
  | iabs (hd : Hdr) (d : Dst) (a : Src) (sat : Bool) (ty : Ty)
  | isetp (hd : Hdr) (pd : PDst) (a b : Src) (pc : Pred) (cmp : Cmp) (bop : Bop) (ty : Ty)
  | isetpImm (hd : Hdr) (pd : PDst) (a : Src) (imm : Word) (cmp : Cmp) (ty : Ty)
  | isel (hd : Hdr) (d : Dst) (a b : Src) (pneg : Bool) (pr : Pred) (ty : Ty)
  | iselImm (hd : Hdr) (d : Dst) (a : Src) (imm : Word) (pneg : Bool) (pr : Pred) (ty : Ty)
  | shl (hd : Hdr) (d : Dst) (a b : Src) (ty : Ty)
  | shr (hd : Hdr) (d : Dst) (a b : Src) (ty : Ty)
  | sar (hd : Hdr) (d : Dst) (a b : Src) (ty : Ty)
  | shlImm (hd : Hdr) (d : Dst) (a : Src) (amt : BitVec 6) (ty : Ty)
  | shrImm (hd : Hdr) (d : Dst) (a : Src) (amt : BitVec 6) (ty : Ty)
  | sarImm (hd : Hdr) (d : Dst) (a : Src) (amt : BitVec 6) (ty : Ty)
  | rot (hd : Hdr) (d : Dst) (a b : Src) (right : Bool) (ty : Ty)
  | bool3 (hd : Hdr) (d : Dst) (a b c : Src) (w64 : Bool) (fn : BitVec 8)
  | bool3Imm (hd : Hdr) (d : Dst) (a : Src) (imm : Word) (fn : BitVec 8)
  | popc (hd : Hdr) (d : Dst) (a : Src) (ty : Ty)
  | clz (hd : Hdr) (d : Dst) (a : Src) (ty : Ty)
  | brev (hd : Hdr) (d : Dst) (a : Src) (ty : Ty)
  | bfe (hd : Hdr) (d : Dst) (a b : Src) (ty : Ty)
  | bfi (hd : Hdr) (d : Dst) (a b c : Src)
  | bsel (hd : Hdr) (d : Dst) (a b c : Src)
  -- moves, wave-wide exchanges and predicates (spec/13)
  | mov (hd : Hdr) (d : Dst) (a : Src) (ty : Ty)
  | movi (hd : Hdr) (d : Dst) (imm : Word) (ty : Ty)
  | movw (hd : Hdr) (d : Dst) (a : Src) (ln : BitVec 5)
  | shfl (hd : Hdr) (d : Dst) (a b : Src) (m : MaskSrc) (mode : ShflMode)
  | vote (hd : Hdr) (pd : PDst) (pa : Pred) (m : MaskSrc) (mode : VoteMode)
  | ballot (hd : Hdr) (d : Dst) (pa : Pred) (m : MaskSrc)
  | matchv (hd : Hdr) (d : Dst) (a : Src) (m : MaskSrc) (all : Bool) (ty : Ty)
  | redux (hd : Hdr) (d : Dst) (a : Src) (m : MaskSrc) (rop : ReduxOp) (ty : Ty)
  | s2v (hd : Hdr) (d : Dst) (wa : BitVec 7)
  | psetp (hd : Hdr) (pd : PDst) (a b : Src) (pc : Pred) (z : Bool) (bop : Bop) (ty : Ty)
  | plop (hd : Hdr) (pd : PDst) (pa pb pc : Pred) (fn : BitVec 8)
  -- floating point (spec/14)
  | fadd (hd : Hdr) (d : Dst) (a b : Src) (fm : FMod) (ty : Ty)
  | fmul (hd : Hdr) (d : Dst) (a b : Src) (fm : FMod) (ty : Ty)
  | ffma (hd : Hdr) (d : Dst) (a b c : Src) (fm : FMod) (ty : Ty)
  | fmin (hd : Hdr) (d : Dst) (a b : Src) (ftz na nl : Bool) (ty : Ty)
  | fmax (hd : Hdr) (d : Dst) (a b : Src) (ftz na nl : Bool) (ty : Ty)
  | fsetp (hd : Hdr) (pd : PDst) (a b : Src) (pc : Pred) (bop : Bop) (ftz : Bool) (cmp : FCmp) (ty : Ty)
  | fclass (hd : Hdr) (d : Dst) (a : Src) (ty : Ty)
  | frcp (hd : Hdr) (d : DReg) (a : Src) (rm : Rm) (ftz : Bool)
  | frsq (hd : Hdr) (d : DReg) (a : Src) (ftz : Bool)
  | fsqrt (hd : Hdr) (d : DReg) (a : Src) (rm : Rm) (ftz : Bool)
  | fex2 (hd : Hdr) (d : DReg) (a : Src) (ftz : Bool)
  | flg2 (hd : Hdr) (d : DReg) (a : Src) (ftz : Bool)
  | fsin (hd : Hdr) (d : DReg) (a : Src) (ftz : Bool)
  | fcos (hd : Hdr) (d : DReg) (a : Src) (ftz : Bool)
  | specialFunctionResult (seq : Nat)
  | hadd2 (hd : Hdr) (d : Dst) (a b : Src) (fm : FMod) (ty : Ty)
  | hfma2 (hd : Hdr) (d : Dst) (a b c : Src) (fm : FMod) (ty : Ty)
  | dot4 (hd : Hdr) (d : Dst) (a b c : Src) (sat : Bool) (ty : Ty)
  | dot2 (hd : Hdr) (d : Dst) (a b c : Src) (rm : Rm) (ty : Ty)
  | faddImm (hd : Hdr) (d : Dst) (a : Src) (imm : Word) (rm : Rm) (ftz na : Bool) (ty : Ty)
  | fmulImm (hd : Hdr) (d : Dst) (a : Src) (imm : Word) (rm : Rm) (ftz na : Bool) (ty : Ty)
  | ffmaImm (hd : Hdr) (d : Dst) (a : Src) (imm : Word) (rm : Rm) (ftz na : Bool) (ty : Ty)
  | dadd (hd : Hdr) (d : Dst) (a b : Src) (rm : Rm) (na nl : Bool)
  | dmul (hd : Hdr) (d : Dst) (a b : Src) (rm : Rm) (na nl : Bool)
  | dfma (hd : Hdr) (d : Dst) (a b c : Src) (rm : Rm) (na nl : Bool)
  | dsetp (hd : Hdr) (pd : PDst) (a b : Src) (pc : Pred) (bop : Bop) (cmp : FCmp)
  | cvt (hd : Hdr) (d : Dst) (a : Src) (rm : Rm) (ftz sat : Bool) (sty ty : Ty)
  | cvtn (hd : Hdr) (d : Dst) (a : Src) (elem : BitVec 3) (rm : Rm) (freg : BitVec 3) (fromN : Bool) (ty : Ty)
  | cvtef (hd : Hdr) (d : Dst) (a : Src) (r : BitVec 8) (elem : BitVec 3) (freg : BitVec 3) (ty : Ty)
  | cvtw (hd : Hdr) (d : Dst) (a : Src) (elem : BitVec 3) (rm : Rm) (freg : BitVec 3) (ty : Ty)
  | pack (hd : Hdr) (d : Dst) (a b : Src) (rm : Rm) (ftz : Bool) (ty : Ty)
  | unpack (hd : Hdr) (d : Dst) (a : Src) (ftz : Bool) (ty : Ty)
  | bscale (hd : Hdr) (d : Dst) (a b : Src) (freg : BitVec 3) (mode : BsMode)
  -- memory, atomics, accumulates and synchronisation (spec/15)
  | ld (hd : Hdr) (d : DReg) (a : Src) (off : BitVec 24) (ch : CHint) (mt : MemTy)
  | st (hd : Hdr) (a : Src) (off : BitVec 24) (b : Src) (ch : CHint) (mt : MemTy)
  | ldl (hd : Hdr) (d : DReg) (a : Src) (off : BitVec 24) (mt : MemTy)
  | stl (hd : Hdr) (a : Src) (off : BitVec 24) (b : Src) (mt : MemTy)
  | ldw (hd : Hdr) (d : BitVec 7) (a : BitVec 7) (off : BitVec 24) (ch : CHint) (ty : Ty)
  | pref (hd : Hdr) (a : Src) (off : BitVec 24) (ch : CHint)
  | cctlUse (hd : Hdr) (a : Src) (off : BitVec 24) (b : Src) (ch : CHint)
  | cctlL1drop (hd : Hdr) (a : Src) (off : BitVec 24) (ch : CHint)
  | cctlWb (hd : Hdr) (a : Src) (off : BitVec 24) (ch : CHint)
  | atom (hd : Hdr) (d : DReg) (a : Src) (off : BitVec 24) (b : Src) (ch : CHint) (aop : Aop) (ty : Ty)
  | atomLocal (hd : Hdr) (d : DReg) (a : Src) (off : BitVec 24) (b : Src) (aop : Aop) (ty : Ty)
  | acc (hd : Hdr) (a : Src) (off : BitVec 24) (b : Src) (ch : CHint) (aop : AccOp) (ty : Ty)
  | flushres (hd : Hdr)
  | fence (hd : Hdr) (agent : Agent) (sp : Spaces)
  | bar (hd : Hdr) (bn : BitVec 4) (stages : BitVec 4) (arrive : Bool)
  | gbar (hd : Hdr) (bn : BitVec 2) (stages : BitVec 4) (arrive : Bool)
  | mwait (hd : Hdr) (d : DReg) (a : Src) (off : BitVec 24) (b : Src) (ch : CHint) (cmp : Cmp) (ty : Ty)
  | claim (hd : Hdr) (n : BitVec 5)
  | release (hd : Hdr) (n : BitVec 5)
  | nap (hd : Hdr) (n : BitVec 12)
  -- graph space (spec/16)
  | gnewg (hd : Hdr) (pd : Pred) (d : DReg) (a : Src)
  | gnewv (hd : Hdr) (pd : Pred) (d : DReg) (g : GidSrc) (a : Src)
  | gfreev (hd : Hdr) (pd : Pred) (d : DReg) (g : GidSrc) (a : Src)
  | gadd (hd : Hdr) (pd : Pred) (d : DReg) (g : GidSrc) (a b : Src) (c : Option Src)
  | gdel (hd : Hdr) (pd : Pred) (d : DReg) (g : GidSrc) (a b : Src) (dir : Dir) (byEnd : Bool)
  | gswap (hd : Hdr) (pd : Pred) (d : DReg) (g : GidSrc) (a b c : Src) (dir : Dir)
  | gswapShared (hd : Hdr) (pd : Pred) (d : DReg) (g : GidSrc) (a b c : Src) (dir : Dir)
  | glde (hd : Hdr) (pd : Pred) (d : DReg) (g : GidSrc) (a b : Src) (dir : Dir)
  | gdeg (hd : Hdr) (pd : Pred) (d : DReg) (g : GidSrc) (a : Src) (dir : Dir)
  | gldv (hd : Hdr) (pd : Pred) (d : DReg) (g : GidSrc) (a : Src) (sz : Bool) (off : BitVec 5)
  | gstv (hd : Hdr) (pd : Pred) (d : DReg) (g : GidSrc) (a b : Src) (sz : Bool) (off : BitVec 5)
  | gopen (hd : Hdr) (pd : Pred) (d : DReg) (g : GidSrc) (a : Src) (dir : Dir) (cur : BitVec 2)
  | gnext (hd : Hdr) (pd : Pred) (d : DReg) (cur : BitVec 2)
  | gseek (hd : Hdr) (pd : Pred) (d : DReg) (b : Src) (cur : BitVec 2)
  | gclose (hd : Hdr) (pd : Pred) (d : DReg) (cur : BitVec 2)
  | gwaitlow (hd : Hdr) (pd : Pred) (d : DReg) (g : GidSrc) (a : Src)
  -- engine commands (spec/17)
  | cpy (hd : Hdr) (a b : Src) (len : BitVec 8) (hnd : BitVec 6) (hen : Bool) (rcnt : BitVec 5) (dir : CpyDir) (grp : Grp)
  | ggath (hd : Hdr) (d : BitVec 7) (g : GidSrc) (a b c : Src) (mode : GMode) (loc : Bool) (dir : Dir)
  | waitc (hd : Hdr) (cls : Cls) (n : BitVec 6)
  | hwaitFull (hd : Hdr) (d : DReg) (hnd : BitVec 6)
  | hwaitFree (hd : Hdr) (hnd : BitVec 6)
  | hrel (hd : Hdr) (hnd : BitVec 6)
  | mstart (hd : Hdr) (a b : Src) (count : BitVec 8) (mask : BitVec 16)
  | mstop (hd : Hdr)
  -- control flow (spec/13) and system (spec/18)
  | bra (hd : Hdr) (off : Word)
  | brx (hd : Hdr) (a : Src)
  | call (hd : Hdr) (off : Word)
  | ret (hd : Hdr)
  | exit (hd : Hdr)
  | conv (hd : Hdr) (m : MaskSrc)
  | yield (hd : Hdr)
  | nop (hd : Hdr)
  | bkpt (hd : Hdr) (tag : BitVec 12)
  | trap (hd : Hdr) (code : BitVec 12)
  | eret (hd : Hdr) (next : Bool)
  | rdsys (hd : Hdr) (d : DReg) (idx : BitVec 12)
  | wrsys (hd : Hdr) (idx : BitVec 12) (a : Src)
  | rdts (hd : Hdr) (d : DReg)
  | rdclk (hd : Hdr) (d : DReg)
  | setprio (hd : Hdr) (n : BitVec 4)
  -- Roller stream words (spec/17)
  | mma (tile : BitVec 4) (dA dB : BitVec 8) (kn : Bool) (ty : RTy)
  | mzero (tile : BitVec 4)
  | mstore (dA : BitVec 8) (tile : BitVec 4) (rm : Rm) (ty : RTy)
  | mscale (tile : BitVec 4) (f64 : Bool) (imm : Word)
  | mbar (bn : BitVec 4)
  | mloop (step : BitVec 8) (body : BitVec 8) (count : BitVec 16)
  | mfmt (freg : BitVec 3) (imm : BitVec 26)
  | rollerStreamFetched (core : Nat)
  -- policy words (spec/21)
  | policyLi (d : BitVec 4) (i : BitVec 14)
  | policyLui (d : BitVec 4) (i : BitVec 14)
  | policyAddi (d a : BitVec 4) (i : BitVec 14)
  | policyAdd (d a b : BitVec 4)
  | policySub (d a b : BitVec 4)
  | policyAnd (d a b : BitVec 4)
  | policyOr (d a b : BitVec 4)
  | policyXor (d a b : BitVec 4)
  | policyShl (d a b : BitVec 4)
  | policyShr (d a b : BitVec 4)
  | policyMinu (d a b : BitVec 4)
  | policyMaxu (d a b : BitVec 4)
  | policySltu (d a b : BitVec 4)
  | policyVq (d a f : BitVec 4)
  | policyVs (d a f : BitVec 4)
  | policyVp (d a f : BitVec 4)
  | policyVf (d f : BitVec 4)
  | policyVg (d f : BitVec 4)
  | policyFit (d a b : BitVec 4)
  | policyFind (d a b : BitVec 4)
  | policyBeq (a b : BitVec 4) (i : BitVec 14)
  | policyBne (a b : BitVec 4) (i : BitVec 14)
  | policyBltu (a b : BitVec 4) (i : BitVec 14)
  | policyBgeu (a b : BitVec 4) (i : BitVec 14)
  | policyBra (i : BitVec 14)
  | qloop (d : BitVec 4) (n : BitVec 14)
  | policyEndPlace (a b : BitVec 4)
  | policyEndPreempt (a : BitVec 4)
  -- steps of homes and cores (spec/03, spec/05, spec/10): `req`, `rep`, `mon` are serial numbers
  | homeRead (req : Nat)
  | leaseRenewal (req : Nat)
  | homeWrite (req : Nat)
  | readModifyWrite (req : Nat)
  | readReply (rep : Nat)
  | writeReply (rep : Nat)
  | ceilingHoldRelease (req : Nat)
  | l2LineFill (home line : Nat)
  | mwaitHomeRead (req : Nat)
  | monitorReread (req : Nat)
  | peerWordPoll (req : Nat) (value : DWord)
  -- steps of accumulates and residuals (spec/06)
  | combiningEntryAge (cluster ent : Nat)
  | accRequestSend (cluster ent : Nat)
  | homeAccumulate (areq : Nat)
  | accUnitPerform (home : Nat)
  | mustAcceptService (home cluster : Nat)
  | accAccepted (areq : Nat)
  | accRefused (areq : Nat)
  | residualAgeExpiry (cluster slot : Nat)
  | residualDelivery (cluster slot : Nat)
  -- steps of the lath engines (spec/04, spec/16)
  | lathMutation (req : Nat)
  | lathRead (req : Nat)
  | lathReply (rep : Nat)
  | gnewgComplete (seq : Nat)
  | reclamation (part gid vertex : Nat) (dir : Dir)
  -- translation (spec/02)
  | pageWalk (die idx : Nat)
  | tlbInvPage (part : Nat) (pasid : BitVec 20) (vpn : BitVec 40)
  | tlbInvPasid (part : Nat) (pasid : BitVec 20)
  | tlbInvPartition (part : Nat)
  | tlbInvComplete (part : Nat)
  | faultPtrsWrite (part : Nat) (value : DWord)
  -- Hod (spec/10, spec/17)
  | hodPart (op idx : Nat)
  | gatherRankResolve (op ln : Nat)
  | hodOperationComplete (op : Nat)
  -- waves, teams, grids and the watchdog (spec/09, spec/22)
  | waveRetirement (wave : Nat)
  | gridCompletion (part vertex : Nat)
  | trapClaimDeadlock (team : Nat)
  | throttleRelease (wave : Nat)
  | napExpiry (wave : Nat)
  -- Trowel and scheduler (spec/20, spec/21)
  | dispatchDecision (part : Nat)
  | preemptionDecision (part : Nat)
  | faultDecision (part : Nat)
  | decisionApply (part : Nat)
  | quantumExpiry (part : Nat)
  | teamHalted (team : Nat)
  | teamSaved (team : Nat)
  | nodeArrival (part vertex : Nat)
  | nodeCompletion (part vertex : Nat)
  | watchdogExpiry (part : Nat)
  -- dies, limits and errors (spec/22, spec/23)
  | homeOfflineReply (req : Nat)
  | uncorrectableError (site : ErrSite)
  -- host and peers (spec/05, spec/22, spec/23)
  | hostCxlMemRequest (write cacheable : Bool) (pa : Nat) (data : List Byte)
  | hostSnoop (pa : Nat) (data : List Byte)
  | backInvalidationResponse (line : Nat)
  | peerRequest (part pa : Nat) (op : PeerOp)
  | registerWrite (part off : Nat) (value : DWord)
  | portGnewv (part slot gid h : Nat)
  | portGadd (part slot gid u v : Nat) (pay : DWord)
  | portGdel (part slot gid u rank : Nat)
  | portGstv (part slot gid u off : Nat) (data : BitVec 128)
  | portGldv (part slot gid u off : Nat)
  | portGdeg (part slot gid u : Nat)
  | graphPortInvalidRecord (part slot : Nat)
  -- mailbox and policy commits (spec/21, spec/23)
  | partCreate (tag : BitVec 16) (a0 a1 a2 a3 a4 a5 : DWord)
  | partDelete (tag : BitVec 16) (a0 : DWord)
  | warmReset (tag : BitVec 16) (a0 : DWord)
  | policyCommit (part : Nat) (value : DWord)
  | policyCommitChecksEnd (part : Nat)
  -- encodings that are no instruction, records and commands that are refused
  | unassignedEncoding (raw : Raw)
  | rollerUnassignedWord (raw : Raw)
  -- the constructors of the greatest numbers: a compiled constructor that has fields must have a number below 244
  | mend
  | policyEndNone
  | policyEndResume
  | policyEndSuspend
  | policyEndKillteam
  | policyEndKillgrid
  | policyEndEscalate
  | ptsTick
  | ceilingAdvance
  | throttleScoreHalving
  | fullDeviceReset
  | powerOn
  | securityAlarm
  | thermalTrip
  | coolantFlowTrip
  | floorRecompute
  | modulePowerLimit (msOver : Nat)
  | junctionTempLimit (die gap : Nat)
  | hbmTempLimit (stack : Nat)
  | peerUnreachable (peer : Nat)
  | tokenRelease (token : BitVec 32)
  | spdmRequest (kind : Spdm)
  | dieReadmission (die : Nat)
  | migPrecopy (part : Nat)
  | migStop (part : Nat)
  | migContinue (part : Nat)
  | migResume (part : Nat)
  | stoppingEnd (part : Nat)
  | migrationChunkRead (part : Nat)
  | migrationChunkWrite (part : Nat) (c : Chunk)
  | migCtlInvalidCommand (part : Nat) (cmd : BitVec 3)
  | mailboxDoorbellRefused (fn : Nat) (cmd : DWord)
  | recover (tag : BitVec 16) (a0 a1 : DWord)
  | retire (tag : BitVec 16) (a0 a1 : DWord)
  | resume (fn : Nat) (tag : BitVec 16) (a0 a1 : DWord)
  | kill (fn : Nat) (tag : BitVec 16) (a0 a1 a2 : DWord)
  | peerAcknowledgement (req : Nat) (data : List Byte)
  | hostOwnershipGrant (line : Nat)
  | mailboxCommandEnd (fn : Nat)
  | policySlotExchange (part : Nat)
  deriving DecidableEq, Repr

end Sys2Proof
end

