-- ==== Sys2Proof/Machine/State.lean ====
section
/-! DEFINITION. The state of the module: every piece of state that the spec gives it, as plain data, and the state
after reset. Tables list only the entries that differ from a fresh one; the accessors stand in Machine/Ops.lean.
Timestamps, cycles and counts are natural numbers; a register that software reads is formed from them. -/

namespace Sys2Proof.Machine

/-! ## Who moves next (the model's own, log entry 1) -/

/-- Issue class of a quarter: vector ALU or other (R196). -/
inductive IssueClass where
  | alu | other
  deriving DecidableEq, Repr

/-- A read of the host (R50, R456, R457, R459, R484): of a partition's register window, of the first 4 KiB of a
function's BAR2, or of a slot of a partition's graph port window, by byte offset. -/
inductive HostRead where
  | window (part off : Nat)
  | mailbox (fn off : Nat)
  | port (part off : Nat)
  deriving DecidableEq, Repr

/-- One move of the agenda: an event of another agent, an issue slot of a quarter, a Roller, or a Trowel; a read of the
host; or the 32 bytes that the host writes to a slot of a graph port window (Table 23-6). -/
inductive Turn where
  | event (i : Instr)
  | read (r : HostRead)
  | port (part slot : Nat) (record : BitVec 256)
  | issue (core quarter : Nat) (cls : IssueClass)
  | roller (core : Nat)
  | trowel (part : Nat)
  deriving DecidableEq, Repr

/-- The agent whose instruction is now performed. -/
inductive Focus where
  | none
  | wave (id : Nat)
  | roller (core : Nat)
  | trowel (part : Nat)
  deriving DecidableEq, Repr

/-! ## Homes -/

/-- A line held at its home (R61, R64, R99, R116, R129, R114). `backing` is what storage holds under a dirty line. -/
structure Line where
  wts      : Nat
  rts      : Nat
  use      : Nat
  dead     : Bool
  dirty    : Bool
  backing  : List Byte
  hostMark : Bool
  owned    : Bool
  win      : Nat
  count    : Nat
  last     : Nat
  hint     : Nat
  deriving DecidableEq, Repr

/-- Retired maxima of a home (R111), and its charges by partition in the current window of 1,024 cycles (R130). -/
structure Home where
  rw      : Nat
  rd      : Nat
  window  : Nat
  charges : Tbl Nat
  deriving DecidableEq, Repr

/-- A monitor of a home (R221): the request that waits, its word, and whether it is set. -/
structure Monitor where
  home : Nat
  pa   : Nat
  req  : Nat
  deriving DecidableEq, Repr

/-- An entry of a reply table (R437): the home that keeps it, the stored result and its timestamp. -/
structure TokEntry where
  home   : Nat
  result : List Word
  t      : Nat
  deriving DecidableEq, Repr

/-- A token a cluster has not released (R437): the cluster that holds it, the wave whose request carries it, and
whether its reply is consumed. -/
structure Token where
  cluster  : Nat
  wave     : Option Nat
  consumed : Bool
  deriving DecidableEq, Repr

/-! ## Translation -/

/-- A translation (R24, R30): the leaf's page, frame, size and attribute bits. -/
structure TlbEnt where
  part  : Nat
  pasid : Nat
  va    : Nat
  pa    : Nat
  size  : Nat
  tier  : Nat
  ms    : Bool
  gb    : Bool
  x     : Bool
  w     : Bool
  r     : Bool
  last  : Nat
  deriving DecidableEq, Repr

/-- What an access does, the ACCESS codes of a page word (R38). -/
inductive Access where
  | read | write | rmw | fetch
  deriving DecidableEq, Repr

/-- Who waits for a page walk (R32, R41): a prefetch waits too, and takes no fault (R330). -/
inductive Waiter where
  | wave (id : Nat)
  | pref (id : Nat)
  | hod (op idx : Nat)
  deriving DecidableEq, Repr

/-- A page (its base of 64 KiB) that waits for a walk on a die, with the accesses that wait (R32). -/
structure Miss where
  part    : Nat
  pasid   : Nat
  va      : Nat
  waiters : List (Waiter × Access)
  deriving DecidableEq, Repr

/-- A page of the table of pending faulting pages (R37), with the number of its first fault record. -/
structure PendPage where
  part  : Nat
  pasid : Nat
  va    : Nat
  fid   : Nat
  deriving DecidableEq, Repr

/-- A pointer to a node of a walk, cached (R30: root and G-level entries). -/
structure WalkEnt where
  part  : Nat
  pasid : Nat
  va    : Nat
  level : Nat
  node  : Nat
  deriving DecidableEq, Repr

/-! ## Requests and replies -/

/-- Operand data of a graph operation (R349 to R358); GNEWG takes its descriptor from its instruction in flight, and names its
creator's PASID. -/
inductive GOp where
  | newg (pasid : Nat)
  | close (cur : Nat)
  | newv (h : Nat)
  | freev (v : Nat)
  | add (u v : Nat) (pay : Option DWord)
  | del (v n : Nat) (dir : Dir) (byEnd : Bool)
  | swap (v n w : Nat) (dir : Dir) (shared : Bool)
  | lde (v n : Nat) (dir : Dir)
  | deg (v : Nat) (dir : Dir)
  | ldv (v : Nat) (wide : Bool) (off : Nat)
  | stv (v : Nat) (wide : Bool) (off : Nat) (data : BitVec 128)
  | opn (v : Nat) (dir : Dir) (cur : Nat)
  | next (cur : Nat)
  | seek (cur n : Nat)
  deriving DecidableEq, Repr

/-- What a lane request asks (R327 to R333, R339, R347). An MWAIT read names the lanes that share it (R221). -/
inductive ReqKind where
  | read (renew : Option Nat)
  | write (data : List Byte)
  | atom (aop : Aop) (ty : Ty) (b cmp : DWord)
  | pref (keep : Bool)
  | mwait (cmp : Cmp) (ty : Ty) (b : DWord) (lanes : LaneSet)
  | cctl
  | graph (gid : Nat) (op : GOp)
  | acc (aop : AccOp) (ty : Ty) (addend : DWord)
  deriving DecidableEq, Repr

/-- Where the result of a request goes: `kept` results stand in the flight until they are written all at once, so many
words for each lane, and `desc` collects the words of descriptors (R349). -/
inductive DestKind where
  | none
  | kept (n : Nat)
  | desc
  | ext (signed : Bool) (bits : Nat)
  | words (n : Nat)
  | ret
  | graphRes
  deriving DecidableEq, Repr

/-- Where a request to a peer goes (R461): the remote device, its partition, and the physical address there. -/
structure Remote where
  dev  : Nat
  part : Nat
  addr : Nat
  deriving DecidableEq, Repr

/-- One lane request (R435, R436), and where its reply goes. `remote` tells where one to a peer has been sent. `agen` is the agent generation of its die (R121). An access
to a peer has been answered `acks` times, with the bytes `got` (R149). -/
structure Req where
  kind   : ReqKind
  core   : Nat
  wave   : Nat
  part   : Nat
  gen    : Nat
  agen   : Nat
  lane   : Nat
  flight : Nat
  pa     : Nat
  va     : Nat
  size   : Nat
  home   : Nat
  l1     : Nat
  hhint  : Nat
  token  : Option Nat
  orphan : Bool
  armed  : Bool
  held   : Option Nat
  low    : Nat
  acks   : Nat
  got    : List Byte
  remote : Option Remote := none
  deriving DecidableEq, Repr

/-- A reply on its way to its core: the request it answers, its words and its timestamps. -/
structure Reply where
  req   : Req
  words : List Word
  t     : Nat
  wts   : Nat
  rts   : Nat
  line  : List Byte
  status : Nat
  poisoned : Bool
  deriving DecidableEq, Repr

/-- A variable-latency instruction in flight (R250, R251): its scoreboard, the registers it writes, the lanes whose
results are still missing, the program counter of the instruction, its active lanes, and the results that it keeps. -/
structure Flight where
  wave  : Nat
  sb    : Option Nat
  regs  : List Nat
  left  : LaneSet
  dest  : DestKind
  d     : DReg
  pd    : Pred
  cur   : Option Nat
  pc    : DWord
  first : Nat
  lanes : LaneSet
  vals  : List Word
  deriving DecidableEq, Repr

/-- A saved request of a wave (R435, R442), with the number that orders it among the wave's requests: the one under which it was
sent, or takes its place at a resumption. -/
structure Packet where
  seq : Nat
  req : Req
  deriving DecidableEq, Repr

/-! ## Waves -/

/-- A bypass latch (R256). -/
structure Latch where
  vals  : List Word
  valid : Bool
  deriving DecidableEq, Repr

/-- A cursor (Table 16-4). -/
structure Cursor where
  snap  : Nat
  vtx   : Nat
  pos   : Nat
  sdeg  : Nat
  gid   : Nat
  dir   : Dir
  slot  : Nat
  deriving DecidableEq, Repr

/-- Threads parked at a wave-wide instruction (R185, R291): the mask read when the first thread parked. After a pre-emption
it is `old`: the next thread that parks reads the mask afresh. -/
structure Gather where
  pc    : DWord
  mask  : LaneSet
  lanes : LaneSet
  old   : Bool
  deriving DecidableEq, Repr

/-- The spaces that an operation touches or that a FENCE names (Table 7-3, Table 7-4). -/
structure Touch where
  loc  : Bool
  glob : Bool
  grph : Bool
  deriving DecidableEq, Repr

/-- An asynchronous operation in a completion class of a wave (R152, R153), oldest first in the wave's list, with the program
counter and the active lanes of its instruction; `names` gives for each line that an ACC names the virtual address by which
it does (R38, R442). -/
structure AOp where
  id    : Nat
  cls   : Cls
  touch : Touch
  done  : Bool
  t     : Nat
  pc    : DWord
  lanes : LaneSet
  names : List (Nat × Nat)
  deriving DecidableEq, Repr

/-- What a blocked wave waits for (R154, R257). A fence keeps the greatest timestamp of the operations of its set that
have completed (R157). -/
inductive Blocked where
  | none
  | bar (n : Nat) (carried : Bool) (stages : Nat) (arrive : Bool)
  | gbar (n : Nat) (carried : Bool) (stages : Nat) (arrive : Bool)
  | mwait (flight : Nat)
  | claim (n : Nat)
  | nap (left : Nat)
  | gwaitlow (gid t flight : Nat)
  | fence (ops : List Nat) (t : Nat)
  | waitc (cls : Cls) (n : Nat)
  | hwait (handle : Nat) (full : Bool) (flight : Nat)
  | mstart
  | mfetch
  deriving DecidableEq, Repr

/-- Why a wave is suspended (R35, R390, R434, R441). -/
inductive Susp where
  | none
  | fault
  | trap (code : Nat)
  | offline
  | halted
  deriving DecidableEq, Repr

/-- The trap registers (Table 18-3). -/
structure TrapRegs where
  inn   : Bool
  code  : BitVec 8
  pc    : DWord
  lanes : LaneSet
  info  : DWord
  deriving DecidableEq, Repr

/-- The issue state of a wave (R184, R197 to R199, Table 12-2). -/
structure IssueSt where
  runPc     : Option DWord
  runCount  : Nat
  stallEnd  : Nat
  lastIssue : Nat
  ylded     : Option Nat
  lost      : Nat
  score     : Nat
  refusedAt : Option Nat
  graceEnd  : Nat
  blockedAt : Nat
  deriving DecidableEq, Repr

/-- A format register as an agent sees it (R242): its value, the serial number of the write that gave it, and whether no
barrier has ordered others after that write yet. -/
structure FmtEnt where
  stamp : Nat
  val   : DWord
  own   : Bool
  deriving DecidableEq, Repr

/-- A wave (R177 to R193). Registers not listed read as zero (R54). `fmts` are the format registers as the wave sees them.
`bad` lists the words of its registers that hold an uncorrectable error, by register number (Table 12-3) and lane (R443).
`xpages` lists in lane order the pages that its instruction translates, `xfault` the page words of those that have faulted
(R35, R36). -/
structure Wave where
  core    : Nat
  quarter : Nat
  slot    : Nat
  team    : Nat
  idx     : Nat
  stage   : Nat
  pc      : List DWord
  csp     : List DWord
  exited  : LaneSet
  held    : LaneSet
  v       : Tbl (List Word)
  w       : Tbl Word
  p       : Tbl LaneSet
  cur     : Tbl Cursor
  latches : List Latch
  sb      : List Nat
  pend    : List Nat
  blocks  : Nat
  fstatus : BitVec 5
  trap    : TrapRegs
  gen     : Nat
  ops     : List AOp
  iss     : IssueSt
  gathers : List Gather
  blocked : Blocked
  susp    : Susp
  packets : List Packet
  fmts    : Tbl FmtEnt
  bad     : List (Nat × Nat)
  xpages  : List Nat
  xfault  : List (Nat × DWord)
  deriving DecidableEq, Repr

/-! ## Teams, gangs and grids -/

/-- Handle states (Table 10-2). -/
inductive HState where
  | free | filling | full | draining
  deriving DecidableEq, Repr

/-- A handle (R208). -/
structure Handle where
  st       : HState
  readers  : Nat
  releases : Nat
  status   : Nat
  t        : Nat
  op       : Nat
  deriving DecidableEq, Repr

/-- A phase of a barrier (R338): its stages once fixed, the waves that arrived, the greatest pts of the arrivers, the
arrivals carried to the next phase in issue order, whether the Roller has arrived, and the format registers that the
arrivers have seen (R242). -/
structure Phase where
  stages  : Option Nat
  arrived : List Nat
  pts     : Nat
  carried : List Nat
  roller  : Bool
  fmts    : Tbl FmtEnt
  deriving DecidableEq, Repr

/-- A loop entry of the Roller (R378): body start and end, iterations left, iteration, step. -/
structure MLoopEnt where
  start : Nat
  stop  : Nat
  left  : Nat
  iter  : Nat
  step  : Nat
  deriving DecidableEq, Repr

/-- A team's Roller stream (R213, R217, R218, R220): its address, the wave that started it with that wave's number in
its core and tag, the buffer and the place in it, the loop stack, the descriptor table, the barrier mask, the barrier it
waits at, and the greatest timestamp of its MSTORE writes. -/
structure Stream where
  addr    : DWord
  wave    : Nat
  slot    : Nat
  gen     : Nat
  words   : List Word96
  pc      : Nat
  loops   : List MLoopEnt
  table   : Nat
  mask    : BitVec 16
  waiting : Option Nat
  t       : Nat
  deriving DecidableEq, Repr

/-- An MSTART that fetches its stream or waits for an earlier one (R213, R369): its operands. -/
structure MFetch where
  addr  : DWord
  wave  : Nat
  count : Nat
  table : Nat
  mask  : BitVec 16
  deriving DecidableEq, Repr

/-- The status of a team or gang (R434, R441): a team is resident, halting, halted or saved. -/
inductive Life where
  | resident | halting | halted | saved | suspended | escalated
  deriving DecidableEq, Repr

/-- A team (R189, R192, R207, R337). `stopped` tells that a team trap has suspended it (R441). `fmts` are the format
registers as its Roller sees them (R242). `badTiles` lists the accumulator tiles that hold an uncorrectable error (R443). -/
structure Team where
  gang     : Nat
  slot     : Nat
  core     : Nat
  life     : Life
  stopped  : Bool
  reserve  : Nat
  claims   : List Nat
  handles  : Tbl Handle
  bars     : Tbl Phase
  fmts     : Tbl FmtEnt
  trapVec  : DWord
  stream   : Option Stream
  mfetch   : Option MFetch
  mqueue   : List MFetch
  tiles    : Tbl (Tbl Word)
  badTiles : List Nat
  joined   : Tbl Nat
  fcount   : Nat
  savedPts : Nat
  resumedAt : Nat
  deriving DecidableEq, Repr

/-- A gang (R180, R43): its local bytes and local timestamps list only what differs from zero and from `ltBase`; `badLoc`
lists the words of local memory that hold an uncorrectable error (R443). A gang
that halts since cycle `haltAt` takes the status `goal` once it is saved; `offline` is the die whose reset suspended it. -/
structure Gang where
  part     : Nat
  vertex   : Nat
  q        : Nat
  x        : Nat
  y        : Nat
  z        : Nat
  core0    : Nat
  life     : Life
  goal     : Life
  offline  : Option Nat
  haltAt   : Nat
  runPrio  : Nat
  loc      : Tbl Byte
  badLoc   : List Nat
  lt       : Tbl Nat
  ltBase   : Nat
  gbars    : Tbl Phase
  placedAt : Nat
  deriving DecidableEq, Repr

/-- What a grid's node asked when it fired (R407, R409), and how far the grid has come. `fired` is the timestamp of the
firing and `top` the greatest timestamp that work of the grid is known to have reached. -/
structure Grid where
  part    : Nat
  vertex  : Nat
  tx      : Nat
  ty      : Nat
  tz      : Nat
  stages  : List Nat
  nteam   : Nat
  split   : Nat
  mat     : Bool
  base    : Nat
  q       : Nat
  handles : Nat
  loc     : Nat
  gx      : Nat
  gy      : Nat
  gz      : Nat
  curve   : Nat
  points  : List DWord
  entry   : DWord
  pasid   : Nat
  stack   : DWord
  stackSz : Nat
  queue   : Nat
  placed  : Nat
  retired : Nat
  cancelled : Nat
  again   : List Nat
  clusters : List Nat
  waitFor : List Nat
  fired   : Nat
  top     : Nat
  drained : Bool
  killed  : Bool
  done    : Bool
  deriving DecidableEq, Repr

/-! ## Hod operations -/

/-- A segment of a copy (R202). -/
structure Seg where
  wave : Nat
  lane : Nat
  src  : Nat
  dst  : Nat
  deriving DecidableEq, Repr

/-- A part of a Hod operation (R204): at most sixteen bytes, moved by the wave and lane that supplied them. With no
source it writes the given bytes. `waits` names the faulting page for which a part waits (R41). -/
structure HPart where
  wave   : Nat
  lane   : Nat
  src    : Option Nat
  dst    : Nat
  srcLoc : Bool
  dstLoc : Bool
  bytes  : List Byte
  waits  : Option Nat
  deriving DecidableEq, Repr

/-- A lane of a gather whose rank is not yet resolved: vertex, rank and destination, and the page for which it waits
(R442). -/
structure GLane where
  lane  : Nat
  u     : Nat
  n     : Nat
  dst   : Nat
  waits : Option Nat
  deriving DecidableEq, Repr

/-- A gather (R205, R366): its graph, snapshot, mode, the lanes still to resolve, and those that failed. -/
structure GatherSt where
  wave  : Nat
  gid   : Nat
  dir   : Dir
  mode  : GMode
  loc   : Bool
  snap  : Nat
  slot  : Nat
  off   : Nat
  todo  : List GLane
  fails : List (Nat × Nat)
  deriving DecidableEq, Repr

/-- A Hod operation (R201 to R211): its configuration, the segments supplied, the waves whose slices are still expected,
and the parts still to do. -/
structure HodOp where
  cluster : Nat
  team    : Nat
  grp     : Grp
  seq     : Nat
  dir     : CpyDir
  len     : Nat
  handle  : Option Nat
  readers : Nat
  segs    : List Seg
  expect  : List Nat
  started : Bool
  parts   : Tbl HPart
  gather  : Option GatherSt
  status  : Nat
  t       : Nat
  pts     : Nat
  deriving DecidableEq, Repr

/-! ## Accumulates -/

/-- An accumulate group (R125): partition, line, operation, type. -/
structure AccKey where
  part : Nat
  line : Nat
  aop  : AccOp
  ty   : Ty
  deriving DecidableEq, Repr

/-- A word of a request: its offset in the line, the addend, whether it is carried for a residual entry, and whether
that entry's group was due. -/
structure AccWord where
  off     : Nat
  val     : DWord
  carried : Bool
  due     : Bool
  deriving DecidableEq, Repr

/-- An entry of a combining buffer (R126). `waits` names the operations that it holds addends of, by wave and
operation; `flush` those, a FLUSHRES or the end of a grid, that wait until its words are accepted (R138). `hint` is the
home hint of its ACCs (R325). -/
structure CombEnt where
  key   : AccKey
  home  : Nat
  hint  : Nat
  words : List AccWord
  born  : Nat
  pts   : Nat
  due   : Bool
  waits : List (Nat × Nat)
  flush : List (Nat × Nat)
  deriving DecidableEq, Repr

/-- An entry of a residual tile (R133): `val` is what is not in flight, `mixed` tells whether refused words have been
combined into an entry in flight, `again` whether its group is due because it was refused (R134), and `waits` names the
operations that wait for it: a FLUSHRES or the end of a grid (R138). -/
structure ResEnt where
  key      : AccKey
  home     : Nat
  off      : Nat
  val      : DWord
  refusals : Nat
  born     : Nat
  flying   : Option DWord
  mixed    : Bool
  pts      : Nat
  due      : Bool
  again    : Bool
  waits    : List (Nat × Nat)
  deriving DecidableEq, Repr

/-- An accumulate request in flight (R127 to R134), at stage 0 on its way to its home, 1 in a queue there, 2 accepted and
3 refused on its way back, with the agent generation of its die (R121). -/
structure AccReq where
  cluster : Nat
  agen    : Nat
  key     : AccKey
  words   : List AccWord
  hint    : Nat
  must    : Bool
  pts     : Nat
  home    : Nat
  deliver : Bool
  waits   : List (Nat × Nat)
  flush   : List (Nat × Nat)
  stage   : Nat
  t       : Nat
  token   : Nat
  deriving DecidableEq, Repr

/-! ## Cores, clusters, dies -/

/-- A copy of a line in an L1 (R58, R99); `bad` tells that it holds an uncorrectable error (R443). -/
structure L1Line where
  bad  : Bool
  wts  : Nat
  rts  : Nat
  data : List Byte
  pref : Bool
  last : Nat
  hint : Nat
  deriving DecidableEq, Repr

/-- A core: its pts, and for each issue slot the first cycle in which it is free;
`used` counts the bank and port uses of the cycle `usedAt` (R198). -/
structure Core where
  pts     : Nat
  slots   : Tbl Nat
  usedAt  : Nat
  used    : Tbl Nat
  split   : Nat
  l1      : Tbl L1Line
  tlb     : List TlbEnt
  victims : List (Nat × Nat)
  deriving DecidableEq, Repr

/-- A cluster (R126, R133, R201, R437). `told` lists the dies under reset of which it has written a record (R442); `sent`
counts the accumulate requests that it has sent in the cycle `sentAt` (R134). -/
structure Cluster where
  tlb    : List TlbEnt
  comb   : Tbl CombEnt
  resid  : Tbl ResEnt
  tokSeq : Nat
  owner  : Option Nat
  told   : List Nat
  sentAt : Nat
  sent   : Nat
  deriving DecidableEq, Repr

/-- A fault record (Table 2-7) with what its decision needs: the Hod operation whose part faulted (R41), and the record
under whose decision a duplicate comes (R37). -/
structure FRec where
  pages  : List DWord
  pc     : DWord
  lanes  : LaneSet
  grid   : Nat
  pasid  : Nat
  part   : Nat
  gen    : Nat
  core   : Nat
  wave   : Nat
  more   : Nat
  dup    : Bool
  pts    : Nat
  code   : Nat
  kind   : Nat
  info   : DWord
  team   : Nat
  waveId : Nat
  hod    : Option Nat
  under  : Option Nat
  written : Bool
  resume : Bool
  deriving DecidableEq, Repr

/-- Whether a die runs, or the last completed step of its warm reset (Table 22-6). -/
inductive DieSt where
  | running
  | reset (step : Nat)
  deriving DecidableEq, Repr

/-- A die: the cycle of its last reset, and its agent generation. `unrec` lists the records that wait for a free entry of the table of pending pages, with their pages (R37). -/
structure Die where
  clk   : Nat
  gen   : Nat
  st    : DieSt
  tlb   : List TlbEnt
  walks : List WalkEnt
  queue : List Miss
  pages : List PendPage
  unrec : List (FRec × List Nat)
  gap   : Nat
  deriving DecidableEq, Repr

/-! ## Graphs -/

/-- An edge record (R79); `eid` pairs the two records of an edge. `death` is none while the edge lives. -/
structure Edge where
  key   : Nat
  other : Nat
  flags : Word
  pay   : DWord
  birth : Nat
  death : Option Nat
  eid   : Nat
  deriving DecidableEq, Repr

/-- An adjacency list (R80). -/
structure EList where
  wts  : Nat
  rts  : Nat
  recs : List Edge
  deriving DecidableEq, Repr

/-- A vertex (R76, R77): its lists and payload. Payload bytes not listed are zero. `hist` lists, newest first, the
timestamps at which it was allocated and freed. -/
structure Vertex where
  alloc : Bool
  hist  : List (Nat × Bool)
  out   : EList
  inn   : EList
  pay   : Tbl Byte
  pwts  : Nat
  prts  : Nat
  deriving DecidableEq, Repr

/-- A piece of a backing region: byte offset in the region, physical address, length, and the size code of the leaves that
map it (R48, R360). -/
structure RegSeg where
  off  : Nat
  pa   : Nat
  len  : Nat
  code : Nat
  deriving DecidableEq, Repr

/-- A graph (R72 to R97). -/
structure Graph where
  vcap  : Nat
  psize : Nat
  eps   : Bool
  base  : Nat
  size  : Nat
  pasid : Nat
  segs  : List RegSeg
  t     : Nat
  awts  : Nat
  arts  : Nat
  h     : Nat
  maxT  : Nat
  verts : Tbl Vertex
  deriving DecidableEq, Repr

/-- An entry of the snapshot table (R90): graph, snapshot, count. -/
structure Snap where
  gid   : Nat
  s     : Nat
  count : Nat
  deriving DecidableEq, Repr

/-! ## Scheduling -/

/-- An entry of a ready queue (R413). -/
structure QEnt where
  vertex : Nat
  since  : Nat
  reent  : Bool
  deriving DecidableEq, Repr

/-- A request for a decision (R416, R417). -/
inductive DecReq where
  | dispatch
  | preempt (slice : Bool) (aq : Nat)
  | fault (fid : Nat)
  deriving DecidableEq, Repr

/-- An action of a decision (Table 21-4). -/
inductive Action where
  | none
  | place (q c : Nat)
  | preempt (g : Nat)
  | resume | suspend | killteam | killgrid | escalate
  deriving DecidableEq, Repr

/-- A gang as a snapshot shows it (R423): gang id, gang, grid, priority, cycle of placement, cluster. -/
structure GangView where
  id    : Nat
  gang  : Nat
  vtx   : Nat
  prio  : Nat
  age   : Nat
  clus  : Nat
  deriving DecidableEq, Repr

/-- The views a decision froze (R418, R423): words by view, index and field, and the clusters each head fits. -/
structure Views where
  vq    : List (List Word)
  vs    : List (List Word)
  vp    : List (List Word)
  vf    : List Word
  vg    : List Word
  fits  : List (List Nat)
  ages  : List Nat
  gangs : List GangView
  nclus : Nat
  deriving DecidableEq, Repr

/-- A loop of a policy program (R422): its register, its body's first word, the word after the body, its iteration. -/
structure PLoop where
  d     : Nat
  first : Nat
  after : Nat
  iter  : Nat
  deriving DecidableEq, Repr

/-- A decision in progress (R418 to R426). `version` is that of the active slot at its start, `count` the budget cycles
used; `action` is there once the program or the fallback has decided. -/
structure Decision where
  req     : DecReq
  start   : Nat
  version : BitVec 32
  image   : List Word
  pc      : Nat
  regs    : List Word
  loop    : Option PLoop
  count   : Nat
  views   : Views
  outcome : Nat
  action  : Option Action
  deriving DecidableEq, Repr

/-- A commit in progress (R431): the words read, the version, and whether the checks have passed. -/
structure Commit where
  version : BitVec 32
  src     : Nat
  len     : Nat
  ready   : Option (List Word)
  deriving DecidableEq, Repr

/-- Migration (R453 to R455): state, chunks streamed or taken, error; at the source the bytes of HBM streamed in the first
pass, HBM as it was streamed, the last chunk, the kind being streamed and the place in it; at the destination the streams
taken, by kind; and the commands, and 255 for an end chunk, that a warm reset holds. -/
structure Migr where
  st      : Nat
  seq     : Nat
  err     : Bool
  pass    : Nat
  shadow  : List Host.Cell
  last    : Option Chunk
  kind    : Nat
  off     : Nat
  taken   : Tbl (List Byte)
  held    : List Nat
  deriving DecidableEq, Repr

/-- The registers of a partition that the host and the device read and write (Tables 2-12, 5-4, 6-5, 9-5, 18-3, 21-6,
22-5, 23-3). -/
structure PRegs where
  lease     : Nat
  accQuota  : Nat
  quotaOld  : Nat
  quotaWin  : Nat
  accRef    : Nat
  accForced : Nat
  thrEn     : Bool
  thrLimit  : Nat
  wdPeriod  : Nat
  wdFired   : Bool
  wdExt     : Bool
  polSrc    : DWord
  polVer    : BitVec 32
  polErrW   : Nat
  polErr    : Nat
  loaded    : Bool
  busy      : Bool
  quantum   : Nat
  forceFb   : Bool
  overrun   : Nat
  invalid   : Nat
  lost      : Nat
  decRing   : DWord
  decTail   : Nat
  decHead   : Nat
  floors    : Tbl Nat
  effs      : Tbl Nat
  pasidTab  : DWord
  tlbBusy   : Bool
  tlbErr    : Bool
  faultRing : DWord
  fTail     : Nat
  fHead     : Nat
  trapRing  : DWord
  deriving DecidableEq, Repr

/-- What the scheduler keeps of a node that has fired and not completed (R409, R411): the fields of its record, read once at
the firing; the timestamp of the firing; and of an access of its own to a peer (R115) what it is for, the request, and the
answer. At stage 0 the node runs, at 1 its condition word has been asked, at 2 its NOTIFY word, with the timestamp of
completion and the condition value. -/
structure Firing where
  kind   : Nat
  pasid  : Nat
  cond   : Nat
  notify : Nat
  killed : Bool
  t      : Nat
  stage  : Nat
  sent   : Nat
  answer : Option Nat
  tc     : Nat
  val    : Nat
  deriving DecidableEq, Repr

/-- A partition (R448). `firings` holds by vertex what the scheduler keeps of nodes that have fired, `decQ` the decision
records that are not written yet (R433), `portQ` the records of
a slot of the graph port that are pending, oldest first (R459). `arrivals` holds the arrivals that completed nodes have sent, with the timestamp of the walk
(R411). `gtab` holds the read timestamps of the entries of its graph table (R349). -/
structure Part where
  size    : Nat
  regs    : PRegs
  imgBase : Nat
  imgSize : Nat
  reserved : Tbl Nat
  graphs  : Tbl Graph
  gtab    : Tbl Nat
  snaps   : Tbl Snap
  queues  : Tbl (List QEnt)
  waitQ   : List QEnt
  decReqs : List DecReq
  arrivals : List (Nat × Nat)
  firings : Tbl Firing
  decQ    : List (List Byte)
  dec     : Option Decision
  active  : Option (List Word)
  commit  : Option Commit
  quantumAt : Nat
  faults  : Tbl FRec
  heldF   : List Nat
  nextF   : Nat
  inval   : Option (Nat × Nat × Nat)
  wdSince : Nat
  migr    : Migr
  peers   : Tbl (BitVec 128)
  slots   : Tbl (DWord × BitVec 128)
  portQ   : Tbl (List Instr)
  deriving DecidableEq, Repr

/-! ## The host side and the controller -/

/-- A mailbox (Tables 23-11 and 23-12), with the command that runs, and whether its checks have passed and it has
begun. -/
structure Mbox where
  cmd    : DWord
  args   : List DWord
  busy   : Bool
  lost   : Bool
  tag    : BitVec 16
  code   : Nat
  res    : List DWord
  run    : Option (DWord × List DWord)
  going  : Bool
  pend   : Bool
  logN   : Bool
  head   : Nat
  irq    : Nat
  deriving DecidableEq, Repr

/-- A result that a running mailbox command will report (R457): code and result words. -/
structure CmdEnd where
  code : Nat
  res  : List DWord
  deriving DecidableEq, Repr

/-- An answer to an SPDM request (R465): the request, and the words of the answer. -/
structure SpdmAns where
  kind  : Spdm
  words : List DWord
  deriving DecidableEq, Repr

/-- The controller (R452, R462 to R466): its mode, alarm, fuse and keys, the stacks whose refresh rate is doubled, what is
retired, the cycles of the uncorrectable errors of each unit, the firmware in flash, its log by cycle and code, its SPDM
answers, warm resets that have ended, the results of commands that will end, and the partitions that a
retirement deletes. -/
structure Ctrl where
  recovery : Bool
  alarm    : Bool
  fuse     : Bool
  keys     : Bool
  tripped  : Bool
  halfRate : List Nat
  retSlice : List Nat
  retTier  : List Nat
  retPort  : List Nat
  errs     : Tbl (List Nat)
  firmware : List Byte
  log      : List (Nat × Nat)
  spdm     : List SpdmAns
  doneReset : List Nat
  ends     : Tbl CmdEnd
  deleting : List Nat
  deriving DecidableEq, Repr

/-- The answer to the host or to a peer: its timestamp (R112), its bytes, and whether the request has been performed. -/
structure HostAns where
  t    : Nat
  data : List Byte
  ok   : Bool
  deriving DecidableEq, Repr

/-! ## The state -/

/-- The state of the module. `ticked` and `halved` are the cycles for which the ticks of R106 and the halvings of R199
have been performed. -/
structure State where
  agenda  : List Turn
  focus   : Focus
  nextId  : Nat
  freeCtr : Nat
  cycle   : Nat
  ticked  : Nat
  halved  : Nat
  ceil    : Nat
  xts     : Nat
  mem     : List Host.Cell
  poison  : List Nat
  lines   : Tbl Line
  homes   : Tbl Home
  monitors : Tbl Monitor
  toks    : Tbl TokEntry
  tokens  : Tbl Token
  cores   : Tbl Core
  clusters : Tbl Cluster
  dies    : Tbl Die
  reqs    : Tbl Req
  reps    : Tbl Reply
  flights : Tbl Flight
  waves   : Tbl Wave
  teams   : Tbl Team
  gangs   : Tbl Gang
  grids   : Tbl Grid
  hops    : Tbl HodOp
  areqs   : Tbl AccReq
  unitQ   : Tbl (List Nat)
  mustQ   : Tbl (List Nat)
  parts   : Tbl Part
  mboxes  : Tbl Mbox
  ctrl    : Ctrl
  answers : List HostAns
  deriving DecidableEq, Repr

/-- What migration carries of a partition (R453): its number, its record, its gangs with all that is saved of them, its
grids, the results that homes keep for its saved packets (log entry 25), and the bound of the serial numbers in it. -/
structure PartImage where
  no      : Nat
  part    : Part
  gangs   : Tbl Gang
  teams   : Tbl Team
  waves   : Tbl Wave
  flights : Tbl Flight
  hops    : Tbl HodOp
  grids   : Tbl Grid
  toks    : Tbl TokEntry
  bound   : Nat
  deriving DecidableEq, Repr

end Sys2Proof.Machine

namespace Sys2Proof.Config

open Sys2Proof.Machine (PartImage)

/-- The stream of a kind (1 to 5) in which a partition's image travels at migration. Its layout is the device's own (R439,
R455), so it is a free function (log entry 2). -/
opaque imageStream : Nat → PartImage → List Byte

/-- What the destination reads from the streams of kinds 1 to 5 (log entry 2). -/
opaque readStreams : List (List Byte) → Option PartImage

end Sys2Proof.Config

namespace Sys2Proof.Machine

/-- Faults of the model. There is none: the module takes every exception of the manual, and an access to an address
that does not exist takes the translation fault of R22. -/
inductive Fault where
  deriving DecidableEq, Repr

/-- Refusals of the model. -/
inductive Refusal where
  /-- Raised by an arm of the dispatch for an instruction that has no meaning yet. Safe: the run stops. -/
  | notModelled (mnemonic : String)
  deriving DecidableEq, Repr

/-- The controller after a full bring-up (R462): firmware verified, nothing retired, no alarm. The fuse reads as not
blown and the key store as present (log entry 4). -/
def Ctrl.reset : Ctrl :=
  { recovery := false, alarm := false, fuse := false, keys := true, tripped := false, halfRate := [], retSlice := [],
    retTier := [], retPort := [], errs := [], firmware := [], log := [], spdm := [], doneReset := [],
    ends := [], deleting := [] }

/-- The module after the full-device reset of R462 step 4: timestamps rebased (R118), no partition, nothing placed. -/
def State.reset : State :=
  { agenda := [], focus := .none, nextId := 0, freeCtr := 0, cycle := 0, ticked := 0, halved := 0, ceil := 0x100000, xts := 0, mem := [],
    poison := [], lines := [], homes := [], monitors := [], toks := [], tokens := [], cores := [], clusters := [],
    dies := [], reqs := [], reps := [], flights := [], waves := [], teams := [], gangs := [], grids := [], hops := [],
    areqs := [], unitQ := [], mustQ := [], parts := [], mboxes := [], ctrl := Ctrl.reset, answers := [] }

end Sys2Proof.Machine
end

