-- ==== Sys2Proof/Machine/Tbl.lean ====
section
/-! DEFINITION. Operations on tables with natural keys: the keys rise strictly, an absent key is not listed. -/

namespace Sys2Proof.Machine

variable {α : Type}

/-- The entry of a key. -/
def tget : Tbl α → Nat → Option α
  | [], _ => none
  | (k, v) :: t, n => if k = n then some v else tget t n

/-- Put an entry, keeping the keys rising. -/
def tput : Tbl α → Nat → α → Tbl α
  | [], n, x => [(n, x)]
  | (k, v) :: t, n, x =>
    if n < k then (n, x) :: (k, v) :: t else if n = k then (n, x) :: t else (k, v) :: tput t n x

/-- Remove an entry. -/
def tdel : Tbl α → Nat → Tbl α
  | [], _ => []
  | (k, v) :: t, n => if k = n then tdel t n else (k, v) :: tdel t n

/-- Change an entry that is present. -/
def tupd (t : Tbl α) (n : Nat) (f : α → α) : Tbl α :=
  match tget t n with
  | none => t
  | some x => tput t n (f x)

/-- Change every entry. -/
def tmap (t : Tbl α) (f : Nat → α → α) : Tbl α := t.map fun e => (e.1, f e.1 e.2)

/-- The entries whose key and value satisfy a test. -/
def tsel (t : Tbl α) (p : Nat → α → Bool) : Tbl α := t.filter fun e => p e.1 e.2

/-- The keys of a table. -/
def tkeys (t : Tbl α) : List Nat := t.map (·.1)

/-- The least natural number, from `n` up to `fuel` further, that is no key. -/
def tfree (t : Tbl α) (n : Nat) : Nat → Option Nat
  | 0 => none
  | fuel + 1 => if (tget t n).isNone then some n else tfree t (n + 1) fuel

/-- The keys rise strictly. -/
def twf : Tbl α → Bool
  | [] => true
  | [_] => true
  | a :: b :: t => decide (a.1 < b.1) && twf (b :: t)

end Sys2Proof.Machine
end

