-- ==== Sys2Proof/Machine/Access.lean ====
section
/-! DEFINITION. Accessors of the state: the fresh records that an unlisted key stands for, the chain from a wave to
its team, gang, grid and partition, memory by bytes, serial numbers and free values. -/

namespace Sys2Proof.Machine

/-! ## Fresh records -/

/-- A line that a home fills from memory, before it takes the retired maxima (R111). -/
def Line.fresh : Line :=
  { wts := 0, rts := 0, use := 0, dead := false, dirty := false, backing := [], hostMark := false, owned := false,
    win := 0, count := 0, last := 0, hint := 0 }

/-- A home after a rebase (R118). -/
def Home.fresh : Home := { rw := 0, rd := 0, window := 0, charges := [] }

/-- A core after reset (R56: the default split is 128/384 KiB). -/
def Core.fresh : Core :=
  { pts := 0, slots := [], usedAt := 0, used := [], split := 1, l1 := [], tlb := [], victims := [] }

/-- A cluster after reset; the token sequence starts at zero (log entry 4). -/
def Cluster.fresh : Cluster := { tlb := [], comb := [], resid := [], tokSeq := 0, owner := none, told := [], sentAt := 0, sent := 0 }

/-- A die after reset (Table 5-4). -/
def Die.fresh : Die :=
  { clk := 0, gen := 0, st := .running, tlb := [], walks := [], queue := [], pages := [], unrec := [], gap := 0 }

/-- A latch after placement: invalid, contents zero (log entry 4). -/
def Latch.fresh : Latch := { vals := List.replicate 32 0, valid := false }

/-- An unbound cursor slot is not listed; a cursor at its opening rank 0 (R88). -/
def Cursor.fresh : Cursor := { snap := 0, vtx := 0, pos := 0, sdeg := 0, gid := 0, dir := .out, slot := 0 }

/-- The trap registers at placement (R384). -/
def TrapRegs.fresh : TrapRegs := { inn := false, code := 0, pc := 0, lanes := 0, info := 0 }

/-- The issue state at placement (R199). -/
def IssueSt.fresh : IssueSt :=
  { runPc := none, runCount := 0, stallEnd := 0, lastIssue := 0, ylded := none, lost := 0, score := 0,
    refusedAt := none, graceEnd := 0, blockedAt := 0 }

/-- A wave at placement (R54, R183, R250, R384, R435); what an unlisted wave stands for. -/
def Wave.fresh : Wave :=
  { core := 0, quarter := 0, slot := 0, team := 0, idx := 0, stage := 0, pc := List.replicate 32 0,
    csp := List.replicate 32 0, exited := 0, held := 0, v := [], w := [], p := [], cur := [],
    latches := List.replicate 4 Latch.fresh, sb := [0, 0, 0, 0], pend := [], blocks := 1, fstatus := 0,
    trap := TrapRegs.fresh, gen := 0, ops := [], iss := IssueSt.fresh, gathers := [], blocked := .none, susp := .none,
    packets := [], fmts := [], bad := [], xpages := [], xfault := [] }

/-- A team at placement (R384, R235). -/
def Team.fresh : Team :=
  { gang := 0, slot := 0, core := 0, life := .resident, stopped := false, reserve := 0, claims := [], handles := [], bars := [],
    fmts := [], trapVec := 0, stream := none, mfetch := none, mqueue := [], tiles := [], badTiles := [], joined := [], fcount := 0,
    savedPts := 0, resumedAt := 0 }

/-- A gang at placement (R57). -/
def Gang.fresh : Gang :=
  { part := 0, vertex := 0, q := 0, x := 0, y := 0, z := 0, core0 := 0, life := .resident, goal := .saved, offline := none, haltAt := 0,
    runPrio := 0, loc := [], badLoc := [], lt := [], ltBase := 0, gbars := [], placedAt := 0 }

/-- What an unlisted grid stands for. -/
def Grid.fresh : Grid :=
  { part := 0, vertex := 0, tx := 1, ty := 1, tz := 1, stages := [], nteam := 1, split := 1, mat := false, base := 1,
    q := 0, handles := 0, loc := 0, gx := 1, gy := 1, gz := 1, curve := 0, points := [], entry := 0, pasid := 0,
    stack := 0, stackSz := 0, queue := 0, placed := 0, retired := 0, cancelled := 0, again := [], clusters := [],
    waitFor := [], fired := 0, top := 0, drained := false, killed := false, done := false }

/-- The registers of a partition at its creation (Tables 2-12, 5-4, 6-5, 9-5, 18-3, 21-6, 22-5). -/
def PRegs.fresh : PRegs :=
  { lease := 32, accQuota := 8, quotaOld := 8, quotaWin := 0, accRef := 0, accForced := 0, thrEn := true, thrLimit := 64, wdPeriod := 100000,
    wdFired := false, wdExt := false, polSrc := 0, polVer := 0, polErrW := 0, polErr := 0, loaded := false,
    busy := false, quantum := 0, forceFb := false, overrun := 0, invalid := 0, lost := 0, decRing := 0, decTail := 0,
    decHead := 0, floors := [], effs := [], pasidTab := 0, tlbBusy := false, tlbErr := false, faultRing := 0,
    fTail := 0, fHead := 0, trapRing := 0 }

/-- The migration state of a fresh partition (Table 23-4). -/
def Migr.fresh : Migr :=
  { st := 0, seq := 0, err := false, pass := 0, shadow := [], last := none, kind := 0, off := 0, taken := [], held := [] }

/-- A partition before anything is launched in it. -/
def Part.fresh : Part :=
  { size := 1, regs := PRegs.fresh, imgBase := 0, imgSize := 0, reserved := [], graphs := [], gtab := [],
    snaps := [], queues := [], waitQ := [], decReqs := [], arrivals := [], firings := [], decQ := [], dec := none, active := none,
    commit := none, quantumAt := 0, faults := [], heldF := [], nextF := 0, inval := none, wdSince := 0, migr := Migr.fresh, peers := [], slots := [], portQ := [] }

/-- A mailbox after reset (Table 23-11). -/
def Mbox.fresh : Mbox :=
  { cmd := 0, args := [], busy := false, lost := false, tag := 0, code := 0, res := [], run := none, going := false, pend := false,
    logN := false, head := 0, irq := 0 }

/-! ## Reading and changing records -/

def State.line (s : State) (k : Nat) : Line := (tget s.lines k).getD Line.fresh
def State.home (s : State) (h : Nat) : Home := (tget s.homes h).getD Home.fresh
def State.core (s : State) (c : Nat) : Core := (tget s.cores c).getD Core.fresh
def State.cluster (s : State) (c : Nat) : Cluster := (tget s.clusters c).getD Cluster.fresh
def State.die (s : State) (d : Nat) : Die := (tget s.dies d).getD Die.fresh
def State.wave (s : State) (w : Nat) : Wave := (tget s.waves w).getD Wave.fresh
def State.team (s : State) (t : Nat) : Team := (tget s.teams t).getD Team.fresh
def State.gang (s : State) (g : Nat) : Gang := (tget s.gangs g).getD Gang.fresh
def State.grid (s : State) (g : Nat) : Grid := (tget s.grids g).getD Grid.fresh
def State.part (s : State) (p : Nat) : Part := (tget s.parts p).getD Part.fresh
def State.mbox (s : State) (m : Nat) : Mbox := (tget s.mboxes m).getD Mbox.fresh

def State.setLine (s : State) (k : Nat) (x : Line) : State := { s with lines := tput s.lines k x }
def State.setHome (s : State) (k : Nat) (x : Home) : State := { s with homes := tput s.homes k x }
def State.setCore (s : State) (k : Nat) (x : Core) : State := { s with cores := tput s.cores k x }
def State.setCluster (s : State) (k : Nat) (x : Cluster) : State := { s with clusters := tput s.clusters k x }
def State.setDie (s : State) (k : Nat) (x : Die) : State := { s with dies := tput s.dies k x }
def State.setWave (s : State) (k : Nat) (x : Wave) : State := { s with waves := tput s.waves k x }
def State.setTeam (s : State) (k : Nat) (x : Team) : State := { s with teams := tput s.teams k x }
def State.setGang (s : State) (k : Nat) (x : Gang) : State := { s with gangs := tput s.gangs k x }
def State.setGrid (s : State) (k : Nat) (x : Grid) : State := { s with grids := tput s.grids k x }
def State.setPart (s : State) (k : Nat) (x : Part) : State := { s with parts := tput s.parts k x }
def State.setMbox (s : State) (k : Nat) (x : Mbox) : State := { s with mboxes := tput s.mboxes k x }

/-- Change a wave that is present; likewise for the other records. -/
def State.updWave (s : State) (k : Nat) (f : Wave → Wave) : State := { s with waves := tupd s.waves k f }
def State.updTeam (s : State) (k : Nat) (f : Team → Team) : State := { s with teams := tupd s.teams k f }
def State.updGang (s : State) (k : Nat) (f : Gang → Gang) : State := { s with gangs := tupd s.gangs k f }
def State.updGrid (s : State) (k : Nat) (f : Grid → Grid) : State := { s with grids := tupd s.grids k f }
def State.updPart (s : State) (k : Nat) (f : Part → Part) : State := { s with parts := tupd s.parts k f }
def State.updHop (s : State) (k : Nat) (f : HodOp → HodOp) : State := { s with hops := tupd s.hops k f }
def State.updCore (s : State) (k : Nat) (f : Core → Core) : State := s.setCore k (f (s.core k))
def State.updCluster (s : State) (k : Nat) (f : Cluster → Cluster) : State := s.setCluster k (f (s.cluster k))
def State.updDie (s : State) (k : Nat) (f : Die → Die) : State := s.setDie k (f (s.die k))
def State.updHome (s : State) (k : Nat) (f : Home → Home) : State := s.setHome k (f (s.home k))
def State.updMbox (s : State) (k : Nat) (f : Mbox → Mbox) : State := s.setMbox k (f (s.mbox k))

/-! ## Who belongs to whom -/

/-- The cluster of a core, the die of a core, the slice of a core (R10, R11). -/
def coreCluster (c : Nat) : Nat := c / 4
def coreDie (c : Nat) : Nat := c / 96
def clusterDie (c : Nat) : Nat := c / 24

/-- The key of a grid in its table: the partition and the launch vertex (R408). -/
def gridKey (part vertex : Nat) : Nat := part * 2 ^ 32 + vertex

/-- The team, gang, grid and partition of a wave. -/
def State.teamOf (s : State) (w : Wave) : Team := s.team w.team
def State.gangOf (s : State) (w : Wave) : Gang := s.gang (s.teamOf w).gang
def State.partNo (s : State) (w : Wave) : Nat := (s.gangOf w).part
def State.partOf (s : State) (w : Wave) : Part := s.part (s.partNo w)
def State.gridNo (s : State) (w : Wave) : Nat := gridKey (s.gangOf w).part (s.gangOf w).vertex
def State.gridOf (s : State) (w : Wave) : Grid := s.grid (s.gridNo w)

/-- The waves of a team, by their numbers. -/
def State.teamWaves (s : State) (t : Nat) : List Nat := tkeys (tsel s.waves fun _ w => w.team == t)

/-- The teams of a gang. -/
def State.gangTeams (s : State) (g : Nat) : List Nat := tkeys (tsel s.teams fun _ t => t.gang == g)

/-- The gangs of a partition, and of a grid. -/
def State.partGangs (s : State) (p : Nat) : List Nat := tkeys (tsel s.gangs fun _ g => g.part == p)
def State.gridGangs (s : State) (p v : Nat) : List Nat :=
  tkeys (tsel s.gangs fun _ g => g.part == p && g.vertex == v)

/-! ## Serial numbers and free values -/

/-- A new serial number (log entry 1). -/
def State.newId (s : State) : Nat × State := (s.nextId, { s with nextId := s.nextId + 1 })

/-- The next free value (log entry 2). -/
def State.free (s : State) : DWord × State := (Config.freeValue s.freeCtr, { s with freeCtr := s.freeCtr + 1 })

/-- Something has happened that the partition's watchdog counts as progress (R444). -/
def State.stir (s : State) (p : Nat) : State := s.updPart p fun x => { x with wdSince := s.cycle }

/-! ## Memory -/

/-- The byte at a physical address. -/
def memGet (m : List Host.Cell) (a : Nat) : Byte := (tget m a).getD Config.unwritten

/-- Store a byte, keeping the canonical form: a byte that equals an unlisted one is not listed. -/
def memPut (m : List Host.Cell) (a : Nat) (b : Byte) : List Host.Cell :=
  if b = Config.unwritten then tdel m a else tput m a b

/-- Store bytes from an address upwards. -/
def memPutAll : List Host.Cell → Nat → List Byte → List Host.Cell
  | m, _, [] => m
  | m, a, b :: bs => memPutAll (memPut m a b) (a + 1) bs

/-- `n` bytes from an address upwards. -/
def memGetAll (m : List Host.Cell) (a n : Nat) : List Byte := (List.range n).map fun i => memGet m (a + i)

/-- The canonical form of memory: addresses rise strictly, no entry equals what an unlisted address reads as. -/
def Memory.wf (m : List Host.Cell) : Bool := twf m && m.all fun c => c.2 != Config.unwritten

/-- A number from its bytes, lowest address first. -/
def bytesNat : List Byte → Nat
  | [] => 0
  | b :: bs => b.toNat + 256 * bytesNat bs

/-- The `n` low bytes of a number, lowest first. -/
def natBytes (x : Nat) : Nat → List Byte
  | 0 => []
  | n + 1 => BitVec.ofNat 8 x :: natBytes (x / 256) n

/-- Read and write bytes of memory. -/
def State.rd (s : State) (a n : Nat) : List Byte := memGetAll s.mem a n
def State.wr (s : State) (a : Nat) (bs : List Byte) : State := { s with mem := memPutAll s.mem a bs }

/-- An 8-byte word of memory. -/
def State.rd64 (s : State) (a : Nat) : Nat := bytesNat (s.rd a 8)

/-- The words of a byte list, four bytes each, lowest first. -/
def bytesWords : List Byte → List Word
  | a :: b :: c :: d :: bs => BitVec.ofNat 32 (bytesNat [a, b, c, d]) :: bytesWords bs
  | [] => []
  | bs => [BitVec.ofNat 32 (bytesNat bs)]

/-- The bytes of words, lowest first. -/
def wordsBytes (ws : List Word) : List Byte := ws.flatMap fun w => natBytes w.toNat 4

/-! ## Lanes -/

/-- The numbers of the lanes of a set, rising. -/
def lanesOf (m : LaneSet) : List Nat := (List.range 32).filter fun l => m.getLsbD l

/-- The lowest lane of a set. -/
def lowLane (m : LaneSet) : Option Nat := (lanesOf m).head?

/-- The set of the lanes below 32 that satisfy a test. -/
def laneSet (p : Nat → Bool) : LaneSet := (BitVec.ofBoolListLE ((List.range 32).map p)).setWidth 32

/-- A row of 32 words. -/
def row (f : Nat → Word) : List Word := (List.range 32).map f

end Sys2Proof.Machine
end

