-- ==== Sys2Proof/Machine/WordRules.lean ====
section
/-! DEFINITION. The decode checks that do not depend on the machine: operand classes (Table 13-1, R323, R344),
the types each entry allows, the SET rules (R250, R302, Table 15-1, R346, R361, R381), latches on blocking words
(R258) and the combinations that an entry rejects. -/

namespace Sys2Proof

/-- The types of 64 bits (R271). -/
def Ty.is64 : Ty → Bool
  | .i64 | .n64 | .b64 | .f64 => true
  | _ => false

/-- The signed integer types (R262). -/
def Ty.isSigned : Ty → Bool
  | .i8 | .i16 | .i32 | .i64 => true
  | _ => false

/-- The integer types (R227). -/
def Ty.isInt : Ty → Bool
  | .i8 | .i16 | .i32 | .i64 | .n8 | .n16 | .n32 | .n64 => true
  | _ => false

/-- The single 16-bit and 32-bit floating types. -/
def Ty.isF3 : Ty → Bool
  | .f32 | .f16 | .bf16 => true
  | _ => false

/-- The packed types. -/
def Ty.isPacked : Ty → Bool
  | .f16x2 | .bf16x2 => true
  | _ => false

/-- Types i32 and n32. -/
def Ty.isW : Ty → Bool
  | .i32 | .n32 => true
  | _ => false

/-- Types i32, n32, i64 and n64. -/
def Ty.isWD : Ty → Bool
  | .i32 | .n32 | .i64 | .n64 => true
  | _ => false

/-- Types b32 and b64. -/
def Ty.isB : Ty → Bool
  | .b32 | .b64 => true
  | _ => false

/-- The types of CVT (R315). -/
def Ty.isCvt (t : Ty) : Bool := t.isInt || t.isF3 || t == .f64

/-- An even number. -/
def even8 (n : BitVec 8) : Bool := n.toNat % 2 == 0
/-- An even number. -/
def even7 (n : BitVec 7) : Bool := n.toNat % 2 == 0

/-- Class s of Table 13-1 for C, which takes no special register. -/
def Src.okC : Src → Bool
  | .sp _ => false
  | _ => true

/-- Class s64 of Table 13-1: an even pair or L0 to L2. -/
def Src.ok64 : Src → Bool
  | .v n => even8 n
  | .w n => even7 n
  | .latch n => n != 3
  | _ => false

/-- Class s or s64, by the width. -/
def Src.okW (wide : Bool) (s : Src) : Bool := !wide || s.ok64

/-- Class s or s64 of the C field. -/
def Src.okCW (wide : Bool) (s : Src) : Bool := if wide then s.ok64 else s.okC

/-- An operand that is no latch (R258). -/
def Src.noLatch : Src → Bool
  | .latch _ => false
  | _ => true

/-- Class v0-v255 or a latch (MOVW). -/
def Src.okVL : Src → Bool
  | .v _ | .latch _ => true
  | _ => false

/-- Class sq of R323: a quad of vector registers. -/
def Src.okQuad : Src → Bool
  | .v n => n.toNat % 4 == 0
  | _ => false

/-- Class d64 of Table 13-1. -/
def DReg.ok64 : DReg → Bool
  | .v n => even8 n
  | .w n => even7 n
  | .zero => false

/-- Class d or d64, by the width. -/
def DReg.okW (wide : Bool) (d : DReg) : Bool := !wide || d.ok64

/-- Class q of R323. -/
def DReg.okQuad : DReg → Bool
  | .v n => n.toNat % 4 == 0
  | _ => false

/-- Classes r1, r2, r4 and r8 of R344: a group of vector registers or the zero register. -/
def DReg.okGroup (k : Nat) : DReg → Bool
  | .v n => n.toNat % k == 0
  | .w _ => false
  | .zero => true

/-- The guard is not 0b1111 (R248). -/
def Hdr.ok (h : Hdr) : Bool := !(h.g.neg && h.g.p == 7)
/-- SET = 4, which fixed-latency words require (R250). -/
def Hdr.set4 (h : Hdr) : Bool := h.ok && h.h.set.isNone
/-- SET of 0 to 3, which variable-latency words with a result require (R250). -/
def Hdr.setReq (h : Hdr) : Bool := h.ok && h.h.set.isSome
/-- SET of 0 to 3 when something is written, else any (Table 15-1, R346). -/
def Hdr.setIf (writes : Bool) (h : Hdr) : Bool := h.ok && (!writes || h.h.set.isSome)

/-- The SET rule of the graph instructions (R346). -/
def Hdr.setG (h : Hdr) (pd : Pred) (d : DReg) : Bool := h.setIf (pd != 7 || d != .zero)

/-- The destination class of a sized load (R323). -/
def DReg.okMem (d : DReg) : MemTy → Bool
  | .b64 => d.ok64
  | .b128 => d.okQuad
  | _ => true

/-- The data class of a sized store (R323). -/
def Src.okMem (b : Src) : MemTy → Bool
  | .b64 => b.ok64
  | .b128 => b.okQuad
  | _ => true

/-- The hint byte's HOME code 3 is reserved (R261). -/
def CHint.ok (c : CHint) : Bool := c.home != 3

/-- The types of the atomic operations, Table 15-4. -/
def Aop.okTy : Aop → Ty → Bool
  | .add, t => t.isWD || t == .f32 || t == .f64
  | .min, t | .max, t => t.isWD
  | _, t => t.isB

/-- The data class of an atomic (R333). -/
def Aop.okB (a : Aop) (t : Ty) (b : Src) : Bool :=
  match a with
  | .cas => if t.is64 then b.okQuad else b.ok64
  | _ => b.okW t.is64

/-- The types of the accumulate operations, Table 6-1. -/
def AccOp.okTy : AccOp → Ty → Bool
  | .add, t => t == .i32 || t == .f32 || t == .bf16x2 || t == .f16x2 || t == .i64 || t == .f64
  | _, t => t.isWD

/-- The operation and type pairs of REDUX (R294). -/
def ReduxOp.okTy : ReduxOp → Ty → Bool
  | .add, t | .min, t | .max, t => t.isW || t == .f32
  | _, t => t == .b32

/-- The register a CPY or GGATH address names, by its space (R361). -/
def Src.okSpace (glob : Bool) (s : Src) : Bool := if glob then s.ok64 else true

/-- An FI immediate of a 16-bit floating type leaves bits 31:16 zero (R305). -/
def immOk (t : Ty) (imm : Word) : Bool := t == .f32 || imm.toNat < 65536

/-- The decode checks of a wave word, of a Roller word and of a policy word. A step of another agent has none. -/
def wordOk : Instr → Bool
  | .iadd hd _ _ _ _ ty | .isub hd _ _ _ _ ty | .imulh hd _ _ _ ty => hd.set4 && ty.isW
  | .iaddImm hd _ _ _ _ ty | .imadImm hd _ _ _ ty => hd.set4 && ty.isW
  | .imad hd d _ _ c wide ty => hd.set4 && ty.isW && d.r.okW wide && c.okCW wide
  | .iadd64 hd d a b => hd.set4 && d.r.ok64 && a.ok64 && b.ok64
  | .iadd64Imm hd d a _ => hd.set4 && d.r.ok64 && a.ok64
  | .lea hd d a _ _ ty => hd.set4 && ty.isW && d.r.ok64 && a.ok64
  | .leaImm hd d a _ _ ty => hd.set4 && ty.isW && d.r.ok64 && a.ok64
  | .imin hd d a b ty | .imax hd d a b ty =>
    hd.set4 && ty.isWD && d.r.okW ty.is64 && a.okW ty.is64 && b.okW ty.is64
  | .iminImm hd d a _ ty | .imaxImm hd d a _ ty => hd.set4 && ty.isWD && d.r.okW ty.is64 && a.okW ty.is64
  | .iabs hd d a _ ty => hd.set4 && (ty == .i32 || ty == .i64) && d.r.okW ty.is64 && a.okW ty.is64
  | .isetp hd _ a b _ _ _ ty => hd.set4 && ty.isWD && a.okW ty.is64 && b.okW ty.is64
  | .isetpImm hd _ a _ _ ty => hd.set4 && ty.isWD && a.okW ty.is64
  | .isel hd d a b _ _ ty => hd.set4 && ty.isB && d.r.okW ty.is64 && a.okW ty.is64 && b.okW ty.is64
  | .iselImm hd d a _ _ _ ty => hd.set4 && ty.isB && d.r.okW ty.is64 && a.okW ty.is64
  | .shl hd d a _ ty | .shr hd d a _ ty | .sar hd d a _ ty =>
    hd.set4 && ty.isB && d.r.okW ty.is64 && a.okW ty.is64
  | .shlImm hd d a _ ty | .shrImm hd d a _ ty | .sarImm hd d a _ ty =>
    hd.set4 && ty.isB && d.r.okW ty.is64 && a.okW ty.is64
  | .rot hd d a _ _ ty => hd.set4 && ty.isB && d.r.okW ty.is64 && a.okW ty.is64
  | .bool3 hd d a b c w64 _ => hd.set4 && d.r.okW w64 && a.okW w64 && b.okW w64 && c.okCW w64
  | .bool3Imm hd _ _ _ _ => hd.set4
  | .popc hd _ a ty | .clz hd _ a ty => hd.set4 && ty.isB && a.okW ty.is64
  | .brev hd d a ty => hd.set4 && ty.isB && d.r.okW ty.is64 && a.okW ty.is64
  | .bfe hd _ _ _ ty => hd.set4 && ty.isW
  | .bfi hd _ _ _ c | .bsel hd _ _ _ c => hd.set4 && c.okC
  | .mov hd d a ty => hd.set4 && ty.isB && d.r.okW ty.is64 && a.okW ty.is64
  | .movi hd d _ ty => hd.set4 && (ty == .b32 || ((ty == .i64 || ty == .n64) && d.r.ok64))
  | .movw hd d a _ => hd.set4 && a.okVL && (match d.r with | .w _ => true | _ => false)
  | .shfl hd _ a b _ _ => hd.set4 && a.noLatch && b.noLatch
  | .vote hd _ _ _ _ | .ballot hd _ _ _ => hd.set4
  | .matchv hd _ a _ _ ty => hd.set4 && ty.isB && a.okW ty.is64 && a.noLatch
  | .redux hd _ a _ rop ty => hd.set4 && a.noLatch && rop.okTy ty
  | .s2v hd d wa => hd.set4 && wa.toNat ≤ 96 && (match d.r with | .v _ => true | _ => false)
  | .psetp hd _ a b _ _ _ ty => hd.set4 && ty.isB && a.okW ty.is64 && b.okW ty.is64
  | .plop hd _ _ _ _ _ => hd.set4
  | .fadd hd _ _ _ _ ty | .fmul hd _ _ _ _ ty => hd.set4 && ty.isF3
  | .ffma hd _ _ _ c _ ty => hd.set4 && ty.isF3 && c.okC
  | .fmin hd _ _ _ _ _ _ ty | .fmax hd _ _ _ _ _ _ ty => hd.set4 && ty.isF3
  | .fsetp hd _ _ _ _ _ _ _ ty => hd.set4 && ty.isF3
  | .fclass hd _ a ty => hd.set4 && (ty.isF3 || ty == .f64) && a.okW ty.is64
  | .frcp hd _ _ _ _ | .fsqrt hd _ _ _ _ => hd.setReq
  | .frsq hd _ _ _ | .fex2 hd _ _ _ | .flg2 hd _ _ _ | .fsin hd _ _ _ | .fcos hd _ _ _ => hd.setReq
  | .hadd2 hd _ _ _ _ ty => hd.set4 && ty.isPacked
  | .hfma2 hd _ _ _ c _ ty => hd.set4 && ty.isPacked && c.okC
  | .dot4 hd _ _ _ c _ ty => hd.set4 && (ty == .i8 || ty == .n8) && c.okC
  | .dot2 hd _ _ _ c _ ty => hd.set4 && ty.isPacked && c.okC
  | .faddImm hd _ _ imm _ _ _ ty | .fmulImm hd _ _ imm _ _ _ ty | .ffmaImm hd _ _ imm _ _ _ ty =>
    hd.set4 && ty.isF3 && immOk ty imm
  | .dadd hd d a b _ _ _ | .dmul hd d a b _ _ _ => hd.set4 && d.r.ok64 && a.ok64 && b.ok64
  | .dfma hd d a b c _ _ _ => hd.set4 && d.r.ok64 && a.ok64 && b.ok64 && c.ok64
  | .dsetp hd _ a b _ _ _ => hd.set4 && a.ok64 && b.ok64
  | .cvt hd d a rm ftz sat sty ty =>
    hd.set4 && sty.isCvt && ty.isCvt && d.r.okW ty.is64 && a.okW sty.is64
      && (!sat || (sty.isInt && ty.isInt)) && (rm == .rn || !(sty.isInt && ty.isInt))
      && (!ftz || (sty.isF3 && ty.isF3))
  | .cvtn hd _ _ _ _ _ _ ty => hd.set4 && ty.isF3
  | .cvtef hd d _ r elem freg ty =>
    hd.set4 && d.r != .v r && (ty == .fmt || ((ty == .f16 || ty == .bf16) && freg == 0 && elem.toNat ≤ 1))
  | .cvtw hd _ _ elem _ _ ty => hd.set4 && ty.isPacked && elem.toNat % 2 == 0
  | .pack hd _ _ _ _ _ ty => hd.set4 && ty.isPacked
  | .unpack hd d _ _ ty => hd.set4 && ty.isPacked && d.r.ok64
  | .bscale hd _ _ b freg mode => hd.set4 && (if mode == .derive then b == .v 0 else freg == 0)
  | .ld hd d a _ ch mt => hd.setIf (d != .zero) && a.ok64 && ch.ok && d.okMem mt
  | .st hd a _ b ch mt => hd.ok && a.ok64 && ch.ok && b.okMem mt
  | .ldl hd d _ _ mt => hd.setIf (d != .zero) && d.okMem mt
  | .stl hd _ _ b mt => hd.ok && b.okMem mt
  | .ldw hd d a _ ch ty => hd.setReq && ty.isB && ch.ok && even7 a && (!ty.is64 || even7 d)
  | .pref hd a _ ch | .cctlL1drop hd a _ ch | .cctlWb hd a _ ch | .cctlUse hd a _ _ ch =>
    hd.ok && a.ok64 && ch.ok
  | .atom hd d a _ b ch aop ty =>
    hd.setIf (d != .zero) && aop.okTy ty && d.okW ty.is64 && a.ok64 && ch.ok && aop.okB ty b
  | .atomLocal hd d _ _ b aop ty => hd.setIf (d != .zero) && aop.okTy ty && d.okW ty.is64 && aop.okB ty b
  | .acc hd a _ b ch aop ty => hd.set4 && aop.okTy ty && a.ok64 && ch.ok && b.okW ty.is64
  | .flushres hd => hd.set4
  | .fence hd _ sp => hd.set4 && (sp.host || sp.graph || sp.glob || sp.loc)
  | .bar hd _ stages _ => hd.set4 && stages != 0
  | .gbar hd _ stages _ => hd.set4 && stages != 0
  | .mwait hd d a _ b ch _ ty =>
    hd.setIf (d != .zero) && ty.isWD && d.okW ty.is64 && a.ok64 && a.noLatch && ch.ok && b.okW ty.is64 && b.noLatch
  | .claim hd n | .release hd n => hd.set4 && n != 0
  | .nap hd _ => hd.set4
  | .gnewg hd pd d a => hd.setG pd d && d.okGroup 2 && a.ok64
  | .gnewv hd pd d _ _ => hd.setG pd d && d.okGroup 2
  | .gfreev hd pd d _ _ => hd.setG pd d && d.okGroup 1
  | .gadd hd pd d _ _ _ c => hd.setG pd d && d.okGroup 2 && (match c with | none => true | some c => c.ok64)
  | .gdel hd pd d _ _ _ _ _ => hd.setG pd d && d.okGroup 2
  | .gswap hd pd d _ _ _ c _ | .gswapShared hd pd d _ _ _ c _ => hd.setG pd d && d.okGroup 2 && c.okC
  | .glde hd pd d _ _ _ _ => hd.setG pd d && d.okGroup 4
  | .gdeg hd pd d _ _ _ => hd.setG pd d && d.okGroup 2
  | .gldv hd pd d _ _ sz off => hd.setG pd d && d.okGroup (if sz then 8 else 4) && (!sz || off.toNat % 2 == 0)
  | .gstv hd pd d _ _ b sz off =>
    hd.setG pd d && d.okGroup 1 && (if sz then b.okQuad && off.toNat % 2 == 0 else b.ok64)
  | .gopen hd _ d _ _ _ _ => hd.setReq && d.okGroup 2
  | .gnext hd _ d _ => hd.setReq && d.okGroup 4
  | .gseek hd _ d _ _ => hd.setReq && d.okGroup 4
  | .gclose hd _ d _ => hd.setReq && d.okGroup 2
  | .gwaitlow hd pd d _ a => hd.setG pd d && d.okGroup 1 && a.ok64 && a.noLatch
  | .cpy hd a b _ hnd hen rcnt dir _ =>
    hd.set4 && a.noLatch && b.noLatch && (hen || (hnd == 0 && rcnt == 0))
      && a.okSpace (dir == .g2l || dir == .g2g) && b.okSpace (dir == .l2g || dir == .g2g)
  | .ggath hd _ _ _ _ c _ loc _ => hd.set4 && (if loc then c.okC else c.ok64)
  | .waitc hd _ _ | .hwaitFree hd _ | .hrel hd _ => hd.set4
  | .hwaitFull hd d _ => hd.ok && (if d == .zero then hd.h.set.isNone else hd.h.set.isSome)
  | .mstart hd a b _ _ => hd.set4 && a.ok64 && a.noLatch && b.noLatch
  | .mstop hd => hd.ok
  | .bra hd _ | .call hd _ | .ret hd | .exit hd | .conv hd _ | .yield hd | .nop hd => hd.set4
  | .brx hd a => hd.set4 && a.ok64
  | .bkpt hd _ | .trap hd _ | .eret hd _ | .setprio hd _ => hd.set4
  | .rdsys hd d _ | .rdts hd d | .rdclk hd d => hd.setReq && d.ok64
  | .wrsys hd _ a => hd.set4 && a.ok64
  | .mma _ _ _ kn ty => !kn || ty == .narrow
  | .mstore _ _ rm ty => rm == .rn || (ty != .f32 && ty != .f64)
  | .mloop _ body _ => body != 0
  | .policyVq _ _ f | .policyVf _ f => f.toNat ≤ 9
  | .policyVs _ _ f => f.toNat ≤ 5
  | .policyVp _ _ f => f.toNat ≤ 3
  | .policyVg _ f => f.toNat ≤ 7
  | _ => true

end Sys2Proof
end

