-- ==== Sys2Proof/Machine/Bits.lean ====
section
/-! DEFINITION. Integer arithmetic on single values (spec/13): each result is formed as an exact integer and then
narrowed. -/

namespace Sys2Proof.Machine

/-- The value of a 32-bit operand, signed for an i type (R276). -/
def val32 (signed : Bool) (x : Word) : Int := if signed then x.toInt else x.toNat

/-- The value of a 64-bit operand, signed for an i type. -/
def val64 (signed : Bool) (x : DWord) : Int := if signed then x.toInt else x.toNat

/-- The least value of an integer type of n bits. -/
def minOf (signed : Bool) (n : Nat) : Int := if signed then -(2 ^ (n - 1) : Nat) else 0
/-- The greatest value of an integer type of n bits. -/
def maxOf (signed : Bool) (n : Nat) : Int := if signed then (2 ^ (n - 1) : Nat) - 1 else (2 ^ n : Nat) - 1

/-- Clamp to the range of an integer type. -/
def clampTo (signed : Bool) (n : Nat) (t : Int) : Int :=
  if t < minOf signed n then minOf signed n else if maxOf signed n < t then maxOf signed n else t

/-- An exact sum or product narrowed to 32 bits, saturating or modulo 2^32 (R276). -/
def narrow32 (sat signed : Bool) (t : Int) : Word := BitVec.ofInt 32 (if sat then clampTo signed 32 t else t)

/-- IADD (R276). -/
def opIadd (sat : Bool) (ty : Ty) (a b : Word) : Word :=
  narrow32 sat ty.isSigned (val32 ty.isSigned a + val32 ty.isSigned b)
/-- ISUB (R276). -/
def opIsub (sat : Bool) (ty : Ty) (a b : Word) : Word :=
  narrow32 sat ty.isSigned (val32 ty.isSigned a - val32 ty.isSigned b)
/-- IMAD without .wide (R277). -/
def opImad (a b c : Word) : Word := a * b + c
/-- IMAD.wide (R277). -/
def opImadWide (ty : Ty) (a b : Word) (c : DWord) : DWord :=
  BitVec.ofInt 64 (val32 ty.isSigned a * val32 ty.isSigned b + c.toNat)
/-- IMULH (R277). -/
def opImulh (ty : Ty) (a b : Word) : Word :=
  (BitVec.ofInt 64 (val32 ty.isSigned a * val32 ty.isSigned b)).extractLsb' 32 32
/-- LEA (R278). -/
def opLea (ty : Ty) (sh : Nat) (a : DWord) (b : Word) : DWord :=
  a + (BitVec.ofInt 64 (val32 ty.isSigned b)) <<< sh
/-- The lesser of two values of 32 bits (R279). -/
def opMin32 (ty : Ty) (a b : Word) : Word := if val32 ty.isSigned b < val32 ty.isSigned a then b else a
/-- The greater of two values of 32 bits (R279). -/
def opMax32 (ty : Ty) (a b : Word) : Word := if val32 ty.isSigned a < val32 ty.isSigned b then b else a
/-- The lesser of two values of 64 bits (R279). -/
def opMin64 (ty : Ty) (a b : DWord) : DWord := if val64 ty.isSigned b < val64 ty.isSigned a then b else a
/-- The greater of two values of 64 bits (R279). -/
def opMax64 (ty : Ty) (a b : DWord) : DWord := if val64 ty.isSigned a < val64 ty.isSigned b then b else a
/-- IABS of 32 bits (R279). -/
def opAbs32 (sat : Bool) (a : Word) : Word := narrow32 sat true (Int.natAbs a.toInt)
/-- IABS of 64 bits (R279). -/
def opAbs64 (sat : Bool) (a : DWord) : DWord :=
  BitVec.ofInt 64 (if sat then clampTo true 64 (Int.natAbs a.toInt) else Int.natAbs a.toInt)

/-- Compare two exact values (R280). -/
def cmpInt (c : Cmp) (a b : Int) : Bool :=
  match c with
  | .eq => a == b
  | .ne => a != b
  | .lt => a < b
  | .le => a ≤ b
  | .gt => b < a
  | .ge => b ≤ a

/-- Combine a test with the predicate operand (R280). -/
def combine (b : Bop) (t q : Bool) : Bool :=
  match b with
  | .and => t && q
  | .or => t || q
  | .xor => t != q

/-- SHL on n bits by an unsigned amount (R282). -/
def opShl {n : Nat} (a : BitVec n) (k : Nat) : BitVec n := if n ≤ k then 0 else a <<< k
/-- SHR on n bits (R282). -/
def opShr {n : Nat} (a : BitVec n) (k : Nat) : BitVec n := if n ≤ k then 0 else a >>> k
/-- SAR on n bits (R282). -/
def opSar {n : Nat} (a : BitVec n) (k : Nat) : BitVec n := a.sshiftRight (if n ≤ k then n else k)
/-- ROT on n bits (R282). -/
def opRot {n : Nat} (right : Bool) (a : BitVec n) (k : Nat) : BitVec n :=
  if right then a.rotateRight (k % n) else a.rotateLeft (k % n)

/-- One bit of a function of three inputs, the truth table indexed with a as its least significant input (R283). -/
def fn3 (fn : BitVec 8) (a b c : Bool) : Bool := fn.getLsbD (a.toNat + 2 * b.toNat + 4 * c.toNat)

/-- A value from a function of its bit numbers. -/
def ofBits (n : Nat) (f : Nat → Bool) : BitVec n :=
  BitVec.ofNat n ((List.range n).foldl (fun acc k => acc + (if f k then 2 ^ k else 0)) 0)

/-- BOOL3 on n bits (R283). -/
def opBool3 {n : Nat} (fn : BitVec 8) (a b c : BitVec n) : BitVec n :=
  ofBits n fun k => fn3 fn (a.getLsbD k) (b.getLsbD k) (c.getLsbD k)

/-- Number of 1 bits (R284). -/
def opPopc {n : Nat} (a : BitVec n) : Nat := ((List.range n).filter fun k => a.getLsbD k).length
/-- Number of 0 bits above the highest 1 bit (R284). -/
def opClz {n : Nat} (a : BitVec n) : Nat := if a = 0 then n else n - 1 - a.toNat.log2
/-- Bits in reverse order (R284). -/
def opBrev {n : Nat} (a : BitVec n) : BitVec n := ofBits n fun k => a.getLsbD (n - 1 - k)

/-- The position of a field operand (R285). -/
def fieldPos (b : Word) : Nat := (b.extractLsb' 0 8).toNat
/-- The length of a field operand (R285). -/
def fieldLen (b : Word) : Nat := min (b.extractLsb' 8 8).toNat 32

/-- BFE (R285). -/
def opBfe (signed : Bool) (a b : Word) : Word :=
  let pos := fieldPos b
  let len := fieldLen b
  let f : Nat → Bool := fun k => if pos + k < 32 then a.getLsbD (pos + k) else signed && a.getLsbD 31
  if len = 0 then 0 else ofBits 32 fun k => if k < len then f k else signed && f (len - 1)

/-- BFI (R285). -/
def opBfi (a b c : Word) : Word :=
  let pos := fieldPos b
  let len := fieldLen b
  ofBits 32 fun j => if pos ≤ j && j < pos + len then a.getLsbD (j - pos) else c.getLsbD j

/-- BSEL (R286). -/
def opBsel (a b c : Word) : Word :=
  let byteOf : Nat → Byte := fun n =>
    let x : Byte := (join b a).extractLsb' (8 * (c.extractLsb' (3 * n) 3).toNat) 8
    if c.getLsbD (16 + n) then 0
    else if c.getLsbD (12 + n) then (if x.getLsbD 7 then 255 else 0)
    else x
  byteOf 3 ++ (byteOf 2 ++ (byteOf 1 ++ byteOf 0))

/-- DOT4 (R313). -/
def opDot4 (sat signed : Bool) (a b c : Word) : Word :=
  let byteVal : Word → Nat → Int := fun x k =>
    let y : Byte := x.extractLsb' (8 * k) 8
    if signed then y.toInt else y.toNat
  narrow32 sat signed
    (val32 signed c + byteVal a 0 * byteVal b 0 + byteVal a 1 * byteVal b 1 + byteVal a 2 * byteVal b 2
      + byteVal a 3 * byteVal b 3)

/-- A value of 8 or 16 bits extended to 32 bits, with sign for an i type (R227). -/
def extend (signed : Bool) (n : Nat) (x : BitVec 64) : Word :=
  if signed then ((x.setWidth n).signExtend 32) else ((x.setWidth n).setWidth 32)

end Sys2Proof.Machine
end

