-- ==== Sys2Proof/Machine/Homes.lean ====
section
/-! DEFINITION. The homes of global lines (spec/03, spec/05): which home a line has, filling, eviction, compression,
leases, writes, use counts and monitors. A line's key is its home and its line index. -/

namespace Sys2Proof.Machine

/-! ## Which home -/

/-- Whether an address lies in a peer window, in host memory, in HBM (Table 2-2). -/
def isPeer (pa : Nat) : Bool := Config.peerBase ≤ pa && pa < Config.hostBase
def isHost (pa : Nat) : Bool := Config.hostBase ≤ pa && pa < Config.physEnd
def isHbm (pa : Nat) : Bool := pa < Config.hbmEnd
def isTier (pa : Nat) : Bool := Config.tierBase ≤ pa && pa < Config.tierEnd

/-- The fold of R60 for an L2 bank. -/
def bankFold (n : Nat) : Nat :=
  (n % 64) ^^^ (n / 2 ^ 6 % 64) ^^^ (n / 2 ^ 12 % 64) ^^^ (n / 2 ^ 18 % 64) ^^^ (n / 2 ^ 24 % 32)

/-- The fold of R60 for a tier-cache bank. -/
def tierFold (n : Nat) : Nat :=
  (List.range 12).foldl (fun x i => x ^^^ (n / 2 ^ (4 * i) % 16)) 0

/-- The home of a physical address (R60, R108): banks 0-767, memory-side units 768-779, tier-cache banks 780-795;
peers, which keep no line here, stand above. -/
def homeOf (pa : Nat) (ms : Bool) : Nat :=
  let n := pa / 128
  if isHbm pa then
    if ms then 768 + pa / Config.stackBytes else 64 * (pa / Config.stackBytes) + bankFold n
  else if isPeer pa then 1024 + pa / 2 ^ 42 % 256
  else 780 + tierFold n

/-- The die that holds a home, if it lies on a compute die. -/
def homeDie (h : Nat) : Option Nat :=
  if h < 768 then some (h / 192) else if h < 780 then some ((h - 768) / 3) else none

/-- Whether a home is offline: its die is past step 3 of its warm reset (R446). -/
def homeOffline (s : State) (h : Nat) : Bool :=
  match homeDie h with
  | none => false
  | some d => match (s.die d).st with
    | .running => false
    | .reset k => decide (3 ≤ k)

/-- The key of a line. -/
def lineKey (home pa : Nat) : Nat := home * 2 ^ 45 + pa / 128

def keyHome (k : Nat) : Nat := k / 2 ^ 45
def keyAddr (k : Nat) : Nat := k % 2 ^ 45 * 128

/-! ## Compression and capacity -/

/-- The words of `k` bytes of a line. -/
def lineWords (k : Nat) (bs : List Byte) : List Nat :=
  (List.range (128 / k)).map fun i => bytesNat ((bs.drop (k * i)).take k)

/-- Whether each word of `k` bytes differs from the first by a signed delta of `d` bits. -/
def deltaFits (k d : Nat) (bs : List Byte) : Bool :=
  let ws := lineWords k bs
  let b := ws.headD 0
  ws.all fun x => (x + 2 ^ (8 * k) - b + 2 ^ (d - 1)) % 2 ^ (8 * k) < 2 ^ d

/-- Stored bytes of a line, the first form of Table 3-1 that it fits. -/
def storedBytes (bs : List Byte) : Nat :=
  if bs.all (· = 0) then 0
  else if (lineWords 8 bs).all (· = (lineWords 8 bs).headD 0) then 8
  else if deltaFits 8 8 bs then 24
  else if deltaFits 4 8 bs then 36
  else if deltaFits 8 16 bs then 40
  else 128

/-- Half data entries that a line takes (R62). -/
def lineHalves (bs : List Byte) : Nat :=
  let n := storedBytes bs
  if n = 0 then 0 else if n ≤ 64 then 1 else 2

/-- The set of a line in its home: one of 512 in an L2 bank, by the line index above the fold's first six bits
(log entry 6); memory-side units and tier-cache banks count as one set (log entry 6). -/
def lineSet (k : Nat) : Nat := if keyHome k < 768 then k % 2 ^ 45 / 64 % 512 else 0

/-- The keys of the lines of the set that holds line `k`. -/
def setMates (s : State) (k : Nat) : List (Nat × Line) :=
  tsel s.lines fun j _ => keyHome j == keyHome k && lineSet j == lineSet k

/-- Whether a set holds more than it can (R61, R66, R67). -/
def setOver (s : State) (k : Nat) : Bool :=
  let ms := setMates s k
  if keyHome k < 768 then
    32 < ms.length || 32 < (ms.map fun e => lineHalves (s.rd (keyAddr e.1) 128)).foldl (· + ·) 0
  else if keyHome k < 780 then 65536 < ms.length
  else 131072 < ms.length

/-- Replacement order: lines marked evict-first, then plain lines, then kept lines, each by least recent use
(R63, R325). -/
def victimRank (l : Line) : Nat := (if l.hint = 1 then 0 else if l.hint = 2 then 2 else 1) * 2 ^ 128 + l.last

/-- The entry of least rank. -/
def leastBy {α : Type} (r : α → Nat) : List α → Option α
  | [] => none
  | x :: xs => match leastBy r xs with
    | none => some x
    | some y => if r x ≤ r y then some x else some y

/-- Eviction (R61, R111): the timestamps are folded into the retired maxima and the line leaves its home, and with it its
quota window and count (R129): the manual does not say whether they survive (DESIGN CHOICE, log entry 58). -/
def evictLine (s : State) (k : Nat) : State :=
  match tget s.lines k with
  | none => s
  | some l =>
    let h := s.home (keyHome k)
    { s.setHome (keyHome k) { h with rw := max h.rw l.wts, rd := max h.rd l.rts } with lines := tdel s.lines k }

/-- Evict from the set of line `k`, never that line itself nor a line with a host-copy mark, until the set fits. A set whose
other lines all carry the mark keeps them and stays above its size: the manual does not say what it does (DESIGN CHOICE,
log entry 6). -/
def fitSet (k : Nat) : Nat → State → State
  | 0, s => s
  | fuel + 1, s =>
    if setOver s k then
      match leastBy (fun e => victimRank e.2) ((setMates s k).filter fun e => e.1 != k && !e.2.hostMark) with
      | none => s
      | some e => fitSet k fuel (evictLine s e.1)
    else s

/-- Make room in the set of line `k`, which has at most 64 lines to give up. -/
def makeRoom (k : Nat) (s : State) : State := fitSet k 64 s

/-- Fill a line that its home does not hold: it takes the retired maxima (R111). -/
def fillLine (s : State) (home pa : Nat) : State :=
  let k := lineKey home pa
  match tget s.lines k with
  | some _ => s
  | none =>
    let h := s.home home
    let (i, s) := s.newId
    makeRoom k (s.setLine k { Line.fresh with wts := h.rw, rts := h.rd, last := i })

/-- Whether R58 allows copies of a line in an L1. Every tier line is copyable; the manual does not say which reads the
"tier-uncached" ones of R100 are, and the model has none (DESIGN CHOICE, log entry 58). -/
def copyable (home : Nat) (l : Line) : Bool := (decide (home < 768) && l.use == 0) || decide (780 ≤ home)

/-! ## Use counts and freeing -/

/-- Free a line (R64): without the mark it is written back, with it its data is discarded and memory shows what
storage held (R65). -/
def freeLine (s : State) (k : Nat) : State :=
  match tget s.lines k with
  | none => s
  | some l => evictLine (if l.dead && l.dirty then s.wr (keyAddr k) l.backing else s) k

/-- A read request has been served: count it down, and free the line at zero (R64). -/
def useDown (s : State) (k : Nat) : State :=
  match tget s.lines k with
  | none => s
  | some l =>
    if l.use = 0 then s
    else
      let s := s.setLine k { l with use := l.use - 1 }
      if l.use = 1 then freeLine s k else s

/-! ## Reads -/

/-- What a read at a home gives: its timestamp, the line's new wts and rts, the bytes, the line's bytes when it may be
copied, and whether a word read is poisoned. -/
structure ReadOut where
  t    : Nat
  wts  : Nat
  rts  : Nat
  data : List Byte
  line : List Byte
  bad  : Bool
  deriving DecidableEq, Repr

/-- Whether a tier line belongs to a retired controller (R452). -/
def deadTier (s : State) (pa : Nat) : Bool := isTier pa && s.ctrl.retTier.any fun n => n == (Config.tierUnit (pa / 128)).toNat

/-- Whether a read of bytes touches a poisoned word (R443), or a line that a retired controller held (R452). -/
def poisoned (s : State) (pa n : Nat) : Bool :=
  (s.poison.any fun w => pa / 4 ≤ w && w ≤ (pa + n - 1) / 4) || deadTier s pa

/-- The timestamp of a read and the rts it leaves (R100); a lease of none is a read without a lease. -/
def readStamps (home : Nat) (l : Line) (pts : Nat) (lease : Option Nat) : Nat × Nat :=
  let t := max pts l.wts
  match lease with
  | some n => if copyable home l then (t, max l.rts (max (l.wts + n) (pts + n))) else (t, max l.rts t)
  | none => (t, max l.rts t)

/-- The stamps of a renewal that finds its wts unchanged (R102). -/
def renewStamps (l : Line) (pts lease : Nat) : Nat × Nat := (max pts l.wts, max l.rts (pts + lease))

/-- A read performed at its home (R100, R102); an error with the timestamp that the ceiling must reach when it would
assign one above it (R117). `renew` carries the wts of the copy that a renewal names: one that the line still has extends
the lease, also where the line has a use count by now and keeps no copy in an L1. -/
def homeReadAt (s : State) (home pa n pts : Nat) (lease renew : Option Nat) (hint : Nat) :
    Except Nat (State × ReadOut) :=
  let s := fillLine s home pa
  let k := lineKey home pa
  let l := s.line k
  let copy := copyable home l && lease.isSome
  let st := if lease.isSome && renew == some l.wts then renewStamps l pts (lease.getD 0) else readStamps home l pts lease
  if s.ceil < max st.1 st.2 then .error (max st.1 st.2)
  else
    let out : ReadOut :=
      { t := st.1, wts := l.wts, rts := st.2, data := s.rd pa n,
        line := if copy && !poisoned s (pa / 128 * 128) 128 then s.rd (pa / 128 * 128) 128 else [], bad := poisoned s pa n }
    let (i, s) := s.newId
    let s := s.setLine k { l with rts := st.2, last := i, hint := if home < 768 ∧ hint ≠ 0 then hint else l.hint }
    .ok (useDown s k, out)

/-! ## Replies -/

/-- A prefetch is no ordinary access and orders nothing (R330). -/
def ReqKind.isPref : ReqKind → Bool
  | .pref _ => true
  | _ => false

/-- The lanes of a request: an MWAIT read may serve several (R221). -/
def Req.lanes (r : Req) : LaneSet :=
  match r.kind with
  | .mwait _ _ _ m => m
  | _ => (1 : LaneSet) <<< r.lane

/-- Whether two requests are of one life of a wave, and of one lane or one instruction: they are ordered (R107, R435). -/
def Req.follows (r e : Req) : Bool :=
  e.wave == r.wave && e.gen == r.gen && e.orphan == r.orphan && (e.lanes &&& r.lanes != 0 || e.flight == r.flight)

/-- The requests that follow one performed at `t` are performed no lower (R107). -/
def raiseLow (reqs : Tbl Req) (id : Nat) (r : Req) (t : Nat) : Tbl Req :=
  if r.kind.isPref then reqs
  else tmap reqs fun i e => if id < i && e.follows r then { e with low := max e.low t } else e

/-- The home answers a request: the request leaves the pending ones, its reply is on its way. -/
def sendReply (s : State) (id : Nat) (words : List Word) (t wts rts : Nat) (line : List Byte) (status : Nat)
    (bad : Bool) : State :=
  match tget s.reqs id with
  | none => s
  | some r =>
    { s with
      reqs := raiseLow (tdel s.reqs id) id r t
      reps := tput s.reps id
        { req := r, words := words, t := t, wts := wts, rts := rts, line := line, status := status, poisoned := bad } }

/-- A value as its integer type reads it. -/
def tyVal (ty : Ty) (x : DWord) : Int := if ty.is64 then val64 ty.isSigned x else val32 ty.isSigned (x.setWidth 32)

/-- Whether a monitored word satisfies its request's compare (R339). -/
def waitHolds (r : Req) (value : Nat) : Bool :=
  match r.kind with
  | .mwait cmp ty b _ => cmpInt cmp (tyVal ty (BitVec.ofNat 64 value)) (tyVal ty b)
  | _ => false

/-- Monitor wake (R222): after a write at `home` to the bytes of [pa, pa + n), every monitor whose word it touched is
evaluated; where the compare holds the waiter's read is performed at the write's timestamp. -/
def wakeMonitors (home pa n t : Nat) : List (Nat × Monitor) → State → State
  | [], s => s
  | (m, mon) :: ms, s =>
    match tget s.reqs mon.req with
    | none => wakeMonitors home pa n t ms s
    | some r =>
      if mon.home = home ∧ mon.pa < pa + n ∧ pa < mon.pa + r.size ∧ waitHolds r (bytesNat (s.rd mon.pa r.size)) then
        wakeMonitors home pa n t ms
          (sendReply { s with monitors := tdel s.monitors m } mon.req (bytesWords (s.rd mon.pa r.size)) t t t [] 0
            (poisoned s mon.pa r.size))
      else wakeMonitors home pa n t ms s

/-! ## Writes -/

/-- Whole words that a write covers lose their poison (R443). -/
def clearPoison (s : State) (pa n : Nat) : State :=
  { s with poison := s.poison.filter fun w => !(pa ≤ 4 * w && 4 * w + 4 ≤ pa + n) }

/-- The timestamp of a write (R104). -/
def writeStamp (l : Line) (pts : Nat) : Nat := max pts (l.rts + 1)

/-- The writer's own L1 copy takes the new line (R58); a line that holds poisoned data leaves the L1 (R443). -/
def ownCopy (s : State) (core : Option Nat) (pa t : Nat) : State :=
  match core with
  | none => s
  | some c =>
    match tget (s.core c).l1 (pa / 128) with
    | none => s
    | some cp =>
      s.updCore c fun x =>
        { x with l1 := if poisoned s (pa / 128 * 128) 128 then tdel x.l1 (pa / 128)
                       else tput x.l1 (pa / 128) { cp with wts := t, rts := t, data := s.rd (pa / 128 * 128) 128 } }

/-- A write of bytes at a home, at the timestamp of R104 (READ_MODIFY_WRITE and ACC use it too): an error with that
timestamp when the ceiling holds it (R117). The writer's own L1 copy takes the new line (R58), and monitors of the word are
evaluated (R222). A bank keeps the home hint (R325). -/
def homeWriteAt (s : State) (home pa pts : Nat) (bs : List Byte) (core : Option Nat) (hint : Nat) :
    Except Nat (State × Nat) :=
  let s := fillLine s home pa
  let k := lineKey home pa
  let l := s.line k
  let t := writeStamp l pts
  if s.ceil < t then .error t
  else
    let back := if l.dirty then l.backing else s.rd (pa / 128 * 128) 128
    let (i, s) := s.newId
    let keep := home < 768 || 780 ≤ home
    let s := (clearPoison s pa bs.length).setLine k
      { l with wts := t, rts := t, dirty := keep, backing := if keep then back else [], last := i,
               hint := if home < 768 ∧ hint ≠ 0 then hint else l.hint }
    let s := ownCopy (makeRoom k (if deadTier s pa then s else s.wr pa bs)) core pa t
    .ok (wakeMonitors home pa bs.length t s.monitors s, t)

/-- What keeps a device write from its line: the host's copy (R116), or ownership of a host line (R114). -/
def writeWaits (s : State) (home pa : Nat) : Bool :=
  let l := s.line (lineKey home pa)
  l.hostMark || (isHost pa && !l.owned)

/-- The number that stands for XD, which sends the device's own accesses, where a request names its core. -/
def xdCore : Nat := Config.nCores

/-- An access of the device itself to a peer (R115): a request that no wave waits for. -/
def xdReq (kind : ReqKind) (part pa va size : Nat) : Req :=
  { kind := kind, core := xdCore, wave := 0, part := part, gen := 0, agen := 0, lane := 0, flight := 0, pa := pa, va := va,
    size := size, home := homeOf pa false, l1 := 3, hhint := 0, token := none, orphan := true, armed := false, held := none,
    low := 0, acks := 0, got := [] }

/-- Where an access of a partition to a peer goes: the entry of its peer table names the device, the partition and the base of
the window there (R461). -/
def remoteOf (s : State) (part pa : Nat) : Option Remote :=
  if isPeer pa then
    (tget (s.part part).peers (pa / 2 ^ 42 % 256)).map fun e =>
      { dev := e.toNat / 2 ^ 16 % 2 ^ 16, part := e.toNat / 2 ^ 32 % 16, addr := e.toNat / 2 ^ 80 % 2 ^ 36 * 2 ^ 16 + pa % 2 ^ 42 }
  else none

/-- Send such a request. -/
def xdSend (s : State) (r : Req) : Nat × State :=
  let (i, s) := s.newId
  (i, { s with reqs := tput s.reqs i { r with remote := remoteOf s r.part r.pa } })

/-- A write of the device's own (rings, records) by physical address, at its home's next timestamp (R104): none while the
ceiling (R117), the host (R114, R116) or a die under reset (R446) holds it. One to a peer is sent there, and the device
does not wait for the acknowledgement (log entry 7). The line's home is always that of an ordinary page, also where a page
table maps it as a memory-side page: the manual does not say (DESIGN CHOICE, log entry 6). -/
def devWrite (s : State) (part pa : Nat) (bs : List Byte) : Option State :=
  let home := homeOf pa false
  if 1024 ≤ home then some (xdSend s (xdReq (.write bs) part pa 0 bs.length)).2
  else if writeWaits s home pa || homeOffline s home then none
  else match homeWriteAt s home pa 0 bs none 0 with
    | .ok (s, _) => some s
    | .error _ => none

/-- Write a line back (R331): it stays cached, clean. -/
def cleanLine (s : State) (k : Nat) : State :=
  match tget s.lines k with
  | none => s
  | some l => s.setLine k { l with dirty := false, backing := [] }

end Sys2Proof.Machine
end

