-- ==== Sys2Proof/Machine/Ops.lean ====
section
/-! DEFINITION. The named operations over registers, latches and program counters of a wave, the checks of an issuing
instruction (R264), the bookkeeping of its issue, fault records, and taking a trap and returning from one
(R390 to R393). -/

namespace Sys2Proof.Machine

/-- The result of a step. -/
abbrev Out := Host.Outcome State Fault Refusal

/-! ## Registers (R53 to R55, R253 to R255) -/

/-- A word of a vector register. -/
def Wave.vget (w : Wave) (n lane : Nat) : Word := ((tget w.v n).getD []).getD lane 0
/-- A uniform register. -/
def Wave.wget (w : Wave) (n : Nat) : Word := (tget w.w n).getD 0
/-- A predicate register; p7 reads 1 in every lane. -/
def Wave.pget (w : Wave) (p : Pred) : LaneSet := if p = 7 then BitVec.allOnes 32 else (tget w.p p.toNat).getD 0

/-- A word that is written whole holds no error any more (R443). -/
def Wave.unmark (w : Wave) (n : Nat) (m : LaneSet) : List (Nat × Nat) :=
  w.bad.filter fun e => !(e.1 == n && m.getLsbD e.2)

/-- Write a vector register in the lanes of a set. -/
def Wave.vput (w : Wave) (n : Nat) (m : LaneSet) (f : Nat → Word) : Wave :=
  { w with v := tput w.v n (row fun l => if m.getLsbD l then f l else w.vget n l), bad := w.unmark n m }
/-- Write a uniform register. -/
def Wave.wput (w : Wave) (n : Nat) (x : Word) : Wave :=
  { w with w := tput w.w n x, bad := w.unmark (256 + n) (BitVec.allOnes 32) }
/-- Write a predicate in the lanes of a set; a write to p7 is discarded. -/
def Wave.pput (w : Wave) (p : Pred) (m : LaneSet) (f : Nat → Bool) : Wave :=
  if p = 7 then w
  else { w with p := tput w.p p.toNat (laneSet fun l => if m.getLsbD l then f l else (w.pget p).getLsbD l) }

/-- A pair of vector registers, and of uniform ones. -/
def Wave.vget2 (w : Wave) (n lane : Nat) : DWord := join (w.vget (n + 1) lane) (w.vget n lane)
def Wave.wget2 (w : Wave) (n : Nat) : DWord := join (w.wget (n + 1)) (w.wget n)

/-- The program counter and the stack pointer of a lane. -/
def Wave.pcOf (w : Wave) (l : Nat) : DWord := w.pc.getD l 0
def Wave.cspOf (w : Wave) (l : Nat) : DWord := w.csp.getD l 0

/-- The live lanes of a wave. -/
def Wave.live (w : Wave) : LaneSet := ~~~w.exited

/-- The lanes parked at wave-wide instructions. -/
def Wave.parked (w : Wave) : LaneSet := w.gathers.foldl (fun m g => m ||| g.lanes) 0

/-- The gathering at a PC. -/
def Wave.gatherAt (w : Wave) (pc : DWord) : Option Gather := w.gathers.find? fun g => g.pc == pc

/-- The lanes of a gathering, none when nothing is parked there. -/
def Wave.gatherLanes (w : Wave) (pc : DWord) : LaneSet :=
  match w.gatherAt pc with
  | none => 0
  | some g => g.lanes

/-- Whether the gathering has every live lane of its mask (R185). -/
def Wave.complete (w : Wave) (g : Gather) : Bool := g.mask &&& w.live &&& ~~~g.lanes == 0

/-- The live lanes that are neither parked nor held at a PC (R183, R391). -/
def Wave.freeAt (w : Wave) (pc : DWord) : LaneSet :=
  laneSet fun l => w.live.getLsbD l && !w.parked.getLsbD l && !w.held.getLsbD l && w.pcOf l == pc

/-- The lanes of the path at a PC, with the lanes parked there. -/
def Wave.pathAt (w : Wave) (pc : DWord) : LaneSet := w.freeAt pc ||| w.gatherLanes pc

/-- The lanes of a guard (R248). -/
def Wave.guardSet (w : Wave) (g : Guard) : LaneSet := if g.neg then ~~~w.pget g.p else w.pget g.p

/-- A format register as an agent sees it (R242). -/
def fmtVal (t : Tbl FmtEnt) (n : Nat) : DWord := ((tget t n).map (·.val)).getD 0

/-- A write of a format register: the writer sees it, others once a barrier orders them (R242). The write of the greater
number is the later one (log entry 62). -/
def fmtPut (t : Tbl FmtEnt) (n stamp : Nat) (x : DWord) : Tbl FmtEnt := tput t n { stamp := stamp, val := x, own := true }

/-! ## Latches (R256, R257, R259) -/

/-- Shift a value of 32 bits per lane into the latches. -/
def Wave.push (w : Wave) (f : Nat → Word) : Wave :=
  { w with latches := { vals := row f, valid := true } :: w.latches.take 3 }

/-- Every latch becomes invalid. -/
def Wave.noLatch (w : Wave) : Wave := { w with latches := w.latches.map fun l => { l with valid := false } }

/-- A latch. -/
def Wave.latch (w : Wave) (n : Nat) : Latch := w.latches.getD n Latch.fresh

/-! ## Operands named, and the checks of R264 -/

/-- What an instruction names: registers by number (Table 12-3) and latches, in the order of its fields; `dst` lists the
registers of its D field, which stand first. -/
structure Use where
  regs : List Nat
  lats : List Nat
  dst  : List Nat := []
  deriving DecidableEq, Repr

/-- The register that a check finds beyond the wave's blocks (R52). -/
def Wave.rangeFail (w : Wave) (u : Use) : Option Nat := u.regs.find? fun n => n < 256 && 8 * w.blocks ≤ n

/-- The register, predicate or cursor whose pending bit is set (R251); the guard is checked last (log entry 8). -/
def Wave.pendFail (w : Wave) (g : Guard) (u : Use) : Option Nat :=
  (u.regs ++ [384 + g.p.toNat]).find? fun n => w.pend.contains n

/-- The latch that is not valid (R259). -/
def Wave.latchFail (w : Wave) (u : Use) : Option Nat := u.lats.find? fun n => !(w.latch n).valid

/-- Steps 2 to 4 of R264: the first check that fails, as a trap code and its info (Table 18-4). -/
def Wave.checks (w : Wave) (g : Guard) (u : Use) : Option (Nat × Nat) :=
  match w.rangeFail u with
  | some n => some (5, n)
  | none => match w.pendFail g u with
    | some n => some (6, n)
    | none => match w.latchFail u with
      | some n => some (7, n)
      | none => none

/-! ## The issue of an instruction (R183, R184, R197, R249, R250) -/

/-- A scoreboard counter. -/
def Wave.sbOf (w : Wave) (n : Nat) : Nat := w.sb.getD n 0

/-- Whether the hints let the wave issue: WAIT clear, STALL run out, the SET counter below 63, not blocked and not
suspended. -/
def Wave.canIssue (w : Wave) (cyc : Nat) (h : Hints) : Bool :=
  w.blocked == .none && w.susp == .none && decide (w.iss.stallEnd ≤ cyc) &&
    (List.range 4).all (fun i => !h.wait.getLsbD i || w.sbOf i == 0) &&
    (match h.set with
      | none => true
      | some i => decide (w.sbOf i.toNat < 63))

/-- An instruction at its issue: its wave, the path's PC and lanes, and E, the lanes whose guard is true (R273). -/
structure Ctx where
  id   : Nat
  w    : Wave
  pc   : DWord
  path : LaneSet
  E    : LaneSet
  deriving DecidableEq, Repr

/-- The wave in focus. -/
def State.focusWave (s : State) : Option Nat :=
  match s.focus with
  | .wave id => some id
  | _ => none

/-- The issuing instruction of the wave in focus; none when it cannot issue now. -/
def State.ctx (s : State) (hd : Hdr) : Option Ctx :=
  match s.focusWave with
  | none => none
  | some id =>
    match tget s.waves id with
    | none => none
    | some w =>
      match w.iss.runPc with
      | none => none
      | some pc =>
        if w.pathAt pc ≠ 0 ∧ w.canIssue s.cycle hd.h ∧ (s.teamOf w).life = .resident then
          some { id := id, w := w, pc := pc, path := w.pathAt pc, E := w.pathAt pc &&& w.guardSet hd.g }
        else none

/-- The issue state after an issue (R184, R197, R249). -/
def issueNote (i : IssueSt) (cyc : Nat) (h : Hints) : IssueSt :=
  { i with runCount := i.runCount + 1, stallEnd := cyc + 1 + h.stall.toNat, lastIssue := cyc,
           ylded := if h.yld then some cyc else i.ylded, lost := 0, refusedAt := none }

/-- Set the program counters of lanes. -/
def Wave.setPc (w : Wave) (m : LaneSet) (f : Nat → DWord) : Wave :=
  { w with pc := (List.range 32).map fun l => if m.getLsbD l then f l else w.pcOf l }

/-- Whether all lanes of a set would go to one PC. -/
def onePc (m : LaneSet) (f : Nat → DWord) : Option DWord :=
  match lanesOf m with
  | [] => none
  | l :: ls => if ls.all fun k => f k == f l then some (f l) else none

/-- The lanes of a path go on (R183, R184, R257): a split, or a merge with another path, invalidates the latches, and
a split leaves the running path to be chosen afresh. A gathering at the PC has issued. -/
def Wave.goOn (w : Wave) (pc : DWord) (path : LaneSet) (f : Nat → DWord) : Wave :=
  let m := path &&& w.live
  let w := { w with gathers := w.gathers.filter fun g => g.pc != pc }
  let w1 := w.setPc m f
  match onePc m f with
  | none =>
    let w1 := { w1 with iss := { w1.iss with runPc := none } }
    if m = 0 then w1 else w1.noLatch
  | some t =>
    let w2 := { w1 with iss := { w1.iss with runPc := some t } }
    if w.freeAt t &&& ~~~m ≠ 0 then w2.noLatch else w2

/-- The next PC of straight-line code (R246). -/
def nextPc (pc : DWord) : DWord := pc + 12

/-- An instruction has issued and its wave, with its results written, goes on: YLD invalidates the latches after the
instruction's own shift (R257). -/
def finish (s : State) (c : Ctx) (hd : Hdr) (w : Wave) (f : Nat → DWord) : State :=
  let w := { w with iss := issueNote w.iss s.cycle hd.h }
  let w := if hd.h.yld then w.noLatch else w
  s.setWave c.id (w.goOn c.pc c.path f)

/-- As `finish`, to the next instruction. -/
def finishNext (s : State) (c : Ctx) (hd : Hdr) (w : Wave) : State := finish s c hd w fun _ => nextPc c.pc

/-! ## Variable-latency results (R250 to R252) -/

/-- Add to a scoreboard, and take one off. -/
def Wave.sbAdd (w : Wave) (n k : Nat) : Wave := { w with sb := w.sb.modify n (· + k) }
def Wave.sbSub (w : Wave) (n : Nat) : Wave := { w with sb := w.sb.modify n (· - 1) }

/-- Record an instruction in flight: its scoreboard counts it and its destinations become pending. -/
def startFlight (s : State) (f : Flight) (w : Wave) : Nat × State × Wave :=
  let (i, s) := s.newId
  let w := match f.sb with
    | none => w
    | some n => w.sbAdd n 1
  (i, { s with flights := tput s.flights i f }, { w with pend := f.regs ++ w.pend })

/-- The results of an instruction in flight have all been written: its pending bits clear and its scoreboard counts
down. -/
def endFlight (s : State) (i : Nat) : State :=
  match tget s.flights i with
  | none => s
  | some f =>
    let s := { s with flights := tdel s.flights i }
    s.updWave f.wave fun w =>
      let w := { w with pend := w.pend.filter fun n => !f.regs.contains n }
      match f.sb with
      | none => w
      | some n => w.sbSub n

/-- One lane of an instruction in flight is done. -/
def laneDone (s : State) (i lane : Nat) : State :=
  match tget s.flights i with
  | none => s
  | some f =>
    let left := f.left &&& ~~~((1 : LaneSet) <<< lane)
    let s := { s with flights := tput s.flights i { f with left := left } }
    if left = 0 then endFlight s i else s

/-! ## Fault records and the fault ring (R38, R40, R395) -/

/-- Place a field in a record. -/
def field (x n at_ : Nat) : Nat := x % 2 ^ n * 2 ^ at_

/-- The 64 bytes of a fault record, Table 2-7. -/
def FRec.bytes (r : FRec) : List Byte :=
  let pages := r.pages.take 4
  let word i := (pages.getD i 0).toNat
  natBytes
    (field (word 3) 64 448 + field (word 2) 64 384 + field (word 1) 64 320 + field (word 0) 64 256 +
      field r.pc.toNat 64 192 + field r.lanes.toNat 32 160 + field r.grid 32 128 + field r.pasid 20 108 +
      field r.part 4 104 + field r.gen 8 96 + field r.core 9 87 + field r.wave 6 81 +
      field (max 1 pages.length) 3 78 + field (min r.more 63) 6 72 + field r.dup.toNat 1 64 + field r.pts 64 0) 64

/-- The 16 bytes of a trap ring entry, Table 18-5. -/
def FRec.companion (r : FRec) : List Byte := natBytes (field r.info.toNat 64 64 + field r.kind 8 8 + field r.code 8 0) 16

/-- Records that the fault ring holds, its base, and the trap ring's base and enable. -/
def ringSize (p : Part) : Nat := 2 ^ (p.regs.faultRing.toNat % 16 + 6)
def ringBase (x : DWord) : Nat := x.toNat % 2 ^ 52 / 4096 * 4096

/-- Whether the fault ring has room. -/
def ringRoom (p : Part) : Bool := (p.regs.fHead + 2 ^ 32 - p.regs.fTail) % 2 ^ 32 < ringSize p

/-- A notice to the partition's host driver (R457): PENDING is set, with the ring's head, and the vector raised. -/
def escalation (s : State) (p : Nat) : State :=
  s.updMbox (p + 1) fun m => { m with pend := true, head := (s.part p).regs.fHead, irq := m.irq + 1 }

/-- A record in the ring gives a notice unless one is outstanding. -/
def notice (s : State) (p : Nat) : State := if (s.mbox (p + 1)).pend then s else escalation s p

/-- Write a record and its companion into the rings, and count it; none while a line of them may not be written yet. -/
def writeRecord (s : State) (p id : Nat) : Option State :=
  let pt := s.part p
  match tget pt.faults id with
  | none => some s
  | some r =>
    let idx := pt.regs.fHead % ringSize pt
    match devWrite s p (ringBase pt.regs.faultRing + 64 * idx) r.bytes with
    | none => none
    | some s1 =>
      let s2 := if pt.regs.trapRing.getLsbD 0 then devWrite s1 p (ringBase pt.regs.trapRing + 16 * idx) r.companion else some s1
      match s2 with
      | none => none
      | some s2 =>
        some (notice (s2.updPart p fun q =>
          { q with faults := tput q.faults id { r with written := true },
                   regs := { q.regs with fHead := (q.regs.fHead + 1) % 2 ^ 32 } }) p)

/-- Held records are written as ring entries free and their lines may be written, in the order in which they were held
(R40). -/
def drainHeld (p : Nat) : Nat → State → State
  | 0, s => s
  | fuel + 1, s =>
    let pt := s.part p
    match pt.heldF with
    | [] => s
    | id :: rest =>
      if ringRoom pt then
        match writeRecord (s.updPart p fun q => { q with heldF := rest }) p id with
        | none => s
        | some s => drainHeld p fuel s
      else s

/-- A record for the Trowel's view and the ring; a full ring holds it (R40), and so does a line that may not be written yet
(log entry 7). `ask` requests a fault decision. -/
def pushFault (s : State) (p : Nat) (r : FRec) (ask : Bool) : State :=
  let id := (s.part p).nextF
  let s := s.updPart p fun q =>
    { q with faults := tput q.faults id r, nextF := id + 1,
             decReqs := if ask then q.decReqs ++ [.fault id] else q.decReqs, heldF := q.heldF ++ [id] }
  drainHeld p ((s.part p).heldF.length) s

/-- The record of a wave: its place, its lanes and its core's pts. -/
def waveRec (s : State) (id : Nat) (w : Wave) (pc : DWord) (lanes : LaneSet) : FRec :=
  let g := s.gangOf w
  { pages := [0], pc := pc, lanes := lanes, grid := g.vertex, pasid := (s.gridOf w).pasid, part := g.part, gen := w.gen,
    core := w.core, wave := 16 * w.quarter + w.slot, more := 0, dup := false, pts := (s.core w.core).pts, code := 0,
    kind := 0, info := 0, team := w.team, waveId := id, hod := none, under := none, written := false, resume := false }

/-! ## Taking a trap (R388 to R395) -/

/-- Whether a trap of a wave may enter its handler (Table 18-4). -/
def handlerCode (code : Nat) : Bool :=
  [1, 2, 3, 4, 5, 6, 7, 8, 9, 11, 13, 14, 15, 16, 19, 20].contains code

/-- The address a trap vector names: bits 63:2 in place. -/
def vecAddr (x : DWord) : DWord := x &&& ~~~(3 : DWord)

/-- Whether the wave's handler takes a trap (R390). -/
def takesHandler (s : State) (w : Wave) (code : Nat) : Bool :=
  handlerCode code && (s.teamOf w).trapVec.getLsbD 0 && !w.trap.inn

/-- Entry into the handler (R391). -/
def handlerEntry (w : Wave) (pc : DWord) (path lanes : LaneSet) (code : Nat) (info vec : DWord) : Wave :=
  let w := { w with gathers := w.gathers.filter fun g => g.pc != pc }
  let w := (w.setPc (path &&& ~~~lanes) fun _ => nextPc pc).setPc lanes fun _ => vec
  let w := { w with
    trap := { inn := true, code := BitVec.ofNat 8 code, pc := pc, lanes := lanes, info := info },
    held := w.live &&& ~~~lanes &&& ~~~(w.freeAt vec),
    iss := { w.iss with runPc := some vec, runCount := 0 } }
  w.noLatch

/-- A wave stops: its latches are invalid, and a blocking wait that has not ended is executed afresh, but an arrival at
a barrier stands, and an MWAIT goes on reading and watching until a halt (R190, R223, R257, R342). -/
def stopWait (waited : Nat) : Blocked → Blocked
  | .bar n c st a => .bar n c st a
  | .gbar n c st a => .gbar n c st a
  | .mwait f => .mwait f
  | .nap n => .nap (n - waited)
  | _ => .none

/-- The flight of a wait that is executed afresh. -/
def waitFlight : Blocked → Option Nat
  | .hwait _ _ f => some f
  | .gwaitlow _ _ f => some f
  | _ => none

/-- Suspend a wave. -/
def suspendWave (s : State) (id : Nat) (why : Susp) : State :=
  let s := match waitFlight (s.wave id).blocked with
    | none => s
    | some f => endFlight s f
  let w := s.wave id
  let s := s.updTeam w.team fun t =>
    { t with claims := t.claims.filter (· != id), mqueue := t.mqueue.filter (·.wave != id),
             mfetch := t.mfetch.filter (·.wave != id) }
  s.updWave id fun w =>
    { w.noLatch with susp := why, blocked := stopWait (s.cycle - w.iss.blockedAt) w.blocked,
                     iss := { w.iss with blockedAt := s.cycle } }

/-- A trap of one wave that goes to the policy: the wave is suspended and the record written (R390, R395). -/
def policyTrap (s : State) (id : Nat) (pc : DWord) (lanes : LaneSet) (code : Nat) (info : DWord) : State :=
  let w := s.wave id
  let r := { waveRec s id w pc lanes with code := code, kind := if w.trap.inn then 3 else 1, info := info }
  pushFault (suspendWave s id (.trap code)) (s.partNo w) r true

/-- TAKING A TRAP: a precise trap of the path at `pc`. TRAP and BKPT act for the lanes of E, every other trap for all
lanes of the path. Nothing of the instruction is performed. -/
def takeTrap (s : State) (id : Nat) (pc : DWord) (path E : LaneSet) (code : Nat) (info : DWord) : State :=
  let w := s.wave id
  let lanes := if code = 19 ∨ code = 20 then E else path
  if takesHandler s w code then
    s.setWave id (handlerEntry w pc path lanes code info (vecAddr (s.teamOf w).trapVec))
  else
    let s := s.updWave id fun w => { w with gathers := w.gathers.filter fun g => g.pc != pc }
    policyTrap s id pc lanes code info

/-- The trap of an issuing instruction. -/
def trapCtx (s : State) (c : Ctx) (code info : Nat) : State :=
  takeTrap s c.id c.pc c.path c.E code (BitVec.ofNat 64 info)

/-- RETURN FROM A TRAP (R392): the live lanes of the gathering's mask go to the target, the other lanes that gathered there
go on; IN is cleared, held paths are released and the latches are invalidated. -/
def trapReturn (w : Wave) (pc : DWord) (path mask : LaneSet) (next : Bool) : Wave :=
  let target := if next then nextPc w.trap.pc else w.trap.pc
  let w := { w with gathers := w.gathers.filter fun g => g.pc != pc }
  let w := (w.setPc (path &&& w.live &&& ~~~mask) fun _ => nextPc pc).setPc (mask &&& w.live) fun _ => target
  { w.noLatch with trap := { w.trap with inn := false }, held := 0, iss := { w.iss with runPc := none } }

/-- A trap for a whole team (R388, R395, R441): every wave is suspended, and the record is written. -/
def teamTrapRec (s : State) (t : Nat) (r : FRec) : State :=
  let s := (s.teamWaves t).foldl (fun s i => suspendWave s i (.trap r.code)) s
  let s := s.updTeam t fun x => { x with stopped := true }
  pushFault s (s.gang (s.team t).gang).part r true

/-- A team trap whose record names one wave. -/
def teamTrap (s : State) (t : Nat) (code : Nat) (info pc : DWord) (named : Nat) (lanes : LaneSet) : State :=
  let r := { waveRec s named (s.wave named) pc lanes with code := code, kind := 2, info := info, team := t,
                                                          part := (s.gang (s.team t).gang).part }
  teamTrapRec s t r

/-- The gathering of least PC. -/
def Wave.lowGather (w : Wave) : Option Gather := leastBy (fun g => g.pc.toNat) w.gathers

/-- The PC of the last record that suspends a wave of its own. -/
def suspPc (s : State) (id : Nat) (w : Wave) : Option DWord :=
  if w.susp = .none then none
  else (((s.partOf w).faults.filter fun e => e.2.waveId == id && e.2.kind != 2).getLast?).map fun e => e.2.pc

/-- The address of the instruction at which a wave waits or is suspended (R395). -/
def namedPc (s : State) (id : Nat) (w : Wave) : DWord :=
  match suspPc s id w, w.iss.runPc, w.lowGather with
  | some pc, _, _ => pc
  | none, some pc, _ => pc
  | none, none, some g => g.pc
  | none, none, none => w.pcOf ((lowLane w.live).getD 0)

/-- A trap of a team that names one of its waves, at the instruction at which it waits, with the threads that are there
(R395). -/
def namedTrap (s : State) (t named code : Nat) (info : DWord) : State :=
  let w := s.wave named
  let pc := namedPc s named w
  teamTrap s t code info pc named (w.pathAt pc &&& w.live)

/-- Poisoned data is consumed by a wave: TRAP_STORAGE for its team, with the address of the line (R443, Table 18-4). -/
def storageTrap (s : State) (wave pa : Nat) : State :=
  namedTrap s (s.wave wave).team wave 18 (BitVec.ofNat 64 (pa / 128 * 128))

/-- An error in storage inside a core is consumed by a wave (R443). -/
def coreTrap (s : State) (wave unit : Nat) : State :=
  namedTrap s (s.wave wave).team wave 18 (BitVec.ofNat 64 (2 ^ 63 + unit))

/-! ## Wave-wide gatherings (R185 to R187, R291) -/

/-- The lanes of a PC park: the mask is read when the first of them parks, and again when a lane parks for the first time
after a pre-emption (log entry 59). -/
def Wave.park (w : Wave) (pc : DWord) (mask : LaneSet) : Wave :=
  let add := w.freeAt pc
  match w.gatherAt pc with
  | some g =>
    let g := if g.old && add != 0 then { g with mask := mask, old := false } else g
    { w with gathers := { g with lanes := g.lanes ||| add } :: w.gathers.filter fun x => x.pc != pc }
  | none => { w with gathers := { pc := pc, mask := mask, lanes := add, old := false } :: w.gathers }

/-- Whether the lanes that now park at a PC read the mask. -/
def Wave.readsMask (w : Wave) (pc : DWord) : Bool :=
  match w.gatherAt pc with
  | some g => g.old && w.freeAt pc != 0
  | none => true

/-- Whether every live lane is parked and no gathering is complete (R187). -/
def Wave.deadlocked (w : Wave) : Bool :=
  w.live != 0 && w.live &&& ~~~w.parked == 0 && w.gathers.all fun g => !w.complete g

/-- TRAP_CONV_DEADLOCK when the wave's lanes are all parked in vain. -/
def convDeadlock (s : State) (id : Nat) : State :=
  let w := s.wave id
  if w.deadlocked then
    match w.lowGather with
    | none => s
    | some g => takeTrap s id g.pc (g.lanes &&& w.live) (g.lanes &&& w.live) 10 (w.parked.setWidth 64)
  else s

/-- Parking at a wave-wide instruction: when the gathering is complete the group is the path that issues; otherwise
the running path parks, which invalidates the latches. The instructions that name no mask leave the latches valid where one
path gathers whole at once (`keep`; R326, R341, log entry 28). -/
def gathered (s : State) (c : Ctx) (hd : Hdr) (mask : LaneSet) (keep : Bool) : Option Ctx × State :=
  let w := c.w.park c.pc mask
  let w := if keep && (c.w.gatherAt c.pc).isNone then w else w.noLatch
  match w.gatherAt c.pc with
  | none => (none, s)
  | some g =>
    if w.complete g then
      (some { c with w := w, path := g.lanes, E := g.lanes &&& w.guardSet hd.g }, s.setWave c.id w)
    else
      (none, convDeadlock (s.setWave c.id { w.noLatch with iss := { w.iss with runPc := none, blockedAt := s.cycle } }) c.id)

/-! ## Blocking and waking a wave (R154, R257) -/

/-- A blocking instruction has issued and the wave waits at it. -/
def block (s : State) (c : Ctx) (hd : Hdr) (w : Wave) (b : Blocked) : State :=
  let w := { w with gathers := w.gathers.filter fun g => g.pc != c.pc, blocked := b,
                    iss := { issueNote w.iss s.cycle hd.h with runPc := some c.pc, blockedAt := s.cycle } }
  s.setWave c.id w.noLatch

/-- A wait ends: the wave's lanes go on behind the instruction, and the running path is chosen afresh (R184). -/
def wake (s : State) (id : Nat) : State :=
  s.updWave id fun w =>
    let w1 := { w with blocked := .none }
    match w.iss.runPc with
    | none => w1
    | some pc =>
      let w2 := w1.goOn pc (w1.pathAt pc) fun _ => nextPc pc
      { w2 with iss := { w2.iss with runPc := none } }

/-! ## The frame of an instruction -/

/-- The storage of a core that holds an uncorrectable error in a word that an instruction reads: unit 1 or 5 (R443). -/
def Wave.badOperand (w : Wave) (u : Use) (E : LaneSet) : Option Nat :=
  ((u.regs.drop u.dst.length).find? fun n => w.bad.any fun e => e.1 == n && (256 ≤ n || E.getLsbD e.2)).map fun n =>
    if n < 256 then 1 else 5

/-- An instruction whose checks have passed: an operand that holds an uncorrectable error raises TRAP_STORAGE for the team
(R443), and otherwise the instruction has its effect. -/
def operate (s : State) (c : Ctx) (u : Use) (eff : State → State) : State :=
  match c.w.badOperand u c.E with
  | some unit => coreTrap s c.id unit
  | none => eff s

/-- The issue of an ordinary instruction: nothing when it cannot issue, a trap when a check of R264 fails, and its
effect otherwise. -/
def issue (s : State) (hd : Hdr) (u : Use) (eff : Ctx → State) : State :=
  match s.ctx hd with
  | none => s
  | some c =>
    match c.w.checks hd.g u with
    | some (code, info) => trapCtx s c code info
    | none => operate s c u fun _ => eff c

/-- A guard that is always true. -/
def plainGuard : Guard := { neg := false, p := 7 }

/-- The issue of a wave-wide instruction: its lanes gather first, under the mask that is read now if none is. `mu` names the
register of that mask, which is checked when it is read and not again (R251, R291). -/
def issueWide (s : State) (hd : Hdr) (u mu : Use) (keep : Bool) (mask : Wave → LaneSet) (eff : Ctx → State → State) : State :=
  match s.ctx hd with
  | none => s
  | some c =>
    match if c.w.readsMask c.pc then c.w.checks plainGuard mu else none with
    | some (code, info) => trapCtx s c code info
    | none => operate s c (if c.w.readsMask c.pc then mu else { regs := [], lats := [] }) fun s =>
      match gathered s c hd (mask c.w) keep with
      | (none, s) => s
      | (some c, s) =>
        match c.w.checks hd.g u with
        | some (code, info) => trapCtx s c code info
        | none => operate s c u (eff c)

end Sys2Proof.Machine
end

