-- ==== Sys2Proof/Machine/Operands.lean ====
section
/-! DEFINITION. Every operand form: source fields of 32 and 64 bits, special registers (Table 9-2), quads, lane masks,
destinations with write-back suppression and the latch shift, and what an instruction names (R52, R251, R259). -/

namespace Sys2Proof.Machine

/-! ## Special registers (R178, R179) -/

/-- The linear index of a thread in its team (R178). -/
def threadIndex (w : Wave) (lane : Nat) : Nat := 32 * w.idx + lane

/-- The waves of lower stages, and those of a stage. -/
def stageBase (g : Grid) (stage : Nat) : Nat := ((g.stages.take stage).foldl (· + ·) 0)
def stageCount (g : Grid) (stage : Nat) : Nat := g.stages.getD stage 0

/-- The waves of a team. -/
def Grid.waves (g : Grid) : Nat := g.tx * g.ty * g.tz / 32

/-- The value of a special register in a lane. -/
def special (s : State) (w : Wave) (lane : Nat) (r : Special) : Word :=
  let g := s.gridOf w
  let gang := s.gangOf w
  let i := threadIndex w lane
  BitVec.ofNat 32 <| match r with
  | .lane => lane
  | .tidX => i % g.tx
  | .tidY => i / g.tx % g.ty
  | .tidZ => i / (g.tx * g.ty)
  | .ntidX => g.tx
  | .ntidY => g.ty
  | .ntidZ => g.tz
  | .waveId => w.idx
  | .nwave => g.waves
  | .stage => w.stage
  | .stageWave => w.idx - stageBase g w.stage
  | .stageNwave => stageCount g w.stage
  | .teamSlot => (s.teamOf w).slot
  | .gangNteam => g.nteam
  | .gangX => gang.x
  | .gangY => gang.y
  | .gangZ => gang.z
  | .ngangX => g.gx
  | .ngangY => g.gy
  | .ngangZ => g.gz
  | .gangIssue => gang.q
  | .gridId => gang.vertex
  | .coreId => w.core

/-! ## Sources (Tables 12-3 and 12-4) -/

/-- A 32-bit source in a lane. -/
def rd32 (s : State) (w : Wave) (lane : Nat) : Src → Word
  | .v n => w.vget n.toNat lane
  | .w n => w.wget n.toNat
  | .sp r => special s w lane r
  | .zero => 0
  | .latch n => (w.latch n.toNat).vals.getD lane 0

/-- A 64-bit source in a lane: a pair by its even register, or latches n and n + 1 with the high word in n (R254). -/
def rd64 (s : State) (w : Wave) (lane : Nat) : Src → DWord
  | .v n => w.vget2 n.toNat lane
  | .w n => w.wget2 n.toNat
  | .latch n => join ((w.latch n.toNat).vals.getD lane 0) ((w.latch (n.toNat + 1)).vals.getD lane 0)
  | x => (rd32 s w lane x).setWidth 64

/-- A source of the width that an entry's type gives it, as 64 bits. -/
def rdW (s : State) (w : Wave) (lane : Nat) (wide : Bool) (x : Src) : DWord :=
  if wide then rd64 s w lane x else (rd32 s w lane x).setWidth 64

/-- A quad source, lowest register first; a uniform, latch or zero operand gives its pair, zero extended. -/
def rdQuad (s : State) (w : Wave) (lane : Nat) (x : Src) : BitVec 128 :=
  match x with
  | .v n => w.vget2 (n.toNat + 2) lane ++ w.vget2 n.toNat lane
  | x => (rd64 s w lane x).setWidth 128

/-- A lane mask operand (R274). -/
def maskVal (w : Wave) : MaskSrc → LaneSet
  | .all => BitVec.allOnes 32
  | .w n => w.wget n.toNat

/-- A predicate as an operand of a lane. -/
def Wave.pbit (w : Wave) (p : Pred) (lane : Nat) : Bool := (w.pget p).getLsbD lane

/-! ## What an instruction names -/

/-- A source of `k` registers. -/
def useSrc (k : Nat) : Src → Use
  | .v n => { regs := (List.range k).map (n.toNat + ·), lats := [] }
  | .w n => { regs := (List.range k).map (256 + n.toNat + ·), lats := [] }
  | .latch n => { regs := [], lats := (List.range k).map (n.toNat + ·) }
  | _ => { regs := [], lats := [] }

/-- A destination of `k` registers. -/
def useReg (k : Nat) : DReg → Use
  | .v n => { regs := (List.range k).map (n.toNat + ·), lats := [], dst := (List.range k).map (n.toNat + ·) }
  | .w n => { regs := (List.range k).map (256 + n.toNat + ·), lats := [], dst := (List.range k).map (256 + n.toNat + ·) }
  | .zero => { regs := [], lats := [] }

/-- A predicate, a cursor, a mask, a uniform register. -/
def usePred (p : Pred) : Use := { regs := [384 + p.toNat], lats := [] }
def useCur (c : BitVec 2) : Use := { regs := [392 + c.toNat], lats := [] }
def useW (k : Nat) (n : BitVec 7) : Use := { regs := (List.range k).map (256 + n.toNat + ·), lats := [] }
def useMask : MaskSrc → Use
  | .all => { regs := [], lats := [] }
  | .w n => useW 1 n

/-- The operands of an instruction, field by field. -/
def uses (us : List Use) : Use :=
  { regs := us.flatMap (·.regs), lats := us.flatMap (·.lats), dst := us.flatMap (·.dst) }

/-- Registers of a type, and of a width bit. -/
def tyRegs (ty : Ty) : Nat := if ty.is64 then 2 else 1
def wRegs (wide : Bool) : Nat := if wide then 2 else 1

/-- Registers of a load or store (R324). -/
def memRegs : MemTy → Nat
  | .b64 => 2
  | .b128 => 4
  | _ => 1

/-- Bytes of a load or store. -/
def memBytes : MemTy → Nat
  | .i8 | .n8 => 1
  | .i16 | .n16 => 2
  | .b32 => 4
  | .b64 => 8
  | .b128 => 16

/-! ## Destinations (R55, R255, R256) -/

/-- Write one word of a fixed-latency result and shift it into the latches: `f` gives the result of each lane of E. -/
def writeWord (w : Wave) (nw : Bool) (d : DReg) (k : Nat) (E : LaneSet) (f : Nat → Word) : Wave :=
  match d with
  | .v n =>
    let w1 := if nw then w else w.vput (n.toNat + k) E f
    w1.push fun l => if E.getLsbD l then f l else w1.vget (n.toNat + k) l
  | .w n =>
    match lowLane E with
    | none => w.push fun _ => w.wget (n.toNat + k)
    | some j => (if nw then w else w.wput (n.toNat + k) (f j)).push fun _ => f j
  | .zero => w.push fun l => if E.getLsbD l then f l else 0

/-- Write a 32-bit result. -/
def writeDst (w : Wave) (d : Dst) (E : LaneSet) (f : Nat → Word) : Wave := writeWord w d.nw d.r 0 E f

/-- Write a 64-bit result: the low word and then the high word (R256). -/
def writeDst2 (w : Wave) (d : Dst) (E : LaneSet) (f : Nat → DWord) : Wave :=
  writeWord (writeWord w d.nw d.r 0 E fun l => loWord (f l)) d.nw d.r 1 E fun l => hiWord (f l)

/-- Write a predicate result; NW leaves it unwritten (log entry 10). -/
def writePred (w : Wave) (d : PDst) (E : LaneSet) (f : Nat → Bool) : Wave := if d.nw then w else w.pput d.p E f

/-- Write words of a variable-latency result for one lane; a uniform destination takes the lowest lane of the
instruction (R255), which `first` names. -/
def putLane (w : Wave) (d : DReg) (lane first : Nat) : Nat → List Word → Wave
  | _, [] => w
  | k, x :: xs =>
    match d with
    | .v n => putLane (w.vput (n.toNat + k) ((1 : LaneSet) <<< lane) fun _ => x) d lane first (k + 1) xs
    | .w n => if lane = first then putLane (w.wput (n.toNat + k) x) d lane first (k + 1) xs else w
    | .zero => w

/-- The lowest lane of a set, 32 when it is empty. -/
def firstLane (E : LaneSet) : Nat := (lowLane E).getD 32

end Sys2Proof.Machine
end

