-- ==== Sys2Proof/Machine/Names.lean ====
section
/-! DEFINITION. The registers and latches that each instruction names, in the order of its fields: what the checks of
R52, R251 and R259 and the register banks of R198 see. -/

namespace Sys2Proof.Machine

/-- A gid operand. -/
def useGid : GidSrc → Use
  | .imm _ => { regs := [], lats := [] }
  | .w n => useW 1 n

/-- Registers of the expected operand of an atomic (R333). -/
def atomRegs (aop : Aop) (ty : Ty) : Nat :=
  match aop with
  | .cas => 2 * tyRegs ty
  | _ => tyRegs ty

/-- What an instruction of a wave names. -/
def useOf (i : Instr) : Use :=
  match i with
  | .iadd _ d a b _ _ | .isub _ d a b _ _ => uses [useReg 1 d.r, useSrc 1 a, useSrc 1 b]
  | .iaddImm _ d a _ _ _ => uses [useReg 1 d.r, useSrc 1 a]
  | .imad _ d a b c wide _ => uses [useReg (wRegs wide) d.r, useSrc 1 a, useSrc 1 b, useSrc (wRegs wide) c]
  | .imadImm _ d a _ _ => uses [useReg 1 d.r, useSrc 1 a]
  | .imulh _ d a b _ => uses [useReg 1 d.r, useSrc 1 a, useSrc 1 b]
  | .iadd64 _ d a b => uses [useReg 2 d.r, useSrc 2 a, useSrc 2 b]
  | .iadd64Imm _ d a _ => uses [useReg 2 d.r, useSrc 2 a]
  | .lea _ d a b _ _ => uses [useReg 2 d.r, useSrc 2 a, useSrc 1 b]
  | .leaImm _ d a _ _ _ => uses [useReg 2 d.r, useSrc 2 a]
  | .imin _ d a b ty | .imax _ d a b ty =>
    uses [useReg (tyRegs ty) d.r, useSrc (tyRegs ty) a, useSrc (tyRegs ty) b]
  | .iminImm _ d a _ ty | .imaxImm _ d a _ ty => uses [useReg (tyRegs ty) d.r, useSrc (tyRegs ty) a]
  | .iabs _ d a _ ty => uses [useReg (tyRegs ty) d.r, useSrc (tyRegs ty) a]
  | .isetp _ pd a b pc _ _ ty => uses [usePred pd.p, useSrc (tyRegs ty) a, useSrc (tyRegs ty) b, usePred pc]
  | .isetpImm _ pd a _ _ ty => uses [usePred pd.p, useSrc (tyRegs ty) a]
  | .isel _ d a b _ pr ty => uses [useReg (tyRegs ty) d.r, useSrc (tyRegs ty) a, useSrc (tyRegs ty) b, usePred pr]
  | .iselImm _ d a _ _ pr ty => uses [useReg (tyRegs ty) d.r, useSrc (tyRegs ty) a, usePred pr]
  | .shl _ d a b ty | .shr _ d a b ty | .sar _ d a b ty | .rot _ d a b _ ty =>
    uses [useReg (tyRegs ty) d.r, useSrc (tyRegs ty) a, useSrc 1 b]
  | .shlImm _ d a _ ty | .shrImm _ d a _ ty | .sarImm _ d a _ ty => uses [useReg (tyRegs ty) d.r, useSrc (tyRegs ty) a]
  | .bool3 _ d a b c w64 _ =>
    uses [useReg (wRegs w64) d.r, useSrc (wRegs w64) a, useSrc (wRegs w64) b, useSrc (wRegs w64) c]
  | .bool3Imm _ d a _ _ => uses [useReg 1 d.r, useSrc 1 a]
  | .popc _ d a ty | .clz _ d a ty => uses [useReg 1 d.r, useSrc (tyRegs ty) a]
  | .brev _ d a ty => uses [useReg (tyRegs ty) d.r, useSrc (tyRegs ty) a]
  | .bfe _ d a b _ => uses [useReg 1 d.r, useSrc 1 a, useSrc 1 b]
  | .bfi _ d a b c | .bsel _ d a b c => uses [useReg 1 d.r, useSrc 1 a, useSrc 1 b, useSrc 1 c]
  | .mov _ d a ty => uses [useReg (tyRegs ty) d.r, useSrc (tyRegs ty) a]
  | .movi _ d _ ty => uses [useReg (tyRegs ty) d.r]
  | .movw _ d a _ => uses [useReg 1 d.r, useSrc 1 a]
  | .shfl _ d a b m _ => uses [useReg 1 d.r, useSrc 1 a, useSrc 1 b]
  | .vote _ pd pa m _ => uses [usePred pd.p, usePred pa]
  | .ballot _ d pa m => uses [useReg 1 d.r, usePred pa]
  | .matchv _ d a m _ ty => uses [useReg 1 d.r, useSrc (tyRegs ty) a]
  | .redux _ d a m _ _ => uses [useReg 1 d.r, useSrc 1 a]
  | .s2v _ d wa => uses [useReg 1 d.r, useW 32 wa]
  | .psetp _ pd a b pc _ _ ty => uses [usePred pd.p, useSrc (tyRegs ty) a, useSrc (tyRegs ty) b, usePred pc]
  | .plop _ pd pa pb pc _ => uses [usePred pd.p, usePred pa, usePred pb, usePred pc]
  | .fadd _ d a b _ _ | .fmul _ d a b _ _ | .fmin _ d a b _ _ _ _ | .fmax _ d a b _ _ _ _ | .hadd2 _ d a b _ _ =>
    uses [useReg 1 d.r, useSrc 1 a, useSrc 1 b]
  | .ffma _ d a b c _ _ | .hfma2 _ d a b c _ _ | .dot4 _ d a b c _ _ | .dot2 _ d a b c _ _ =>
    uses [useReg 1 d.r, useSrc 1 a, useSrc 1 b, useSrc 1 c]
  | .fsetp _ pd a b pc _ _ _ _ => uses [usePred pd.p, useSrc 1 a, useSrc 1 b, usePred pc]
  | .fclass _ d a ty => uses [useReg 1 d.r, useSrc (tyRegs ty) a]
  | .frcp _ d a _ _ | .fsqrt _ d a _ _ => uses [useReg 1 d, useSrc 1 a]
  | .frsq _ d a _ | .fex2 _ d a _ | .flg2 _ d a _ | .fsin _ d a _ | .fcos _ d a _ => uses [useReg 1 d, useSrc 1 a]
  | .faddImm _ d a _ _ _ _ _ | .fmulImm _ d a _ _ _ _ _ | .ffmaImm _ d a _ _ _ _ _ => uses [useReg 1 d.r, useSrc 1 a]
  | .dadd _ d a b _ _ _ | .dmul _ d a b _ _ _ => uses [useReg 2 d.r, useSrc 2 a, useSrc 2 b]
  | .dfma _ d a b c _ _ _ => uses [useReg 2 d.r, useSrc 2 a, useSrc 2 b, useSrc 2 c]
  | .dsetp _ pd a b pc _ _ => uses [usePred pd.p, useSrc 2 a, useSrc 2 b, usePred pc]
  | .cvt _ d a _ _ _ sty ty => uses [useReg (tyRegs ty) d.r, useSrc (tyRegs sty) a]
  | .cvtn _ d a _ _ _ _ _ | .cvtw _ d a _ _ _ _ => uses [useReg 1 d.r, useSrc 1 a]
  | .cvtef _ d a r _ _ _ => uses [useReg 1 d.r, useSrc 1 a, useSrc 1 (.v r)]
  | .pack _ d a b _ _ _ => uses [useReg 1 d.r, useSrc 1 a, useSrc 1 b]
  | .unpack _ d a _ _ => uses [useReg 2 d.r, useSrc 1 a]
  | .bscale _ d a b _ mode =>
    match mode with
    | .derive => uses [useReg 1 d.r, useSrc 1 a]
    | _ => uses [useReg 1 d.r, useSrc 1 a, useSrc 1 b]
  | .ld _ d a _ _ mt => uses [useReg (memRegs mt) d, useSrc 2 a]
  | .st _ a _ b _ mt => uses [useSrc 2 a, useSrc (memRegs mt) b]
  | .ldl _ d a _ mt => uses [useReg (memRegs mt) d, useSrc 1 a]
  | .stl _ a _ b mt => uses [useSrc 1 a, useSrc (memRegs mt) b]
  | .ldw _ d a _ _ ty => uses [useW (tyRegs ty) d, useW 2 a]
  | .pref _ a _ _ | .cctlL1drop _ a _ _ | .cctlWb _ a _ _ => uses [useSrc 2 a]
  | .cctlUse _ a _ b _ => uses [useSrc 2 a, useSrc 1 b]
  | .atom _ d a _ b _ aop ty => uses [useReg (tyRegs ty) d, useSrc 2 a, useSrc (atomRegs aop ty) b]
  | .atomLocal _ d a _ b aop ty => uses [useReg (tyRegs ty) d, useSrc 1 a, useSrc (atomRegs aop ty) b]
  | .acc _ a _ b _ _ ty => uses [useSrc 2 a, useSrc (tyRegs ty) b]
  | .mwait _ d a _ b _ _ ty => uses [useReg (tyRegs ty) d, useSrc 2 a, useSrc (tyRegs ty) b]
  | .gnewg _ pd d a => uses [useReg 2 d, useSrc 2 a, usePred pd]
  | .gnewv _ pd d g a => uses [useReg 2 d, useSrc 1 a, useGid g, usePred pd]
  | .gfreev _ pd d g a => uses [useReg 1 d, useSrc 1 a, useGid g, usePred pd]
  | .gadd _ pd d g a b c =>
    uses [useReg 2 d, useSrc 1 a, useSrc 1 b, (match c with
      | none => { regs := [], lats := [] }
      | some x => useSrc 2 x), useGid g, usePred pd]
  | .gdel _ pd d g a b _ _ => uses [useReg 2 d, useSrc 1 a, useSrc 1 b, useGid g, usePred pd]
  | .gswap _ pd d g a b c _ | .gswapShared _ pd d g a b c _ =>
    uses [useReg 2 d, useSrc 1 a, useSrc 1 b, useSrc 1 c, useGid g, usePred pd]
  | .glde _ pd d g a b _ => uses [useReg 4 d, useSrc 1 a, useSrc 1 b, useGid g, usePred pd]
  | .gdeg _ pd d g a _ => uses [useReg 2 d, useSrc 1 a, useGid g, usePred pd]
  | .gldv _ pd d g a sz _ => uses [useReg (if sz then 8 else 4) d, useSrc 1 a, useGid g, usePred pd]
  | .gstv _ pd d g a b sz _ => uses [useReg 1 d, useSrc 1 a, useSrc (if sz then 4 else 2) b, useGid g, usePred pd]
  | .gopen _ pd d g a _ cur => uses [useReg 2 d, useSrc 1 a, useGid g, usePred pd, useCur cur]
  | .gnext _ pd d cur => uses [useReg 4 d, usePred pd, useCur cur]
  | .gseek _ pd d b cur => uses [useReg 4 d, useSrc 1 b, usePred pd, useCur cur]
  | .gclose _ pd d cur => uses [useReg 2 d, usePred pd, useCur cur]
  | .gwaitlow _ pd d g a => uses [useReg 1 d, useSrc 2 a, useGid g, usePred pd]
  | .cpy _ a b _ _ _ _ dir _ =>
    match dir with
    | .g2l => uses [useSrc 2 a, useSrc 1 b]
    | .l2g => uses [useSrc 1 a, useSrc 2 b]
    | .g2g => uses [useSrc 2 a, useSrc 2 b]
    | .l2l => uses [useSrc 1 a, useSrc 1 b]
  | .ggath _ d g a b c _ loc _ => uses [useW 1 d, useSrc 1 a, useSrc 1 b, useSrc (if loc then 1 else 2) c, useGid g]
  | .hwaitFull _ d _ => uses [useReg 1 d]
  | .mstart _ a b _ _ => uses [useSrc 2 a, useSrc 1 b]
  | .brx _ a => uses [useSrc 2 a]
  | .conv _ _ => uses []
  | .rdsys _ d _ | .rdts _ d | .rdclk _ d => uses [useReg 2 d]
  | .wrsys _ _ a => uses [useSrc 2 a]
  | _ => uses []

/-- Guard and hints of an instruction of a wave. -/
def hdrOf : Instr → Option Hdr
  | .iadd hd .. | .iaddImm hd .. | .isub hd .. | .imad hd .. | .imadImm hd .. | .imulh hd .. | .iadd64 hd ..
  | .iadd64Imm hd .. | .lea hd .. | .leaImm hd .. | .imin hd .. | .imax hd .. | .iminImm hd .. | .imaxImm hd ..
  | .iabs hd .. | .isetp hd .. | .isetpImm hd .. | .isel hd .. | .iselImm hd .. | .shl hd .. | .shr hd ..
  | .sar hd .. | .shlImm hd .. | .shrImm hd .. | .sarImm hd .. | .rot hd .. | .bool3 hd .. | .bool3Imm hd ..
  | .popc hd .. | .clz hd .. | .brev hd .. | .bfe hd .. | .bfi hd .. | .bsel hd .. | .mov hd .. | .movi hd ..
  | .movw hd .. | .shfl hd .. | .vote hd .. | .ballot hd .. | .matchv hd .. | .redux hd .. | .s2v hd ..
  | .psetp hd .. | .plop hd .. | .fadd hd .. | .fmul hd .. | .ffma hd .. | .fmin hd .. | .fmax hd ..
  | .fsetp hd .. | .fclass hd .. | .frcp hd .. | .frsq hd .. | .fsqrt hd .. | .fex2 hd .. | .flg2 hd ..
  | .fsin hd .. | .fcos hd .. | .hadd2 hd .. | .hfma2 hd .. | .dot4 hd .. | .dot2 hd .. | .faddImm hd ..
  | .fmulImm hd .. | .ffmaImm hd .. | .dadd hd .. | .dmul hd .. | .dfma hd .. | .dsetp hd .. | .cvt hd ..
  | .cvtn hd .. | .cvtef hd .. | .cvtw hd .. | .pack hd .. | .unpack hd .. | .bscale hd .. | .ld hd ..
  | .st hd .. | .ldl hd .. | .stl hd .. | .ldw hd .. | .pref hd .. | .cctlUse hd .. | .cctlL1drop hd ..
  | .cctlWb hd .. | .atom hd .. | .atomLocal hd .. | .acc hd .. | .flushres hd .. | .fence hd .. | .bar hd ..
  | .gbar hd .. | .mwait hd .. | .claim hd .. | .release hd .. | .nap hd .. | .gnewg hd .. | .gnewv hd ..
  | .gfreev hd .. | .gadd hd .. | .gdel hd .. | .gswap hd .. | .gswapShared hd .. | .glde hd .. | .gdeg hd ..
  | .gldv hd .. | .gstv hd .. | .gopen hd .. | .gnext hd .. | .gseek hd .. | .gclose hd .. | .gwaitlow hd ..
  | .cpy hd .. | .ggath hd .. | .waitc hd .. | .hwaitFull hd .. | .hwaitFree hd .. | .hrel hd .. | .mstart hd ..
  | .mstop hd .. | .bra hd .. | .brx hd .. | .call hd .. | .ret hd .. | .exit hd | .conv hd .. | .yield hd
  | .nop hd | .bkpt hd .. | .trap hd .. | .eret hd .. | .rdsys hd .. | .wrsys hd .. | .rdts hd .. | .rdclk hd ..
  | .setprio hd .. => some hd
  | _ => none

end Sys2Proof.Machine
end

