-- ==== Sys2Proof/Machine/Float.lean ====
section
/-! DEFINITION. Floating-point values, rounding and the arithmetic of spec/11 and spec/14. A finite value is an
exact dyadic number; an operation forms its exact result and rounds once (R229, R230). -/

namespace Sys2Proof.Machine

/-- A floating format: exponent and fraction widths (Table 11-1). -/
structure FFmt where
  eb : Nat
  fb : Nat
  deriving DecidableEq, Repr

/-- binary64. -/
def f64 : FFmt := ⟨11, 52⟩
/-- binary32. -/
def f32 : FFmt := ⟨8, 23⟩
/-- binary16. -/
def f16 : FFmt := ⟨5, 10⟩
/-- bfloat16. -/
def bf16 : FFmt := ⟨8, 7⟩

/-- The format of a floating type, packed types by their elements. -/
def fmtOf : Ty → FFmt
  | .f64 => f64
  | .f16 | .f16x2 => f16
  | .bf16 | .bf16x2 => bf16
  | _ => f32

/-- Exponent bias (Table 11-1). -/
def FFmt.bias (f : FFmt) : Nat := 2 ^ (f.eb - 1) - 1
/-- Width in bits. -/
def FFmt.width (f : FFmt) : Nat := f.eb + f.fb + 1
/-- Exponent of the smallest normal value. -/
def FFmt.emin (f : FFmt) : Int := 1 - (f.bias : Int)
/-- The bits of infinity without its sign. -/
def FFmt.infBits (f : FFmt) : Nat := (2 ^ f.eb - 1) * 2 ^ f.fb
/-- The canonical NaN (R226). -/
def FFmt.nanBits (f : FFmt) : Nat := f.infBits + 2 ^ (f.fb - 1)
/-- The largest finite value without its sign. -/
def FFmt.maxBits (f : FFmt) : Nat := f.infBits - 1
/-- The sign bit's weight. -/
def FFmt.signBit (f : FFmt) : Nat := 2 ^ (f.eb + f.fb)

/-- The flags of FSTATUS in the order of Table 11-5: NV, DZ, OF, UF, NX. -/
abbrev Flags := BitVec 5
/-- Invalid operation. -/
def flNV : Flags := 16
/-- Divide by zero. -/
def flDZ : Flags := 8
/-- Overflow. -/
def flOF : Flags := 4
/-- Underflow. -/
def flUF : Flags := 2
/-- Inexact. -/
def flNX : Flags := 1

/-- A floating value: a NaN, an infinity, or plus or minus m times 2^e. -/
inductive FVal where
  | nan (signalling : Bool)
  | inf (neg : Bool)
  | fin (neg : Bool) (m : Nat) (e : Int)
  deriving DecidableEq, Repr

/-- A result: its bits and the flags it raises. -/
structure FRes where
  bits : Nat
  fl : Flags
  deriving DecidableEq, Repr

/-- The sign of a value. -/
def FVal.neg? : FVal → Bool
  | .nan _ => false
  | .inf n => n
  | .fin n _ _ => n

/-- The value with its sign flipped when asked (R303). -/
def FVal.flip (b : Bool) : FVal → FVal
  | .nan s => .nan s
  | .inf n => .inf (n != b)
  | .fin n m e => .fin (n != b) m e

/-- A NaN. -/
def FVal.isNan : FVal → Bool
  | .nan _ => true
  | _ => false
/-- A signalling NaN. -/
def FVal.isSnan : FVal → Bool
  | .nan s => s
  | _ => false
/-- An infinity. -/
def FVal.isInf : FVal → Bool
  | .inf _ => true
  | _ => false
/-- A zero. -/
def FVal.isZero : FVal → Bool
  | .fin _ 0 _ => true
  | _ => false

/-- The value of a code (R224). With ftz, a subnormal reads as the zero of its sign (R231). -/
def FFmt.decode (f : FFmt) (ftz : Bool) (x : Nat) : FVal :=
  let neg := x / f.signBit % 2 == 1
  let e := x / 2 ^ f.fb % 2 ^ f.eb
  let m := x % 2 ^ f.fb
  if e = 2 ^ f.eb - 1 then (if m = 0 then .inf neg else .nan (m < 2 ^ (f.fb - 1)))
  else if e = 0 then .fin neg (if ftz then 0 else m) (f.emin - f.fb)
  else .fin neg (m + 2 ^ f.fb) ((e : Int) - f.bias - f.fb)

/-- Put a sign on bits without one. -/
def FFmt.sign (f : FFmt) (neg : Bool) (x : Nat) : Nat := if neg then f.signBit + x else x

/-- m times 2^sh rounded to an integer under a mode, for a value of the given sign; and whether it is inexact. -/
def roundShift (rm : Rm) (neg : Bool) (m : Nat) (sh : Int) : Nat × Bool :=
  if 0 ≤ sh then (m <<< sh.toNat, false)
  else
    let n := (-sh).toNat
    let q := m >>> n
    let r := m - q <<< n
    let half := 1 <<< (n - 1)
    let up := match rm with
      | .rn => half < r || (r == half && q % 2 == 1)
      | .rz => false
      | .rd => neg && r != 0
      | .ru => !neg && r != 0
    (if up then q + 1 else q, r != 0)

/-- The result of R229 for a magnitude past the largest finite value. -/
def FFmt.overflow (f : FFmt) (rm : Rm) (neg : Bool) : FRes :=
  let toInf := match rm with
    | .rn => true
    | .rz => false
    | .rd => neg
    | .ru => !neg
  ⟨f.sign neg (if toInf then f.infBits else f.maxBits), flOF ||| flNX⟩

/-- Round the exact value, of sign neg and magnitude m times 2^e, into the format (R229, R230, R231). -/
def FFmt.round (f : FFmt) (rm : Rm) (ftz neg : Bool) (m : Nat) (e : Int) : FRes :=
  if m = 0 then ⟨f.sign neg 0, 0⟩
  else
    let top : Int := e + m.log2
    let q := top - f.fb
    let (r, inexact) := roundShift rm neg m (e - q)
    let tiny := q < f.emin - f.fb && r < (2 ^ (f.emin - f.fb - q).toNat) * 2 ^ f.fb
    if tiny then
      if ftz then ⟨f.sign neg 0, flUF ||| flNX⟩
      else
        let (r', inexact') := roundShift rm neg m (e - (f.emin - f.fb))
        ⟨f.sign neg r', if inexact' then flUF ||| flNX else 0⟩
    else
      let bits := (q + f.fb + f.bias).toNat * 2 ^ f.fb + r - 2 ^ f.fb
      if f.infBits ≤ bits then f.overflow rm neg
      else ⟨f.sign neg bits, if inexact then flNX else 0⟩

/-- A canonical NaN with the invalid flag when asked. -/
def FFmt.nanRes (f : FFmt) (nv : Bool) : FRes := ⟨f.nanBits, if nv then flNV else 0⟩

/-- The sign of an exact zero sum: two zeros of one sign keep it, else minus under .rd alone (R229). -/
def zeroSign (rm : Rm) (allNeg allPos : Bool) : Bool := allNeg || (!allPos && rm == .rd)

/-- A signed dyadic number as an integer over 2^e. -/
def dyInt (neg : Bool) (m : Nat) (e lo : Int) : Int :=
  let v : Int := ((m <<< (e - lo).toNat : Nat) : Int)
  if neg then -v else v

/-- The exact sum of finite terms, as an integer over the least exponent among them. -/
def sumDy (ts : List (Bool × Nat × Int)) : Int × Int :=
  let lo := ts.foldl (fun acc t => min acc t.2.2) (ts.headD (false, 0, 0)).2.2
  (ts.foldl (fun acc t => acc + dyInt t.1 t.2.1 t.2.2 lo) 0, lo)

/-- The sum of two values, rounded once (R306). -/
def FFmt.add (f : FFmt) (rm : Rm) (ftz : Bool) (a b : FVal) : FRes :=
  match a, b with
  | .nan s, y => f.nanRes (s || y.isSnan)
  | x, .nan s => f.nanRes (s || x.isSnan)
  | .inf n, .inf n' => if n = n' then ⟨f.sign n f.infBits, 0⟩ else f.nanRes true
  | .inf n, .fin .. => ⟨f.sign n f.infBits, 0⟩
  | .fin .., .inf n => ⟨f.sign n f.infBits, 0⟩
  | .fin n m e, .fin n' m' e' =>
    let (v, lo) := sumDy [(n, m, e), (n', m', e')]
    if v = 0 then ⟨f.sign (zeroSign rm (m == 0 && m' == 0 && n && n') (m == 0 && m' == 0 && !n && !n')) 0, 0⟩
    else f.round rm ftz (v < 0) v.natAbs lo

/-- The exact product of two values; none when it is a NaN, with whether that NaN is invalid. -/
def mulVal (a b : FVal) : Except Bool FVal :=
  match a, b with
  | .nan s, y => .error (s || y.isSnan)
  | x, .nan s => .error (s || x.isSnan)
  | .inf n, .inf n' => .ok (.inf (n != n'))
  | .inf n, .fin n' m _ => if m = 0 then .error true else .ok (.inf (n != n'))
  | .fin n m _, .inf n' => if m = 0 then .error true else .ok (.inf (n != n'))
  | .fin n m e, .fin n' m' e' => .ok (.fin (n != n') (m * m') (e + e'))

/-- The product of two values, rounded once (R306). -/
def FFmt.mul (f : FFmt) (rm : Rm) (ftz : Bool) (a b : FVal) : FRes :=
  match mulVal a b with
  | .error nv => f.nanRes nv
  | .ok (.inf n) => ⟨f.sign n f.infBits, 0⟩
  | .ok (.nan s) => f.nanRes s
  | .ok (.fin n m e) => f.round rm ftz n m e

/-- The fused product and sum, rounded once; 0 times infinity is invalid whatever the addend (R306). -/
def FFmt.fma (f : FFmt) (rm : Rm) (ftz : Bool) (a b c : FVal) : FRes :=
  match mulVal a b with
  | .error nv => f.nanRes (nv || c.isSnan)
  | .ok p => f.add rm ftz p c

/-- Signed order of two values that are no NaN, with minus zero below plus zero (R307). -/
def ltZ (a b : FVal) : Bool :=
  match a, b with
  | .nan _, _ | _, .nan _ => false
  | .inf n, .inf n' => n && !n'
  | .inf n, .fin .. => n
  | .fin .., .inf n => !n
  | .fin n m e, .fin n' m' e' =>
    if m = 0 && m' = 0 then n && !n'
    else
      let lo := min e e'
      dyInt n m e lo < dyInt n' m' e' lo

/-- Equality of two values that are no NaN; minus zero equals plus zero (R308). -/
def eqZ (a b : FVal) : Bool :=
  match a, b with
  | .nan _, _ | _, .nan _ => false
  | .inf n, .inf n' => n == n'
  | .fin n m e, .fin n' m' e' => let lo := min e e'; dyInt n m e lo == dyInt n' m' e' lo
  | _, _ => false

/-- The bits of an operand after the flush of .ftz and a sign flip (R303, R307). -/
def FFmt.prep (f : FFmt) (ftz flip : Bool) (x : Nat) : Nat :=
  let x := x % 2 ^ f.width
  let x := if ftz && x / 2 ^ f.fb % 2 ^ f.eb == 0 then x / f.signBit * f.signBit else x
  if flip then (if x < f.signBit then x + f.signBit else x - f.signBit) else x

/-- FMIN or FMAX of two codes after their preparation (R307). -/
def FFmt.minmax (f : FFmt) (isMax : Bool) (x y : Nat) : FRes :=
  let a := f.decode false x
  let b := f.decode false y
  let fl : Flags := if a.isSnan || b.isSnan then flNV else 0
  if a.isNan then (if b.isNan then ⟨f.nanBits, fl⟩ else ⟨y, fl⟩)
  else if b.isNan then ⟨x, fl⟩
  else if isMax then ⟨if ltZ a b then y else x, fl⟩
  else ⟨if ltZ b a then y else x, fl⟩

/-- A floating compare: its outcome and flags (Table 14-3). -/
def fcmp (c : FCmp) (a b : FVal) : Bool × Flags :=
  let un := a.isNan || b.isNan
  let lt := !un && !eqZ a b && ltZ a b
  let gt := !un && !eqZ a b && ltZ b a
  let eq := !un && eqZ a b
  let loud := match c with
    | .lt | .le | .gt | .ge => true
    | _ => false
  let t := match c with
    | .eq => eq
    | .ne => !un && !eq
    | .lt => lt
    | .le => lt || eq
    | .gt => gt
    | .ge => gt || eq
    | .num => !un
    | .nan => un
    | .equ => un || eq
    | .neu => un || !eq
    | .ltu => un || lt
    | .leu => un || lt || eq
    | .gtu => un || gt
    | .geu => un || gt || eq
  (t, if a.isSnan || b.isSnan || (loud && un) then flNV else 0)

/-- FCLASS: the number of the class bit (R309). -/
def FFmt.classBit (f : FFmt) (x : Nat) : Nat :=
  let sub := x / 2 ^ f.fb % 2 ^ f.eb == 0
  match f.decode false x with
  | .nan s => if s then 0 else 1
  | .inf n => if n then 2 else 9
  | .fin n m _ =>
    if m = 0 then (if n then 5 else 6)
    else if sub then (if n then 4 else 7) else (if n then 3 else 8)

/-- A conversion between floating formats (R315). -/
def FFmt.ofVal (f : FFmt) (rm : Rm) (ftz : Bool) (a : FVal) : FRes :=
  match a with
  | .nan s => f.nanRes s
  | .inf n => ⟨f.sign n f.infBits, 0⟩
  | .fin n m e => f.round rm ftz n m e

/-- A conversion to an integer type of n bits (Table 11-3). -/
def cvtToInt (signed : Bool) (n : Nat) (rm : Rm) (a : FVal) : Int × Flags :=
  match a with
  | .nan _ => (0, flNV)
  | .inf neg => (if neg then minOf signed n else maxOf signed n, flNV)
  | .fin neg m e =>
    let (r, inexact) := roundShift rm neg m e
    let v : Int := if neg then -(r : Int) else r
    if v < minOf signed n then (minOf signed n, flNV)
    else if maxOf signed n < v then (maxOf signed n, flNV)
    else (v, if inexact then flNX else 0)

/-- A conversion of an integer value (R315). -/
def FFmt.ofInt (f : FFmt) (rm : Rm) (v : Int) : FRes := f.round rm false (v < 0) v.natAbs 0

/-- The low 16 bits of a packed word's element. -/
def elemOf (x : Nat) (k : Nat) : Nat := x / 2 ^ (16 * k) % 65536

/-- DOT2: the two products and c, rounded once to f32 (R314). -/
def opDot2 (f : FFmt) (rm : Rm) (a b c : Nat) : FRes :=
  let av k := f.decode false (elemOf a k)
  let bv k := f.decode false (elemOf b k)
  let cv := f32.decode false c
  let ops := [av 0, bv 0, av 1, bv 1, cv]
  let snan := ops.any FVal.isSnan
  let p0 := mulVal (av 0) (bv 0)
  let p1 := mulVal (av 1) (bv 1)
  let bad : Except Bool FVal → Bool := fun p => match p with
    | .error nv => nv
    | .ok _ => false
  let terms := [p0, p1, .ok cv].filterMap fun p => match p with
    | .ok v => some v
    | .error _ => none
  let pinf := terms.contains (.inf false)
  let ninf := terms.contains (.inf true)
  let nv := snan || bad p0 || bad p1 || (pinf && ninf)
  if nv || ops.any FVal.isNan || terms.length < 3 then f32.nanRes nv
  else if pinf then ⟨f32.infBits, 0⟩
  else if ninf then ⟨f32.sign true f32.infBits, 0⟩
  else
    let ds := terms.filterMap fun v => match v with
      | .fin n m e => some (n, m, e)
      | _ => none
    let (v, lo) := sumDy ds
    if v = 0 then
      let zs := ds.all fun t => t.2.1 == 0
      ⟨f32.sign (zeroSign rm (zs && ds.all fun t => t.1) (zs && ds.all fun t => !t.1)) 0, 0⟩
    else f32.round rm false (v < 0) v.natAbs lo

end Sys2Proof.Machine
end

