-- ==== Sys2Proof/Machine/Flags.lean ====
section
/-! DEFINITION. The flags of FSTATUS (R233, R234), and the shared shape of fixed-latency instructions: a result and the
flags of each lane of E, written with the latch shift (R273). -/

namespace Sys2Proof.Machine

/-- The flags that the lanes of E raise. -/
def joinFlags (E : LaneSet) (f : Nat → Flags) : Flags := (lanesOf E).foldl (fun x l => x ||| f l) 0

/-- Raise flags: they are sticky (R233). -/
def Wave.raise (w : Wave) (fl : Flags) : Wave := { w with fstatus := w.fstatus ||| fl }

/-- A fixed-latency instruction with one 32-bit result and no flags. -/
def alu (s : State) (hd : Hdr) (u : Use) (d : Dst) (f : Wave → Nat → Word) : State :=
  issue s hd u fun c => finishNext s c hd (writeDst c.w d c.E (f c.w))

/-- A fixed-latency instruction with a 64-bit result in a pair. -/
def alu2 (s : State) (hd : Hdr) (u : Use) (d : Dst) (f : Wave → Nat → DWord) : State :=
  issue s hd u fun c => finishNext s c hd (writeDst2 c.w d c.E (f c.w))

/-- A fixed-latency instruction of the width that its type gives. -/
def aluW (s : State) (hd : Hdr) (u : Use) (wide : Bool) (d : Dst) (f : Wave → Nat → DWord) : State :=
  if wide then alu2 s hd u d f else alu s hd u d fun w l => loWord (f w l)

/-- A fixed-latency instruction with a predicate result (which shifts no latch). -/
def setPred (s : State) (hd : Hdr) (u : Use) (d : PDst) (f : Wave → Nat → Bool) : State :=
  issue s hd u fun c => finishNext s c hd (writePred c.w d c.E (f c.w))

/-- A floating instruction with one 32-bit result and flags. -/
def falu (s : State) (hd : Hdr) (u : Use) (d : Dst) (f : Wave → Nat → FRes) : State :=
  issue s hd u fun c =>
    finishNext s c hd
      ((writeDst c.w d c.E fun l => BitVec.ofNat 32 (f c.w l).bits).raise (joinFlags c.E fun l => (f c.w l).fl))

/-- A floating instruction with a 64-bit result and flags. -/
def falu2 (s : State) (hd : Hdr) (u : Use) (d : Dst) (f : Wave → Nat → FRes) : State :=
  issue s hd u fun c =>
    finishNext s c hd
      ((writeDst2 c.w d c.E fun l => BitVec.ofNat 64 (f c.w l).bits).raise (joinFlags c.E fun l => (f c.w l).fl))

/-- A floating instruction of the width of its type. -/
def faluW (s : State) (hd : Hdr) (u : Use) (wide : Bool) (d : Dst) (f : Wave → Nat → FRes) : State :=
  if wide then falu2 s hd u d f else falu s hd u d f

/-- A floating compare: a predicate result and flags. -/
def fset (s : State) (hd : Hdr) (u : Use) (d : PDst) (f : Wave → Nat → Bool × Flags) : State :=
  issue s hd u fun c =>
    finishNext s c hd ((writePred c.w d c.E fun l => (f c.w l).1).raise (joinFlags c.E fun l => (f c.w l).2))

end Sys2Proof.Machine
end

