-- ==== Sys2Proof/Machine/IntArith.lean ====
section
/-! DEFINITION. The meanings of integer and address arithmetic, compares and selects, shifts, logic and bit fields
(spec/13: R275 to R286). -/

namespace Sys2Proof.Machine

/-- An FI immediate of a 64-bit operation: sign-extended for i64 and b64, zero-extended for n64 (R275). -/
def imm64 (ty : Ty) (x : Word) : DWord := if ty = .n64 then x.setWidth 64 else x.signExtend 64

/-- An immediate of the width of its type. -/
def immW (ty : Ty) (x : Word) : DWord := if ty.is64 then imm64 ty x else x.setWidth 64

/-- IMIN and IMAX at the width of the type (R279). -/
def minW (ty : Ty) (a b : DWord) : DWord := if ty.is64 then opMin64 ty a b else (opMin32 ty (loWord a) (loWord b)).setWidth 64
def maxW (ty : Ty) (a b : DWord) : DWord := if ty.is64 then opMax64 ty a b else (opMax32 ty (loWord a) (loWord b)).setWidth 64

/-- A shift or a unary operation at the width of the type. -/
def atWidth (wide : Bool) (f64 : DWord → DWord) (f32 : Word → Word) (a : DWord) : DWord :=
  if wide then f64 a else (f32 (loWord a)).setWidth 64

/-- IADD (R276). -/
def execIadd (hd : Hdr) (d : Dst) (a b : Src) (sat : Bool) (ty : Ty) (s : State) : Out :=
  .next (alu s hd (useOf (.iadd hd d a b sat ty)) d fun w l => opIadd sat ty (rd32 s w l a) (rd32 s w l b))

/-- IADD, immediate (R275, R276). -/
def execIaddImm (hd : Hdr) (d : Dst) (a : Src) (imm : Word) (sat : Bool) (ty : Ty) (s : State) : Out :=
  .next (alu s hd (useOf (.iaddImm hd d a imm sat ty)) d fun w l => opIadd sat ty (rd32 s w l a) imm)

/-- ISUB (R276). -/
def execIsub (hd : Hdr) (d : Dst) (a b : Src) (sat : Bool) (ty : Ty) (s : State) : Out :=
  .next (alu s hd (useOf (.isub hd d a b sat ty)) d fun w l => opIsub sat ty (rd32 s w l a) (rd32 s w l b))

/-- IMAD: a 32-bit result, or with WIDE a pair (R277). -/
def execImad (hd : Hdr) (d : Dst) (a b c : Src) (wide : Bool) (ty : Ty) (s : State) : Out :=
  .next (aluW s hd (useOf (.imad hd d a b c wide ty)) wide d fun w l =>
    if wide then opImadWide ty (rd32 s w l a) (rd32 s w l b) (rd64 s w l c)
    else (opImad (rd32 s w l a) (rd32 s w l b) (rd32 s w l c)).setWidth 64)

/-- What D holds before an instruction: the addend of the immediate IMAD and FFMA (R277, R305). -/
def dOld (w : Wave) (l : Nat) : DReg → Word
  | .v n => w.vget n.toNat l
  | .w n => w.wget n.toNat
  | .zero => 0

/-- IMAD, immediate (R277). -/
def execImadImm (hd : Hdr) (d : Dst) (a : Src) (imm : Word) (ty : Ty) (s : State) : Out :=
  .next (alu s hd (useOf (.imadImm hd d a imm ty)) d fun w l => opImad (rd32 s w l a) imm (dOld w l d.r))

/-- IMULH (R277). -/
def execImulh (hd : Hdr) (d : Dst) (a b : Src) (ty : Ty) (s : State) : Out :=
  .next (alu s hd (useOf (.imulh hd d a b ty)) d fun w l => opImulh ty (rd32 s w l a) (rd32 s w l b))

/-- IADD64 (R278). -/
def execIadd64 (hd : Hdr) (d : Dst) (a b : Src) (s : State) : Out :=
  .next (alu2 s hd (useOf (.iadd64 hd d a b)) d fun w l => rd64 s w l a + rd64 s w l b)

/-- IADD64, immediate, which it sign-extends (R275). -/
def execIadd64Imm (hd : Hdr) (d : Dst) (a : Src) (imm : Word) (s : State) : Out :=
  .next (alu2 s hd (useOf (.iadd64Imm hd d a imm)) d fun w l => rd64 s w l a + imm.signExtend 64)

/-- LEA (R278). -/
def execLea (hd : Hdr) (d : Dst) (a b : Src) (sh : BitVec 4) (ty : Ty) (s : State) : Out :=
  .next (alu2 s hd (useOf (.lea hd d a b sh ty)) d fun w l => opLea ty sh.toNat (rd64 s w l a) (rd32 s w l b))

/-- LEA, immediate (R275, R278). -/
def execLeaImm (hd : Hdr) (d : Dst) (a : Src) (imm : Word) (sh : BitVec 4) (ty : Ty) (s : State) : Out :=
  .next (alu2 s hd (useOf (.leaImm hd d a imm sh ty)) d fun w l => opLea ty sh.toNat (rd64 s w l a) imm)

/-- IMIN (R279). -/
def execImin (hd : Hdr) (d : Dst) (a b : Src) (ty : Ty) (s : State) : Out :=
  .next (aluW s hd (useOf (.imin hd d a b ty)) ty.is64 d fun w l => minW ty (rdW s w l ty.is64 a) (rdW s w l ty.is64 b))

/-- IMAX (R279). -/
def execImax (hd : Hdr) (d : Dst) (a b : Src) (ty : Ty) (s : State) : Out :=
  .next (aluW s hd (useOf (.imax hd d a b ty)) ty.is64 d fun w l => maxW ty (rdW s w l ty.is64 a) (rdW s w l ty.is64 b))

/-- IMIN, immediate (R275, R279). -/
def execIminImm (hd : Hdr) (d : Dst) (a : Src) (imm : Word) (ty : Ty) (s : State) : Out :=
  .next (aluW s hd (useOf (.iminImm hd d a imm ty)) ty.is64 d fun w l => minW ty (rdW s w l ty.is64 a) (immW ty imm))

/-- IMAX, immediate (R275, R279). -/
def execImaxImm (hd : Hdr) (d : Dst) (a : Src) (imm : Word) (ty : Ty) (s : State) : Out :=
  .next (aluW s hd (useOf (.imaxImm hd d a imm ty)) ty.is64 d fun w l => maxW ty (rdW s w l ty.is64 a) (immW ty imm))

/-- IABS (R279). -/
def execIabs (hd : Hdr) (d : Dst) (a : Src) (sat : Bool) (ty : Ty) (s : State) : Out :=
  .next (aluW s hd (useOf (.iabs hd d a sat ty)) ty.is64 d fun w l =>
    atWidth ty.is64 (opAbs64 sat) (opAbs32 sat) (rdW s w l ty.is64 a))

/-- ISETP (R280). -/
def execIsetp (hd : Hdr) (pd : PDst) (a b : Src) (pc : Pred) (cmp : Cmp) (bop : Bop) (ty : Ty) (s : State) : Out :=
  .next (setPred s hd (useOf (.isetp hd pd a b pc cmp bop ty)) pd fun w l =>
    combine bop (cmpInt cmp (tyVal ty (rdW s w l ty.is64 a)) (tyVal ty (rdW s w l ty.is64 b))) (w.pbit pc l))

/-- ISETP, immediate (R280). -/
def execIsetpImm (hd : Hdr) (pd : PDst) (a : Src) (imm : Word) (cmp : Cmp) (ty : Ty) (s : State) : Out :=
  .next (setPred s hd (useOf (.isetpImm hd pd a imm cmp ty)) pd fun w l =>
    cmpInt cmp (tyVal ty (rdW s w l ty.is64 a)) (tyVal ty (immW ty imm)))

/-- ISEL (R281). -/
def execIsel (hd : Hdr) (d : Dst) (a b : Src) (pneg : Bool) (pr : Pred) (ty : Ty) (s : State) : Out :=
  .next (aluW s hd (useOf (.isel hd d a b pneg pr ty)) ty.is64 d fun w l =>
    if w.pbit pr l ^^ pneg then rdW s w l ty.is64 a else rdW s w l ty.is64 b)

/-- ISEL, immediate (R275, R281). -/
def execIselImm (hd : Hdr) (d : Dst) (a : Src) (imm : Word) (pneg : Bool) (pr : Pred) (ty : Ty) (s : State) : Out :=
  .next (aluW s hd (useOf (.iselImm hd d a imm pneg pr ty)) ty.is64 d fun w l =>
    if w.pbit pr l ^^ pneg then rdW s w l ty.is64 a else immW ty imm)

/-- SHL (R282). -/
def execShl (hd : Hdr) (d : Dst) (a b : Src) (ty : Ty) (s : State) : Out :=
  .next (aluW s hd (useOf (.shl hd d a b ty)) ty.is64 d fun w l =>
    let n := (rd32 s w l b).toNat
    atWidth ty.is64 (opShl · n) (opShl · n) (rdW s w l ty.is64 a))

/-- SHR (R282). -/
def execShr (hd : Hdr) (d : Dst) (a b : Src) (ty : Ty) (s : State) : Out :=
  .next (aluW s hd (useOf (.shr hd d a b ty)) ty.is64 d fun w l =>
    let n := (rd32 s w l b).toNat
    atWidth ty.is64 (opShr · n) (opShr · n) (rdW s w l ty.is64 a))

/-- SAR (R282). -/
def execSar (hd : Hdr) (d : Dst) (a b : Src) (ty : Ty) (s : State) : Out :=
  .next (aluW s hd (useOf (.sar hd d a b ty)) ty.is64 d fun w l =>
    let n := (rd32 s w l b).toNat
    atWidth ty.is64 (opSar · n) (opSar · n) (rdW s w l ty.is64 a))

/-- SHL, immediate (R282). -/
def execShlImm (hd : Hdr) (d : Dst) (a : Src) (amt : BitVec 6) (ty : Ty) (s : State) : Out :=
  .next (aluW s hd (useOf (.shlImm hd d a amt ty)) ty.is64 d fun w l =>
    atWidth ty.is64 (opShl · amt.toNat) (opShl · amt.toNat) (rdW s w l ty.is64 a))

/-- SHR, immediate (R282). -/
def execShrImm (hd : Hdr) (d : Dst) (a : Src) (amt : BitVec 6) (ty : Ty) (s : State) : Out :=
  .next (aluW s hd (useOf (.shrImm hd d a amt ty)) ty.is64 d fun w l =>
    atWidth ty.is64 (opShr · amt.toNat) (opShr · amt.toNat) (rdW s w l ty.is64 a))

/-- SAR, immediate (R282). -/
def execSarImm (hd : Hdr) (d : Dst) (a : Src) (amt : BitVec 6) (ty : Ty) (s : State) : Out :=
  .next (aluW s hd (useOf (.sarImm hd d a amt ty)) ty.is64 d fun w l =>
    atWidth ty.is64 (opSar · amt.toNat) (opSar · amt.toNat) (rdW s w l ty.is64 a))

/-- ROT (R282). -/
def execRot (hd : Hdr) (d : Dst) (a b : Src) (right : Bool) (ty : Ty) (s : State) : Out :=
  .next (aluW s hd (useOf (.rot hd d a b right ty)) ty.is64 d fun w l =>
    let n := (rd32 s w l b).toNat
    atWidth ty.is64 (opRot right · n) (opRot right · n) (rdW s w l ty.is64 a))

/-- BOOL3 (R283). -/
def execBool3 (hd : Hdr) (d : Dst) (a b c : Src) (w64 : Bool) (fn : BitVec 8) (s : State) : Out :=
  .next (aluW s hd (useOf (.bool3 hd d a b c w64 fn)) w64 d fun w l =>
    if w64 then opBool3 fn (rd64 s w l a) (rd64 s w l b) (rd64 s w l c)
    else (opBool3 fn (rd32 s w l a) (rd32 s w l b) (rd32 s w l c)).setWidth 64)

/-- BOOL3, immediate, with c = 0 (R283). -/
def execBool3Imm (hd : Hdr) (d : Dst) (a : Src) (imm : Word) (fn : BitVec 8) (s : State) : Out :=
  .next (alu s hd (useOf (.bool3Imm hd d a imm fn)) d fun w l => opBool3 fn (rd32 s w l a) imm 0)

/-- POPC (R284). -/
def execPopc (hd : Hdr) (d : Dst) (a : Src) (ty : Ty) (s : State) : Out :=
  .next (alu s hd (useOf (.popc hd d a ty)) d fun w l =>
    BitVec.ofNat 32 (if ty.is64 then opPopc (rd64 s w l a) else opPopc (rd32 s w l a)))

/-- CLZ (R284). -/
def execClz (hd : Hdr) (d : Dst) (a : Src) (ty : Ty) (s : State) : Out :=
  .next (alu s hd (useOf (.clz hd d a ty)) d fun w l =>
    BitVec.ofNat 32 (if ty.is64 then opClz (rd64 s w l a) else opClz (rd32 s w l a)))

/-- BREV (R284). -/
def execBrev (hd : Hdr) (d : Dst) (a : Src) (ty : Ty) (s : State) : Out :=
  .next (aluW s hd (useOf (.brev hd d a ty)) ty.is64 d fun w l => atWidth ty.is64 opBrev opBrev (rdW s w l ty.is64 a))

/-- BFE (R285). -/
def execBfe (hd : Hdr) (d : Dst) (a b : Src) (ty : Ty) (s : State) : Out :=
  .next (alu s hd (useOf (.bfe hd d a b ty)) d fun w l => opBfe ty.isSigned (rd32 s w l a) (rd32 s w l b))

/-- BFI (R285). -/
def execBfi (hd : Hdr) (d : Dst) (a b c : Src) (s : State) : Out :=
  .next (alu s hd (useOf (.bfi hd d a b c)) d fun w l => opBfi (rd32 s w l a) (rd32 s w l b) (rd32 s w l c))

/-- BSEL (R286). -/
def execBsel (hd : Hdr) (d : Dst) (a b c : Src) (s : State) : Out :=
  .next (alu s hd (useOf (.bsel hd d a b c)) d fun w l => opBsel (rd32 s w l a) (rd32 s w l b) (rd32 s w l c))

end Sys2Proof.Machine
end

