-- ==== Sys2Proof/Machine/Special.lean ====
section
/-! DEFINITION. The special functions of opcode 0x47 (R310 to R312). FRCP and FSQRT are correctly rounded under their
mode; the other five return the nearest f32 value. A function's exact value is formed as a quotient, a root or a
fixed-point series, with one sticky bit below it that stands for the part not formed (log entry 9). -/

namespace Sys2Proof.Machine

/-- Integer square root, bit by bit from bit k down: the greatest r with r * r at most n. -/
def isqrtFrom (n : Nat) : Nat → Nat → Nat
  | 0, r => r
  | k + 1, r => let t := r + 2 ^ k; isqrtFrom n k (if t * t ≤ n then t else r)

/-- Integer square root. -/
def isqrt (n : Nat) : Nat := isqrtFrom n (n.log2 / 2 + 1) 0

/-- The floor of ln 2 times 2^256, a mathematical constant. -/
def ln2Fix : Nat :=
  0xB17217F7D1CF79ABC9E3B39803F2F6AF40F343267298B62D8A0D175B8BAAFA2B
/-- The floor of pi times 2^640, a mathematical constant. -/
def piFix : Nat :=
  0x3243F6A8885A308D313198A2E03707344A4093822299F31D0082EFA98EC4E6C89452821E638D01377BE5466CF34E90C6CC0AC29B7C97C50DD3F84D5B5B54709179216D5D98979FB1BD1310BA698DFB5AC

/-- Round a value with one sticky bit below it. -/
def roundSticky (rm : Rm) (ftz neg : Bool) (m : Nat) (e : Int) (sticky : Bool) : FRes :=
  f32.round rm ftz neg (2 * m + sticky.toNat) (e - 1)

/-- The reciprocal of a finite nonzero value (R310). -/
def recip (rm : Rm) (ftz neg : Bool) (m : Nat) (e : Int) : FRes :=
  let k := m.log2 + 60
  let q := 2 ^ k / m
  roundSticky rm ftz neg q (-(k : Int) - e) (q * m != 2 ^ k)

/-- The square root of a positive value (R310). -/
def sqrtPos (rm : Rm) (ftz : Bool) (m : Nat) (e : Int) : FRes :=
  let k : Nat := if (e % 2 == 0) then 64 else 65
  let n := m * 2 ^ k
  let r := isqrt n
  roundSticky rm ftz false r ((e - (k : Int)) / 2) (r * r != n)

/-- The reciprocal square root of a positive value (R312). -/
def rsqrtPos (ftz : Bool) (m : Nat) (e : Int) : FRes :=
  let k : Nat := if (((m.log2 : Int) + e) % 2 == 0) then m.log2 + 160 else m.log2 + 161
  let n := 2 ^ k / m
  let r := isqrt n
  roundSticky .rn ftz false r (-((k : Int) + e) / 2) (r * r * m != 2 ^ k)

/-- The Taylor series of exp at x over 2^p: further terms from the k-th on. -/
def expSeries (p x : Nat) : Nat → Nat → Nat → Nat → Nat
  | 0, _, _, acc => acc
  | fuel + 1, k, t, acc => let t' := ((t * x) >>> p) / k; expSeries p x fuel (k + 1) t' (acc + t')

/-- 2^x for a finite x of sign neg and magnitude m times 2^e (R312). -/
def exp2Fin (ftz neg : Bool) (m : Nat) (e : Int) : FRes :=
  -- x over 2^192, at which every f32 value is exact
  let big := 10 ≤ e + m.log2
  let v : Int := if big then 1024 * 2 ^ 192 else ((m <<< (e + 192).toNat : Nat) : Int)
  let v := if neg then -v else v
  let n : Int := v / 2 ^ 192
  let f : Nat := (v % 2 ^ 192).toNat
  if f = 0 && !big then f32.round .rn ftz false 1 n
  else
    let y := (f * ln2Fix) >>> 192
    let s := expSeries 256 y 64 1 (2 ^ 256) (2 ^ 256)
    roundSticky .rn ftz false s (n - 256) true

/-- The series of the inverse hyperbolic tangent over 2^p, where z2 is the square of the argument. -/
def atanhSeries (p z2 : Nat) : Nat → Nat → Nat → Nat → Nat
  | 0, _, _, acc => acc
  | fuel + 1, k, t, acc => let t' := (t * z2) >>> p; atanhSeries p z2 fuel (k + 2) t' (acc + t' / k)

/-- log2 of a positive value (R312): with y = m / 2^(log2 m) in (1, 2), ln y = 2 atanh ((y - 1) / (y + 1)). -/
def log2Pos (ftz : Bool) (m : Nat) (e : Int) : FRes :=
  let n : Int := e + m.log2
  if m = 2 ^ m.log2 then f32.round .rn ftz (n < 0) n.natAbs 0
  else
    let a := m - 2 ^ m.log2
    let b := m + 2 ^ m.log2
    let z := a * 2 ^ 256 / b
    let l := 2 * atanhSeries 256 ((z * z) >>> 256) 100 3 z z
    let v : Int := n * 2 ^ 256 + ((l * 2 ^ 256 / ln2Fix : Nat) : Int)
    roundSticky .rn ftz (v < 0) v.natAbs (-256) true

/-- The alternating series of sine and cosine: x2 is the square of the angle over 2^p. -/
def trigSeries (p x2 : Nat) : Nat → Nat → Int → Int → Int
  | 0, _, _, acc => acc
  | fuel + 1, k, t, acc =>
    let t' := -((t * x2 / 2 ^ p) / ((k : Int) * (k + 1)))
    trigSeries p x2 fuel (k + 2) t' (acc + t')

/-- Sine or cosine of a nonzero finite angle, reduced modulo 2 pi with 640 fraction bits of pi (R312). -/
def trigFin (cosine ftz neg : Bool) (m : Nat) (e : Int) : FRes :=
  let x : Nat := m <<< (e + 640).toNat
  let half := piFix / 2
  let k := x / half
  let r := (x - k * half) >>> 128
  let r2 := (r * r) >>> 512
  let s := trigSeries 512 r2 60 2 r r
  let c := trigSeries 512 r2 60 1 (2 ^ 512) (2 ^ 512)
  let quarter := (k + cosine.toNat) % 4
  let v := if quarter = 0 then s else if quarter = 1 then c else if quarter = 2 then -s else -c
  let v := if neg && !cosine then -v else v
  roundSticky .rn ftz (v < 0) v.natAbs (-512) true

/-- The functions of opcode 0x47 (R269). -/
inductive SfuFn where
  | rcp | rsq | sqrt | ex2 | lg2 | sin | cos
  deriving DecidableEq, Repr

/-- A special function of an f32 code: Table 14-4, then the function's value (R311, R312). -/
def sfu (fn : SfuFn) (rm : Rm) (ftz : Bool) (x : Nat) : FRes :=
  let one : FRes := ⟨0x3F800000, 0⟩
  let bad := f32.nanRes true
  match f32.decode ftz x with
  | .nan s => f32.nanRes s
  | .inf n => match fn with
    | .rcp => ⟨f32.sign n 0, 0⟩
    | .rsq => if n then bad else ⟨0, 0⟩
    | .sqrt | .lg2 => if n then bad else ⟨f32.infBits, 0⟩
    | .ex2 => if n then ⟨0, 0⟩ else ⟨f32.infBits, 0⟩
    | .sin | .cos => bad
  | .fin n m e =>
    if m = 0 then match fn with
      | .rcp | .rsq => ⟨f32.sign n f32.infBits, flDZ⟩
      | .sqrt | .sin => ⟨f32.sign n 0, 0⟩
      | .ex2 | .cos => one
      | .lg2 => ⟨f32.sign true f32.infBits, flDZ⟩
    else match fn with
      | .rcp => recip rm ftz n m e
      | .rsq => if n then bad else rsqrtPos ftz m e
      | .sqrt => if n then bad else sqrtPos rm ftz m e
      | .ex2 => exp2Fin ftz n m e
      | .lg2 => if n then bad else log2Pos ftz m e
      | .sin => trigFin false ftz n m e
      | .cos => trigFin true ftz n m e

end Sys2Proof.Machine
end

