-- ==== Sys2Proof/Machine/FloatArith.lean ====
section
/-! DEFINITION. The meanings of floating arithmetic, compares, special functions and small dot products
(spec/14: R303 to R314). -/

namespace Sys2Proof.Machine

/-- An operand of a format: its code, the sign flip, the flush (R303, R305). -/
def fval (f : FFmt) (ftz neg : Bool) (x : Nat) : FVal := f.decode ftz (f.prep false neg x)

/-- FADD, FMUL and FFMA on codes, with the modifiers of Table 14-1 (R306). -/
def fAddOp (f : FFmt) (fm : FMod) (a b : Nat) : FRes := f.add fm.rm fm.ftz (fval f fm.ftz fm.na a) (fval f fm.ftz fm.nl b)
def fMulOp (f : FFmt) (fm : FMod) (a b : Nat) : FRes := f.mul fm.rm fm.ftz (fval f fm.ftz fm.na a) (fval f fm.ftz fm.nl b)
def fFmaOp (f : FFmt) (fm : FMod) (a b c : Nat) : FRes :=
  f.fma fm.rm fm.ftz (fval f fm.ftz fm.na a) (fval f fm.ftz false b) (fval f fm.ftz fm.nl c)

/-- The two elements of a packed operation, each rounded and flagged on its own (R305). -/
def packed (f : Nat → FRes) : FRes := ⟨(f 0).bits + 65536 * (f 1).bits, (f 0).fl ||| (f 1).fl⟩

/-- The element format of a packed type. -/
def packFmt (ty : Ty) : FFmt := if ty = .bf16x2 then bf16 else f16

/-- FADD (R306). -/
def execFadd (hd : Hdr) (d : Dst) (a b : Src) (fm : FMod) (ty : Ty) (s : State) : Out :=
  .next (falu s hd (useOf (.fadd hd d a b fm ty)) d fun w l =>
    fAddOp (fmtOf ty) fm (rd32 s w l a).toNat (rd32 s w l b).toNat)

/-- FMUL (R306). -/
def execFmul (hd : Hdr) (d : Dst) (a b : Src) (fm : FMod) (ty : Ty) (s : State) : Out :=
  .next (falu s hd (useOf (.fmul hd d a b fm ty)) d fun w l =>
    fMulOp (fmtOf ty) fm (rd32 s w l a).toNat (rd32 s w l b).toNat)

/-- FFMA (R306). -/
def execFfma (hd : Hdr) (d : Dst) (a b c : Src) (fm : FMod) (ty : Ty) (s : State) : Out :=
  .next (falu s hd (useOf (.ffma hd d a b c fm ty)) d fun w l =>
    fFmaOp (fmtOf ty) fm (rd32 s w l a).toNat (rd32 s w l b).toNat (rd32 s w l c).toNat)

/-- FMIN and FMAX on codes (R307). -/
def fMinMaxOp (f : FFmt) (isMax ftz na nl : Bool) (a b : Nat) : FRes :=
  f.minmax isMax (f.prep ftz na a) (f.prep ftz nl b)

/-- FMIN (R307). -/
def execFmin (hd : Hdr) (d : Dst) (a b : Src) (ftz na nl : Bool) (ty : Ty) (s : State) : Out :=
  .next (falu s hd (useOf (.fmin hd d a b ftz na nl ty)) d fun w l =>
    fMinMaxOp (fmtOf ty) false ftz na nl (rd32 s w l a).toNat (rd32 s w l b).toNat)

/-- FMAX (R307). -/
def execFmax (hd : Hdr) (d : Dst) (a b : Src) (ftz na nl : Bool) (ty : Ty) (s : State) : Out :=
  .next (falu s hd (useOf (.fmax hd d a b ftz na nl ty)) d fun w l =>
    fMinMaxOp (fmtOf ty) true ftz na nl (rd32 s w l a).toNat (rd32 s w l b).toNat)

/-- The outcome of a floating compare on codes, combined with the predicate operand (R308). -/
def fCmpOp (f : FFmt) (ftz : Bool) (cmp : FCmp) (bop : Bop) (q : Bool) (a b : Nat) : Bool × Flags :=
  let r := fcmp cmp (fval f ftz false a) (fval f ftz false b)
  (combine bop r.1 q, r.2)

/-- FSETP (R308). -/
def execFsetp (hd : Hdr) (pd : PDst) (a b : Src) (pc : Pred) (bop : Bop) (ftz : Bool) (cmp : FCmp) (ty : Ty)
    (s : State) : Out :=
  .next (fset s hd (useOf (.fsetp hd pd a b pc bop ftz cmp ty)) pd fun w l =>
    fCmpOp (fmtOf ty) ftz cmp bop (w.pbit pc l) (rd32 s w l a).toNat (rd32 s w l b).toNat)

/-- FCLASS (R309). -/
def execFclass (hd : Hdr) (d : Dst) (a : Src) (ty : Ty) (s : State) : Out :=
  .next (alu s hd (useOf (.fclass hd d a ty)) d fun w l =>
    BitVec.ofNat 32 (2 ^ (fmtOf ty).classBit ((rdW s w l ty.is64 a).toNat % 2 ^ (fmtOf ty).width)))

/-- HADD2 (R305, R306). -/
def execHadd2 (hd : Hdr) (d : Dst) (a b : Src) (fm : FMod) (ty : Ty) (s : State) : Out :=
  .next (falu s hd (useOf (.hadd2 hd d a b fm ty)) d fun w l =>
    packed fun k => fAddOp (packFmt ty) fm (elemOf (rd32 s w l a).toNat k) (elemOf (rd32 s w l b).toNat k))

/-- HFMA2 (R305, R306). -/
def execHfma2 (hd : Hdr) (d : Dst) (a b c : Src) (fm : FMod) (ty : Ty) (s : State) : Out :=
  .next (falu s hd (useOf (.hfma2 hd d a b c fm ty)) d fun w l =>
    packed fun k => fFmaOp (packFmt ty) fm (elemOf (rd32 s w l a).toNat k) (elemOf (rd32 s w l b).toNat k)
      (elemOf (rd32 s w l c).toNat k))

/-- DOT4 (R313). -/
def execDot4 (hd : Hdr) (d : Dst) (a b c : Src) (sat : Bool) (ty : Ty) (s : State) : Out :=
  .next (alu s hd (useOf (.dot4 hd d a b c sat ty)) d fun w l =>
    opDot4 sat ty.isSigned (rd32 s w l a) (rd32 s w l b) (rd32 s w l c))

/-- DOT2 (R314). -/
def execDot2 (hd : Hdr) (d : Dst) (a b c : Src) (rm : Rm) (ty : Ty) (s : State) : Out :=
  .next (falu s hd (useOf (.dot2 hd d a b c rm ty)) d fun w l =>
    opDot2 (packFmt ty) rm (rd32 s w l a).toNat (rd32 s w l b).toNat (rd32 s w l c).toNat)

/-- FADD, immediate (R305, R306). -/
def execFaddImm (hd : Hdr) (d : Dst) (a : Src) (imm : Word) (rm : Rm) (ftz na : Bool) (ty : Ty) (s : State) : Out :=
  .next (falu s hd (useOf (.faddImm hd d a imm rm ftz na ty)) d fun w l =>
    fAddOp (fmtOf ty) ⟨rm, ftz, na, false⟩ (rd32 s w l a).toNat imm.toNat)

/-- FMUL, immediate (R305, R306). -/
def execFmulImm (hd : Hdr) (d : Dst) (a : Src) (imm : Word) (rm : Rm) (ftz na : Bool) (ty : Ty) (s : State) : Out :=
  .next (falu s hd (useOf (.fmulImm hd d a imm rm ftz na ty)) d fun w l =>
    fMulOp (fmtOf ty) ⟨rm, ftz, na, false⟩ (rd32 s w l a).toNat imm.toNat)

/-- FFMA, immediate: the addend is D (R305, R306). -/
def execFfmaImm (hd : Hdr) (d : Dst) (a : Src) (imm : Word) (rm : Rm) (ftz na : Bool) (ty : Ty) (s : State) : Out :=
  .next (falu s hd (useOf (.ffmaImm hd d a imm rm ftz na ty)) d fun w l =>
    fFmaOp (fmtOf ty) ⟨rm, ftz, na, false⟩ (rd32 s w l a).toNat imm.toNat (dOld w l d.r).toNat)

/-- DADD (R306). -/
def execDadd (hd : Hdr) (d : Dst) (a b : Src) (rm : Rm) (na nl : Bool) (s : State) : Out :=
  .next (falu2 s hd (useOf (.dadd hd d a b rm na nl)) d fun w l =>
    fAddOp f64 ⟨rm, false, na, nl⟩ (rd64 s w l a).toNat (rd64 s w l b).toNat)

/-- DMUL (R306). -/
def execDmul (hd : Hdr) (d : Dst) (a b : Src) (rm : Rm) (na nl : Bool) (s : State) : Out :=
  .next (falu2 s hd (useOf (.dmul hd d a b rm na nl)) d fun w l =>
    fMulOp f64 ⟨rm, false, na, nl⟩ (rd64 s w l a).toNat (rd64 s w l b).toNat)

/-- DFMA (R306). -/
def execDfma (hd : Hdr) (d : Dst) (a b c : Src) (rm : Rm) (na nl : Bool) (s : State) : Out :=
  .next (falu2 s hd (useOf (.dfma hd d a b c rm na nl)) d fun w l =>
    fFmaOp f64 ⟨rm, false, na, nl⟩ (rd64 s w l a).toNat (rd64 s w l b).toNat (rd64 s w l c).toNat)

/-- DSETP (R308). -/
def execDsetp (hd : Hdr) (pd : PDst) (a b : Src) (pc : Pred) (bop : Bop) (cmp : FCmp) (s : State) : Out :=
  .next (fset s hd (useOf (.dsetp hd pd a b pc bop cmp)) pd fun w l =>
    fCmpOp f64 false cmp bop (w.pbit pc l) (rd64 s w l a).toNat (rd64 s w l b).toNat)

/-! ## Special functions (R310 to R312) -/

/-- The registers of a destination, by number. -/
def dregs (d : DReg) (k : Nat) : List Nat := (useReg k d).regs

/-- The common step of opcode 0x47: the operands are read and the flags set at issue, and the quarter's shared unit
returns the results by SPECIAL_FUNCTION_RESULT. An E of no lane performs nothing, and its scoreboard is not counted. -/
def special47 (s : State) (hd : Hdr) (u : Use) (d : DReg) (f : Wave → Nat → FRes) : State :=
  issue s hd u fun c =>
    if c.E = 0 then finishNext s c hd c.w
    else
      let fl : Flight :=
        { wave := c.id, sb := hd.h.set.map (·.toNat), regs := dregs d 1, left := c.E, dest := .words 1, d := d, pd := 7,
          cur := none, pc := c.pc, lanes := c.path, first := firstLane c.E,
          vals := (List.range 32).map fun l => if c.E.getLsbD l then BitVec.ofNat 32 (f c.w l).bits else 0 }
      let r := startFlight s fl c.w
      finishNext r.2.1 c hd (r.2.2.raise (joinFlags c.E fun l => (f c.w l).fl))

/-- FRCP (R310, R311). -/
def execFrcp (hd : Hdr) (d : DReg) (a : Src) (rm : Rm) (ftz : Bool) (s : State) : Out :=
  .next (special47 s hd (useOf (.frcp hd d a rm ftz)) d fun w l => sfu .rcp rm ftz (rd32 s w l a).toNat)

/-- FRSQ (R311, R312). -/
def execFrsq (hd : Hdr) (d : DReg) (a : Src) (ftz : Bool) (s : State) : Out :=
  .next (special47 s hd (useOf (.frsq hd d a ftz)) d fun w l => sfu .rsq .rn ftz (rd32 s w l a).toNat)

/-- FSQRT (R310, R311). -/
def execFsqrt (hd : Hdr) (d : DReg) (a : Src) (rm : Rm) (ftz : Bool) (s : State) : Out :=
  .next (special47 s hd (useOf (.fsqrt hd d a rm ftz)) d fun w l => sfu .sqrt rm ftz (rd32 s w l a).toNat)

/-- FEX2 (R311, R312). -/
def execFex2 (hd : Hdr) (d : DReg) (a : Src) (ftz : Bool) (s : State) : Out :=
  .next (special47 s hd (useOf (.fex2 hd d a ftz)) d fun w l => sfu .ex2 .rn ftz (rd32 s w l a).toNat)

/-- FLG2 (R311, R312). -/
def execFlg2 (hd : Hdr) (d : DReg) (a : Src) (ftz : Bool) (s : State) : Out :=
  .next (special47 s hd (useOf (.flg2 hd d a ftz)) d fun w l => sfu .lg2 .rn ftz (rd32 s w l a).toNat)

/-- FSIN (R311, R312). -/
def execFsin (hd : Hdr) (d : DReg) (a : Src) (ftz : Bool) (s : State) : Out :=
  .next (special47 s hd (useOf (.fsin hd d a ftz)) d fun w l => sfu .sin .rn ftz (rd32 s w l a).toNat)

/-- FCOS (R311, R312). -/
def execFcos (hd : Hdr) (d : DReg) (a : Src) (ftz : Bool) (s : State) : Out :=
  .next (special47 s hd (useOf (.fcos hd d a ftz)) d fun w l => sfu .cos .rn ftz (rd32 s w l a).toNat)

/-- Write the words of a lane of an instruction in flight, unless the lane has exited (R298). -/
def writeLane (s : State) (f : Flight) (lane : Nat) (ws : List Word) : State :=
  s.updWave f.wave fun w => if w.live.getLsbD lane then putLane w f.d lane f.first 0 ws else w

/-- SPECIAL_FUNCTION_RESULT: the shared unit returns the results of the instruction in flight `seq`, its pending bits
clear and its scoreboard counts down (R250, R310). A halted wave's results wait for its resumption (R321). -/
def execSpecialFunctionResult (seq : Nat) (s : State) : Out :=
  .next (match tget s.flights seq with
    | none => s
    | some f =>
      if f.vals = [] ∨ f.dest ≠ .words 1 ∨ (s.teamOf (s.wave f.wave)).life ≠ .resident then s
      else endFlight ((lanesOf f.left).foldl (fun s l => writeLane s f l [f.vals.getD l 0]) s) seq)

end Sys2Proof.Machine
end

