-- ==== Sys2Proof/Machine/Translate.lean ====
section
/-! DEFINITION. Translation (R20 to R42): TLBs, the walk, permission checks, misses that wait for a walker, and the
suspension of a wave whose pages fault. -/

namespace Sys2Proof.Machine

/-! ## Registers of the partition (Table 2-12) -/

/-- Whether a partition owns a slice (R448). -/
def Part.owns (p : Part) (no slice : Nat) : Bool := no ≤ slice && slice < no + p.size

/-- Whether a peer table entry is valid (R461): its reserved bits are tested as they were written (log entry 60). -/
def peerValid (e : BitVec 128) : Bool :=
  e.getLsbD 0 && e.extractLsb' 116 12 == 0 && e.extractLsb' 64 16 == 0 && e.extractLsb' 36 12 == 0 &&
    e.extractLsb' 1 15 == 0 && e.extractLsb' 48 16 != 0 && decide ((e.extractLsb' 32 4).toNat < 12)

/-- Whether a peer number is configured in a partition. -/
def peerOk (p : Part) (n : Nat) : Bool :=
  match tget p.peers n with
  | none => false
  | some e => peerValid e

/-! ## The walk (R23 to R28) -/

/-- The outcome of a walk: a leaf, or a fault with its cause (Table 2-8) and the size code of its page word. -/
inductive Walk where
  | leaf (e : TlbEnt)
  | fault (cause size : Nat)
  deriving DecidableEq, Repr

/-- An ordinary read of an entry of 8 bytes at its home, which counts a use count down (R25, R64): none where the home is
offline (R446). The walker has no pts and takes no lease; an entry at a peer is a free value (log entry 35). -/
def readEntry (s : State) (pa : Nat) : State × Option Nat :=
  let home := homeOf pa false
  if 1024 ≤ home then
    let (x, s) := s.free
    (s, some x.toNat)
  else if homeOffline s home then (s, none)
  else match homeReadAt s home pa 8 0 none none 0 with
    | .ok (s, o) => (s, some (bytesNat o.data))
    | .error _ => (s, some (s.rd64 pa))

/-- The address of the entry of a PASID in the table of its partition; none when the table has none (R28). -/
def pasidAddr (s : State) (part pasid : Nat) : Option Nat :=
  let r := (s.part part).regs.pasidTab
  if r.getLsbD 5 ∧ pasid < 2 ^ (r.toNat % 32) then some (ringBase r + 8 * pasid) else none

/-- The root node that a PASID entry names (R28). -/
def entryRoot (e : Nat) : Option Nat :=
  if e % 2 = 1 ∧ e / 2 % 2 ^ 15 = 0 ∧ e / 2 ^ 52 = 0 then some (e / 2 ^ 16 % 2 ^ 36 * 2 ^ 16) else none

/-- The root node of a PASID, or the fault of its entry (R28). -/
def pasidRoot (s : State) (part pasid : Nat) : State × Except Walk Nat :=
  match pasidAddr s part pasid with
  | none => (s, .error (.fault 9 3))
  | some a => match readEntry s a with
    | (s, none) => (s, .error (.fault 8 3))
    | (s, some e) => (s, match entryRoot e with
      | none => .error (.fault 9 3)
      | some root => .ok root)

/-- Index of an address at a level, 0 the root (Table 2-3). -/
def walkIndex (va level : Nat) : Nat :=
  match level with
  | 0 => va / 2 ^ 43 % 2 ^ 13
  | 1 => va / 2 ^ 30 % 2 ^ 13
  | 2 => va / 2 ^ 21 % 2 ^ 9
  | _ => va / 2 ^ 16 % 2 ^ 5

/-- Log of the size of a page whose leaf stands at a level, and the size code of a page word. -/
def pageLog (level : Nat) : Nat := if level = 1 then 30 else if level = 2 then 21 else 16
def pageCode (level : Nat) : Nat := if level = 1 then 2 else if level = 2 then 1 else 0

/-- Log of the alignment of the node that a non-leaf entry at a level names. -/
def nodeLog (level : Nat) : Nat := if level = 0 then 16 else if level = 1 then 12 else 8

/-- Whether a reserved bit of an entry is set (R24). -/
def pteReserved (e level : Nat) : Bool :=
  e / 2 ^ 60 != 0 || e / 2 ^ 52 % 16 != 0 || e / 64 % 4 != 0 || e / 4 % 2 != 0 ||
    (if e / 2 % 2 = 1 then
      level != 0 && e / 256 % 2 ^ (pageLog level - 8) != 0
    else e / 2 ^ 56 % 16 != 0 || e / 8 % 8 != 0 || (level < 3 && e / 256 % 2 ^ (nodeLog level - 8) != 0))

/-- The check of a leaf's frame, tier and MS against the partition (R22, R26): a cause, or none. -/
def leafFault (p : Part) (part pa tier : Nat) (ms : Bool) : Option Nat :=
  let want := if isHbm pa then some 0 else if isTier pa then some 1 else if isPeer pa ∨ isHost pa then some 2 else none
  match want with
  | none => some 7
  | some t =>
    if t ≠ tier then some 6
    else if ms ∧ tier ≠ 0 then some 6
    else if t = 0 ∧ ¬ p.owns part (pa / Config.stackBytes) then some 7
    else if isPeer pa ∧ ¬ peerOk p (pa / 2 ^ 42 % 256) then some 7
    else none

/-- The entry that a leaf gives. -/
def leafEnt (part pasid va level e : Nat) : TlbEnt :=
  { part := part, pasid := pasid, va := va / 2 ^ pageLog level * 2 ^ pageLog level, pa := e / 256 % 2 ^ 44 * 256,
    size := 2 ^ pageLog level, tier := e / 2 ^ 58 % 4, ms := e.testBit 57, gb := e.testBit 56, x := e.testBit 5,
    w := e.testBit 4, r := e.testBit 3, last := 0 }

/-- What an entry of a node at a level says (R24 to R26): the outcome of the walk, or the node below. -/
def stepWalk (p : Part) (part pasid va level e : Nat) : Except Walk Nat :=
  let leaf := e / 2 % 2 = 1
  let size := if leaf ∧ level ≠ 0 then pageCode level else 3
  if e % 2 = 0 then .error (.fault 0 3)
  else if pteReserved e level then .error (.fault 6 size)
  else if leaf then
    if level = 0 then .error (.fault 6 3)
    else match leafFault p part (e / 256 % 2 ^ 44 * 256) (e / 2 ^ 58 % 4) (e.testBit 57) with
      | some c => .error (.fault c size)
      | none => .error (.leaf (leafEnt part pasid va level e))
  else if level = 3 then .error (.fault 6 3)
  else .ok (e / 256 % 2 ^ 44 * 256)

/-- The walk from a node of a level downwards, with the nodes that the walk cache may keep (root and G entries). -/
def walkFrom (part pasid va : Nat) : Nat → Nat → Nat → List WalkEnt → State → State × Walk × List WalkEnt
  | 0, _, _, ws, s => (s, .fault 6 3, ws)
  | fuel + 1, level, node, ws, s =>
    match readEntry s (node + 8 * walkIndex va level) with
    | (s, none) => (s, .fault 8 3, ws)
    | (s, some e) => match stepWalk (s.part part) part pasid va level e with
      | .error r => (s, r, ws)
      | .ok next =>
        let lg := if level = 0 then 43 else 30
        walkFrom part pasid va fuel (level + 1) next
          (if level < 2 then ws ++ [{ part := part, pasid := pasid, va := va / 2 ^ lg, level := level + 1, node := next }]
           else ws) s

/-- The deepest node that the walk cache of a die holds for an address. -/
def cachedNode (d : Die) (part pasid va : Nat) : Option (Nat × Nat) :=
  match d.walks.find? fun e => e.part == part && e.pasid == pasid && e.level == 2 && e.va == va / 2 ^ 30 with
  | some e => some (2, e.node)
  | none => match d.walks.find? fun e => e.part == part && e.pasid == pasid && e.level == 1 && e.va == va / 2 ^ 43 with
    | some e => some (1, e.node)
    | none => none

/-- Walk (R25), from the deepest node that the die's walk cache holds. One that ends in a fault caches nothing (R33). -/
def walk (s : State) (die part pasid va : Nat) : State × Walk × List WalkEnt :=
  if va / 2 ^ 56 ≠ 0 then (s, .fault 4 3, [])
  else match pasidRoot s part pasid with
    | (s, .error r) => (s, r, [])
    | (s, .ok root) =>
      let start := (cachedNode (s.die die) part pasid va).getD (0, root)
      match walkFrom part pasid va 4 start.1 start.2 [] s with
      | (s, .leaf e, ws) => (s, .leaf e, ws)
      | (s, r, _) => (s, r, [])

/-! ## Permission (R27) -/

/-- The cause with which an access of an ordinary agent fails at a leaf. -/
def accessFault (e : TlbEnt) (a : Access) : Option Nat :=
  if e.gb then some 5
  else match a with
    | .fetch => if e.x then none else some 3
    | .write => if e.w then none else some 2
    | .rmw => if !e.w then some 2 else if !e.r then some 1 else none
    | .read => if e.r then none else some 1

def accessCode : Access → Nat
  | .read => 0
  | .write => 1
  | .rmw => 2
  | .fetch => 3

/-- A page word (R38). -/
def pageWord (va size cause : Nat) (a : Access) : DWord :=
  BitVec.ofNat 64 (va / 2 ^ 16 % 2 ^ 40 * 2 ^ 16 + size * 2 ^ 14 + cause * 2 ^ 10 + accessCode a * 2 ^ 8)

/-- The size code of a leaf. -/
def TlbEnt.code (e : TlbEnt) : Nat := if e.size = 2 ^ 30 then 2 else if e.size = 2 ^ 21 then 1 else 0

/-! ## TLBs (R30, R31) -/

/-- Whether an entry translates an address. -/
def TlbEnt.hits (e : TlbEnt) (part pasid va : Nat) : Bool :=
  e.part == part && e.pasid == pasid && decide (e.va ≤ va) && decide (va < e.va + e.size)

/-- Put an entry in front, dropping the least recently used beyond the capacity (log entry 6). -/
def tlbFill (cap : Nat) (e : TlbEnt) (t : List TlbEnt) : List TlbEnt := (e :: t.filter (· != e)).take cap

/-- Remove the last entry that satisfies a test. -/
def dropLast (p : TlbEnt → Bool) (t : List TlbEnt) : List TlbEnt := (t.reverse.eraseP p).reverse

/-- The set of an entry in a TLB of so many sets: its page number modulo their number (log entry 6). -/
def TlbEnt.set (n : Nat) (e : TlbEnt) : Nat := e.va / e.size % n

/-- The cluster TLB: 128 sets of 8 ways, the least recently used of a set leaving first (Table 2-5). -/
def clusterFill (e : TlbEnt) (t : List TlbEnt) : List TlbEnt :=
  let t := e :: t.filter (· != e)
  let mate := fun x : TlbEnt => x.set 128 == e.set 128
  if 8 < (t.filter mate).length then dropLast mate t else t

/-- Ways of each last-level set that a die reserves to a partition: 4 of the 16 for each of its slices there, which makes
32,768 entries of the die for a slice (R31, log entry 6). -/
def llReserve (p : Part) (no die : Nat) : Nat := 4 * ((List.range 3).filter fun i => p.owns no (3 * die + i)).length

/-- The last-level TLB of a die: 8,192 sets of 16 ways. Entries of a set beyond their partition's reserve share the
remaining 4 ways, the least recently used of them leaving first (R31, Table 2-5). -/
def llFill (reserve : Nat → Nat) (e : TlbEnt) (t : List TlbEnt) : List TlbEnt :=
  let t := e :: t.filter (· != e)
  let mates := t.filter fun x => x.set 8192 == e.set 8192
  let extra := fun no => (mates.filter (·.part == no)).length - reserve no
  if 4 < ((List.range 12).map extra).foldl (fun x y : Nat => x + y) 0 then
    dropLast (fun x => x.set 8192 == e.set 8192 && 0 < extra x.part) t
  else t

/-- Fill, or find again, an entry of a cluster TLB and of its die's last level. -/
def fillOuter (s : State) (cluster : Nat) (e : TlbEnt) : State :=
  let d := clusterDie cluster
  let s := s.updCluster cluster fun c => { c with tlb := clusterFill e c.tlb }
  s.updDie d fun k => { k with tlb := llFill (fun no => llReserve (s.part no) no d) e k.tlb }

/-- Fill every level that an access of a core looks up. -/
def fillTlbs (s : State) (core : Nat) (e : TlbEnt) : State :=
  fillOuter (s.updCore core fun c => { c with tlb := tlbFill 64 e c.tlb }) (coreCluster core) e

/-- The translation an access of a core finds: L1, cluster, then last level (R30). -/
def lookup (s : State) (core part pasid va : Nat) : Option TlbEnt :=
  let p := fun e : TlbEnt => e.hits part pasid va
  match (s.core core).tlb.find? p with
  | some e => some e
  | none => match (s.cluster (coreCluster core)).tlb.find? p with
    | some e => some e
    | none => (s.die (coreDie core)).tlb.find? p

/-- Drop an entry everywhere (R33). -/
def dropEnt (s : State) (core : Nat) (e : TlbEnt) : State :=
  let s := s.updCore core fun c => { c with tlb := c.tlb.filter (· != e) }
  let s := s.updCluster (coreCluster core) fun c => { c with tlb := c.tlb.filter (· != e) }
  s.updDie (coreDie core) fun d => { d with tlb := d.tlb.filter (· != e) }

/-! ## Misses (R32) -/

/-- The misses of a cluster that are outstanding on its die. -/
def clusterMisses (s : State) (core : Nat) : Nat :=
  ((s.die (coreDie core)).queue.filter fun m => m.waiters.any fun w => match w.1 with
    | .wave id => coreCluster (s.wave id).core == coreCluster core
    | .pref id => coreCluster (s.wave id).core == coreCluster core
    | .hod op _ => match tget s.hops op with
      | some o => o.cluster == coreCluster core
      | none => false).length

/-- Whether a waiter already waits for a page. -/
def waitsFor (m : Miss) (w : Waiter × Access) : Bool := m.waiters.contains w

/-- Queue a miss for a page: it merges with one that is queued or walking. -/
def queueMiss (s : State) (core part pasid va : Nat) (w : Waiter × Access) : State :=
  let page := va / 65536 * 65536
  s.updDie (coreDie core) fun d =>
    if d.queue.any fun m => m.part == part && m.pasid == pasid && m.va == page then
      { d with queue := d.queue.map fun m =>
          if m.part == part && m.pasid == pasid && m.va == page && !waitsFor m w then
            { m with waiters := m.waiters ++ [w] } else m }
    else { d with queue := d.queue ++ [{ part := part, pasid := pasid, va := page, waiters := [w] }] }

/-- Whether a wave still waits for a walk. -/
def waveWaits (s : State) (id : Nat) : Bool :=
  (s.die (coreDie (s.wave id).core)).queue.any fun m => m.waiters.any fun w => w.1 == .wave id

/-! ## Translating the addresses of an instruction (R35) -/

/-- What the translation of one address gives now. -/
inductive Xlat where
  | ok (pa : Nat) (e : TlbEnt)
  | miss
  | fault (word : DWord)
  deriving DecidableEq, Repr

/-- Translate one address for an access of a core. -/
def xlat (s : State) (core part pasid va : Nat) (a : Access) : Xlat :=
  if va / 2 ^ 56 ≠ 0 then .fault (pageWord va 3 4 a)
  else match lookup s core part pasid va with
    | some e => if (accessFault e a).isNone then .ok (e.pa + (va - e.va)) e else .miss
    | none => .miss

/-- One address of a wave's instruction: an entry whose check fails is dropped, and the page walked again once. -/
def xlatWave (s : State) (wt : Waiter) (w : Wave) (va : Nat) (a : Access) : State × Xlat :=
  let part := s.partNo w
  let pasid := (s.gridOf w).pasid
  match (w.xfault.find? fun f => f.1 == va / 65536).map (·.2) with
  | some word => (s, .fault word)
  | none =>
    match xlat s w.core part pasid va a with
    | .ok pa e => (fillTlbs s w.core e, .ok pa e)
    | .fault word => (s, .fault word)
    | .miss =>
      let s := match lookup s w.core part pasid va with
        | some e => dropEnt s w.core e
        | none => s
      if clusterMisses s w.core < 32 then (queueMiss s w.core part pasid va (wt, a), .miss) else (s, .miss)

/-- Translate a list of addresses in order. -/
def xlatAll (wt : Waiter) (w : Wave) : List (Nat × Access) → State → State × List Xlat
  | [], s => (s, [])
  | va :: vas, s =>
    let r := xlatWave s wt w va.1 va.2
    let r2 := xlatAll wt w vas r.1
    (r2.1, r.2 :: r2.2)

/-! ## The suspension of a faulting wave (R35 to R38) -/

/-- The page that a page word names, by its base in units of 64 KiB. -/
def wordPage (x : DWord) : Nat :=
  let p := x.toNat / 2 ^ 16 % 2 ^ 40
  match x.toNat / 2 ^ 14 % 4 with
  | 1 => p / 32 * 32
  | 2 => p / 16384 * 16384
  | _ => p

/-- Whether the page that a page word names holds a page of 64 KiB. -/
def wordCovers (x : DWord) (page : Nat) : Bool :=
  let n := match x.toNat / 2 ^ 14 % 4 with
    | 1 => 32
    | 2 => 16384
    | _ => 1
  wordPage x ≤ page && page < wordPage x + n

/-- What names a faulting page: the page that its word names, and for an address that is not canonical the whole number of
its page, which its word does not show (R36, R38). -/
def pageKey (vp : Nat) (word : DWord) : Nat := if 2 ^ 40 ≤ vp then vp else wordPage word

/-- The page words of distinct pages with what names them, in order of first appearance. -/
def distinct (xs : List (Nat × DWord)) : List (Nat × DWord) :=
  xs.foldl (fun acc x =>
    let k := pageKey x.1 x.2
    if acc.any fun y => y.1 == k then acc else acc ++ [(k, x.2)]) []

/-- Whether a page is in the table of pending faulting pages of a die. -/
def pagePending (d : Die) (part pasid page : Nat) : Bool :=
  d.pages.any fun p => p.part == part && p.pasid == pasid && p.va == page

/-- Write a translation fault's record: its new pages enter the table under its number; with every page pending already
the record is a duplicate and asks no decision (R37). -/
def recordFault (s : State) (die : Nat) (r : FRec) (pages : List Nat) : State :=
  let d := s.die die
  let fresh := pages.filter fun p => !pagePending d r.part r.pasid p
  let first := ((d.pages.filter fun p => p.part == r.part && p.pasid == r.pasid && pages.contains p.va).map (·.fid)).min?
  if fresh = [] then pushFault s r.part { r with dup := true, under := first } false
  else if 256 < d.pages.length + fresh.length then s.updDie die fun d => { d with unrec := d.unrec ++ [(r, pages)] }
  else
    let fid := (s.part r.part).nextF
    let s := s.updDie die fun d =>
      { d with pages := d.pages ++ fresh.map fun p => { part := r.part, pasid := r.pasid, va := p, fid := fid } }
    pushFault s r.part { r with dup := false } true

/-- A wave is suspended by faulting pages, given by the page of the address and the page word: one record for all of them,
up to four listed in lane order. -/
def faultWave (s : State) (id : Nat) (pc : DWord) (lanes : LaneSet) (faults : List (Nat × DWord)) : State :=
  let ws := distinct faults
  let w := s.wave id
  let r := { waveRec s id w pc lanes with pages := (ws.take 4).map (·.2), more := ws.length - 4 }
  let s := (suspendWave s id .fault).updWave id fun w => { w with xpages := [], xfault := [] }
  recordFault s (coreDie w.core) r (ws.map (·.1))

/-- Every page that an instruction translates has been walked. -/
def pagesDone (s : State) (w : Wave) : Bool :=
  w.xpages.all fun p => w.xfault.any (·.1 == p) || (lookup s w.core (s.partNo w) (s.gridOf w).pasid (p * 65536)).isSome

/-- The last walk that a wave waits for is done: with a page faulted the wave is suspended (R35, R36). -/
def faultIfDone (s : State) (id : Nat) : State :=
  let w := s.wave id
  if waveWaits s id ∨ ¬ pagesDone s w ∨ w.xfault = [] then s
  else
    match w.iss.runPc with
    | none => s
    | some pc => faultWave s id pc (w.pathAt pc) (w.xpages.filterMap fun p => w.xfault.find? fun f => f.1 == p)

/-- The page word of a translation that faults, and what one that is found gives. -/
def Xlat.word? : Xlat → Option DWord
  | .fault word => some word
  | _ => none
def Xlat.found? : Xlat → Option (Nat × TlbEnt)
  | .ok pa e => some (pa, e)
  | _ => none

/-- Note the page word of an address whose page has faulted, once for a page. -/
def noteFault (acc : List (Nat × DWord)) (x : (Nat × Access) × Xlat) : List (Nat × DWord) :=
  match x.2.word? with
  | none => acc
  | some word => if acc.any (·.1 == x.1.1 / 65536) then acc else acc ++ [(x.1.1 / 65536, word)]

/-- The faults of translated addresses: the page of the address and the page word. -/
def xlatFaults (vas : List (Nat × Access)) (xs : List Xlat) : List (Nat × DWord) :=
  (vas.zip xs).filterMap fun x => x.2.word?.map fun word => (x.1.1 / 65536, word)

/-- Note what the translation of an instruction has found, for the walks that it waits for. -/
def noteXlat (s : State) (id : Nat) (vas : List (Nat × Access)) (xs : List Xlat) : State :=
  s.updWave id fun w => { w with xpages := vas.map (·.1 / 65536), xfault := (vas.zip xs).foldl noteFault w.xfault }

/-- Translate the addresses of an instruction of the focus wave. With all of them translated the continuation runs;
while some page is still to be walked nothing happens; when the last walk is done and a page has faulted, the wave is
suspended and no lane is performed. -/
def withXlat (s : State) (c : Ctx) (vas : List (Nat × Access))
    (k : Ctx → State → List (Nat × TlbEnt) → State) : State :=
  let r := xlatAll (.wave c.id) c.w vas s
  let faults := xlatFaults vas r.2
  if r.2.any fun x => x == .miss then noteXlat r.1 c.id vas r.2
  else if faults ≠ [] then faultWave r.1 c.id c.pc c.path faults
  else k { c with w := { c.w with xpages := [], xfault := [] } } r.1 (r.2.filterMap Xlat.found?)

/-! ## Invalidation (R34) -/

/-- Whether an entry matches an invalidation: scope 0 one page, 1 one PASID, 2 the partition. -/
def invMatch (e : TlbEnt) (part scope pasid vpn : Nat) : Bool :=
  e.part == part && (scope == 2 || (e.pasid == pasid && (scope == 1 || (decide (e.va / 65536 ≤ vpn) &&
    decide (vpn < (e.va + e.size) / 65536)))))

/-- Remove the matching translations and walk-cache entries everywhere. -/
def invalidate (s : State) (part scope pasid vpn : Nat) : State :=
  let keep := fun t : List TlbEnt => t.filter fun e => !invMatch e part scope pasid vpn
  { s with
    cores := tmap s.cores fun _ c => { c with tlb := keep c.tlb },
    clusters := tmap s.clusters fun _ c => { c with tlb := keep c.tlb },
    dies := tmap s.dies fun _ d =>
      { d with tlb := keep d.tlb,
               walks := d.walks.filter fun e => !(e.part == part && (scope == 2 || e.pasid == pasid)) } }

end Sys2Proof.Machine
end

