-- ==== Sys2Proof/Machine/Requests.lean ====
section
/-! DEFINITION. Lane requests: their limits, tokens and order, the L1, performing a request at its home, and its reply
(R58, R100 to R107, R148, R199, R435 to R437). -/

namespace Sys2Proof.Machine

/-! ## Program order of a thread (R107, R148) -/

/-- Whether a request belongs to the present life of a wave: its tag is the wave's and it is not orphaned (R436). -/
def liveReq (s : State) (r : Req) : Bool := !r.orphan && r.gen == (s.wave r.wave).gen

/-- An MWAIT read that has been performed, and whose word is now watched or read again (R221, R223). -/
def Req.watching (r : Req) : Bool :=
  match r.kind with
  | .mwait .. => r.armed
  | _ => false

/-- A request without a token, whose replay after a halt would read afresh: what follows it in its thread is performed only
when its reply has been taken, so that a replay never comes after it (R107, R148, R435). -/
def Req.replays (r : Req) : Bool := r.token.isNone && !r.kind.isPref

/-- Requests that stand before number `id`, of one lane or one instruction, and are not performed yet, would be replayed, or
have been turned back (R442). -/
def earlierReq (s : State) (id : Nat) (r : Req) : Bool :=
  (s.reqs.any fun e => e.1 < id && r.follows e.2 && !e.2.kind.isPref && !e.2.watching) ||
    (s.reps.any fun e => e.1 < id && r.follows e.2.req && e.2.req.replays) ||
    (s.wave r.wave).packets.any fun p => p.seq < id && r.follows p.req

/-- A request as it is saved for a replay, under its number (R435). -/
def Req.packed (r : Req) (id : Nat) : Packet :=
  { seq := id, req := { r with armed := false, held := none, acks := 0, got := [] } }

/-- An accumulate aimed at a peer, which is asynchronous (R138). -/
def ReqKind.isAcc : ReqKind → Bool
  | .acc .. => true
  | _ => false

/-- Whether a lane has accesses that are not performed yet, or that a halt would have replayed. -/
def laneBusy (s : State) (wave lane : Nat) : Bool :=
  (s.reqs.any fun e => liveReq s e.2 && !e.2.kind.isPref && !e.2.kind.isAcc && e.2.wave == wave && e.2.lanes.getLsbD lane) ||
    s.reps.any fun e => liveReq s e.2.req && e.2.req.replays && e.2.req.wave == wave && e.2.req.lanes.getLsbD lane

/-- Whether some lane of a set has. -/
def lanesBusy (s : State) (wave : Nat) (m : LaneSet) : Bool := (lanesOf m).any fun l => laneBusy s wave l

/-- Whether a lane waits for the acknowledgement of a peer access (R151). -/
def peerBusy (s : State) (wave : Nat) (m : LaneSet) : Bool :=
  s.reqs.any fun e => liveReq s e.2 && e.2.wave == wave && 1024 ≤ e.2.home && e.2.lanes &&& m != 0

/-- The greatest timestamp of performed accesses of a lane or instruction whose replies are still on their way. -/
def laneT (s : State) (wave lane flight : Nat) : Nat :=
  s.reps.foldl (fun m e =>
    if e.2.req.wave == wave && liveReq s e.2.req && (e.2.req.lanes.getLsbD lane || e.2.req.flight == flight) then max m e.2.t
    else m) 0

/-- The pts with which a request is performed: its core's, and no lower than the thread's performed accesses, before and
after a halt of its wave. -/
def reqPts (s : State) (r : Req) : Nat := max (s.core r.core).pts r.low

/-- The pts with which a lane performs an access at issue. -/
def lanePts (s : State) (core wave lane : Nat) : Nat := max (s.core core).pts (laneT s wave lane s.nextId)

/-- Raise a core's pts. -/
def raisePts (s : State) (core t : Nat) : State := s.updCore core fun c => { c with pts := max c.pts t }

/-! ## Limits (R435 to R437) -/

/-- Requests of a wave, and of a core, that await replies; a core that has been reset has none of its former ones (R121). -/
def waveReqs (s : State) (wave : Nat) : Nat :=
  (s.reqs.filter fun e => liveReq s e.2 && e.2.wave == wave).length +
    (s.reps.filter fun e => liveReq s e.2.req && e.2.req.wave == wave).length
def coreReqs (s : State) (core : Nat) : Nat :=
  let here := fun r : Req => r.core == core && r.agen == (s.die (coreDie core)).gen
  (s.reqs.filter fun e => here e.2).length + (s.reps.filter fun e => here e.2.req).length

/-- Tokens of a cluster that are not released. -/
def clusterTokens (s : State) (cluster : Nat) : Nat := (s.tokens.filter fun e => e.2.cluster == cluster).length

/-- Whether `n` more requests, `k` of them with tokens, can be sent. What sends none needs no room. -/
def roomFor (s : State) (w : Wave) (id n k : Nat) : Bool :=
  (n == 0 || waveReqs s id + n ≤ 256 && coreReqs s w.core + n ≤ 4096) &&
    (k == 0 || clusterTokens s (coreCluster w.core) + k ≤ 2048)

/-- A new token of a cluster: the cluster in bits 31:25, its sequence number below (R437). -/
def newToken (s : State) (cluster : Nat) (wave : Option Nat) : Nat × State :=
  let c := s.cluster cluster
  let tok := cluster * 2 ^ 25 + c.tokSeq
  (tok, { s.setCluster cluster { c with tokSeq := (c.tokSeq + 1) % 2 ^ 25 } with
          tokens := tput s.tokens tok { cluster := cluster, wave := wave, consumed := false } })

/-- Send a request. -/
def sendReq (s : State) (r : Req) (token : Bool) : State :=
  let (tok, s) := if token then let x := newToken s (coreCluster r.core) (some r.wave); (some x.1, x.2) else (none, s)
  let (i, s) := s.newId
  { s with reqs := tput s.reqs i { r with token := tok, remote := remoteOf s r.part r.pa } }

/-- A request of a lane of an issuing instruction. -/
def laneReq (s : State) (c : Ctx) (kind : ReqKind) (lane flight pa va size home l1 hhint : Nat) : Req :=
  { kind := kind, core := c.w.core, wave := c.id, part := s.partNo c.w, gen := c.w.gen, agen := (s.die (coreDie c.w.core)).gen,
    lane := lane, flight := flight, pa := pa, va := va, size := size, home := home, l1 := l1, hhint := hhint, token := none,
    orphan := false, armed := false, held := none, low := laneT s c.id lane flight, acks := 0, got := [] }

/-! ## The L1 (R56, R58, R199) -/

/-- Lines and sets of an L1 at a split. -/
def l1Lines (split : Nat) : Nat := 512 * 2 ^ split
def l1Set (split line : Nat) : Nat := line % (l1Lines split / 8)

/-- A read that misses and finds its line in the victim tags raises the score of the wave that evicted it (R199). -/
def victimHit (s : State) (core line : Nat) : State :=
  match (s.core core).victims.find? fun e => e.1 == line with
  | none => s
  | some e => s.updWave e.2 fun w => { w with iss := { w.iss with score := min 255 (w.iss.score + 1) } }

/-- Replacement rank of an L1 line (R58, R325). -/
def l1Rank (l : L1Line) : Nat := (if l.hint = 1 then 0 else if l.hint = 2 then 2 else 1) * 2 ^ 128 + l.last

/-- Keep a copy in an L1, evicting within its set; the victim's tag records the wave (R199). -/
def l1Fill (s : State) (core wave line : Nat) (x : L1Line) : State :=
  let c := s.core core
  let set := tsel c.l1 fun k _ => k != line && l1Set c.split k == l1Set c.split line
  let c := if set.length < 8 then c
    else match leastBy (fun e => l1Rank e.2) set with
      | none => c
      | some e => { c with l1 := tdel c.l1 e.1, victims := ((e.1, wave) :: c.victims).take 256 }
  s.setCore core { c with l1 := tput c.l1 line x }

/-- Drop a copy (R105). -/
def l1Drop (s : State) (core line : Nat) : State := s.updCore core fun c => { c with l1 := tdel c.l1 line }

/-- A read served by a valid copy: the copy and the timestamp of the read (R101, R330). -/
def l1Hit (s : State) (core line pts : Nat) : Option (L1Line × Nat) :=
  match tget (s.core core).l1 line with
  | none => none
  | some x => if pts ≤ x.rts then some (x, max pts x.wts) else none

/-! ## Values -/

/-- The words that a load writes. -/
def destWords (d : DestKind) (bs : List Byte) : List Word :=
  match d with
  | .ext signed bits => [extend signed bits (BitVec.ofNat 64 (bytesNat bs))]
  | .words n => (bytesWords bs).take n
  | _ => []

/-- The new value of an atomic (Table 15-4, R123). -/
def atomOp (aop : Aop) (ty : Ty) (old b cmp : DWord) : DWord :=
  let w := ty.is64
  let m := fun x : DWord => if w then x else (loWord x).setWidth 64
  match aop with
  | .add =>
    match ty with
    | .f32 => BitVec.ofNat 64 (f32.add .rn false (f32.decode false (loWord old).toNat) (f32.decode false (loWord b).toNat)).bits
    | .f64 => BitVec.ofNat 64 (f64.add .rn false (f64.decode false old.toNat) (f64.decode false b.toNat)).bits
    | _ => m (old + b)
  | .min => minW ty old b
  | .max => maxW ty old b
  | .and => old &&& b
  | .or => old ||| b
  | .xor => old ^^^ b
  | .exch => m b
  | .cas => if m old = m cmp then m b else m old

/-- A floating addition of an accumulate, in one format (R123). -/
def accFadd (f : FFmt) (a b : Nat) : Nat := (f.add .rn false (f.decode false a) (f.decode false b)).bits

/-- Both halves of a packed pair. -/
def accPair (f : FFmt) (a b : DWord) : DWord :=
  BitVec.ofNat 64 (accFadd f (a.toNat % 65536) (b.toNat % 65536) +
    65536 * accFadd f (a.toNat / 65536 % 65536) (b.toNat / 65536 % 65536))

/-- Two values of an accumulate combined (R123, R128). -/
def accCombine (aop : AccOp) (ty : Ty) (a b : DWord) : DWord :=
  match aop with
  | .add =>
    match ty with
    | .bf16x2 => accPair bf16 a b
    | .f16x2 => accPair f16 a b
    | _ => atomOp .add ty a b 0
  | .min => atomOp .min ty a b 0
  | .max => atomOp .max ty a b 0

/-- The value that the residual window shows: an entry combined with its part in flight (R133). -/
def ResEnt.shown (e : ResEnt) : DWord :=
  match e.flying with
  | none => e.val
  | some x => if e.mixed then accCombine e.key.aop e.key.ty x e.val else x

/-! ## Performing a request at its home -/

/-- Answer a token that was performed before (R437). -/
def tokenAnswer (s : State) (id : Nat) (r : Req) : Option State :=
  match r.token with
  | none => none
  | some tok => match tget s.toks tok with
    | none => none
    | some e => some (sendReply s id e.result e.t 0 0 [] 0 false)

/-- Keep the result of a request with a token (R437). -/
def keepToken (s : State) (r : Req) (result : List Word) (t : Nat) : State :=
  match r.token with
  | none => s
  | some tok => { s with toks := tput s.toks tok { home := r.home, result := result, t := t } }

/-- Put a request back with a mark. -/
def setReq (s : State) (id : Nat) (r : Req) : State := { s with reqs := tput s.reqs id r }

/-- A request that the ceiling holds (R117). -/
def holdReq (s : State) (id : Nat) (r : Req) (t : Nat) : State := setReq s id { r with held := some t }

/-- A read (R100, R102) or prefetch (R330) performed at its home. -/
def performRead (s : State) (id : Nat) (r : Req) (renew : Option Nat) : State :=
  let lease := (s.part r.part).regs.lease
  match homeReadAt s r.home r.pa r.size (reqPts s r) (some lease) renew r.hhint with
  | .error t => holdReq s id r t
  | .ok (s, o) => sendReply s id (bytesWords o.data) o.t o.wts o.rts o.line 0 o.bad

/-- A store or atomic performed at its home (R104, R333): the bytes it writes and the words it returns. -/
def performWrite (s : State) (id : Nat) (r : Req) (new : List Byte) (ret : List Word) : State :=
  match tokenAnswer s id r with
  | some s => s
  | none =>
    if writeWaits s r.home r.pa then setReq s id { r with armed := true }
    else match homeWriteAt s r.home r.pa (reqPts s r) new (if liveReq s r then some r.core else none) r.hhint with
      | .error t => holdReq s id r t
      | .ok (s', t) => sendReply (keepToken s' r ret t) id ret t t t [] 0 (poisoned s r.pa r.size && ret ≠ [])

/-- Answer a request that is performed as it is sent: its token is kept with the result, and its reply is on its way. -/
def answerAt (s : State) (r : Req) (words : List Word) (t : Nat) (token : Bool) : State :=
  let id := s.nextId
  let s := sendReq s r token
  match tget s.reqs id with
  | none => s
  | some q => sendReply (keepToken s q words t) id words t 0 0 [] 0 false

/-- Perform a request at its home by its kind. A CCTL.use is performed when it is sent, so its replay is only answered
(R331, R437). -/
def perform (s : State) (id : Nat) (r : Req) : State :=
  match r.kind with
  | .read renew => performRead s id r renew
  | .pref _ => performRead s id r none
  | .write data => performWrite s id r data []
  | .atom aop ty b cmp =>
    let old := s.rd r.pa r.size
    let new := atomOp aop ty (BitVec.ofNat 64 (bytesNat old)) b cmp
    performWrite s id r (natBytes new.toNat r.size) (bytesWords old)
  | .cctl => (tokenAnswer s id r).getD s
  | _ => s

/-- What a home has charged a partition in the current window of 1,024 cycles (R130). -/
def chargeOf (s : State) (home part : Nat) : Nat :=
  let h := s.home home
  if h.window = s.cycle / 1024 then (tget h.charges part).getD 0 else 0

/-- Charge a partition. The windows of every home are those of the device's cycle count: the manual does not say from when a
home counts its cycles (DESIGN CHOICE, log entry 58). -/
def charge (s : State) (home part n : Nat) : State :=
  let h := s.home home
  let old := if h.window = s.cycle / 1024 then h.charges else []
  s.setHome home { h with window := s.cycle / 1024, charges := tput old part ((tget old part).getD 0 + n) }

/-- Whether a request is an atomic. -/
def ReqKind.isAtom : ReqKind → Bool
  | .atom .. => true
  | _ => false

/-- The floor of a partition in unit-cycles of a window: its effective floor of resource 2 (R130, R451). -/
def accFloor (s : State) (part : Nat) : Nat := 4 * (tget (s.part part).regs.effs 2).getD 0

/-- The unit queue of a home. -/
def unitQueue (s : State) (home : Nat) : List Nat := (tget s.unitQ home).getD []

/-- OverShare (R130). Banks and memory-side units serve one partition only. -/
def overShare (s : State) (home part : Nat) : Bool :=
  decide (780 ≤ home) && decide (accFloor s part ≤ chargeOf s home part) &&
    (unitQueue s home).any fun i => match tget s.areqs i with
      | none => false
      | some r => decide (chargeOf s home r.key.part < accFloor s r.key.part)

/-- A request is performed. An atomic of a partition over its share waits behind the requests of partitions below their
floors, and one that its home has performed is charged one unit-cycle (R130). -/
def performCharged (s : State) (id : Nat) (r : Req) : State :=
  if r.kind.isAtom && (tokenAnswer s id r).isNone then
    if overShare s r.home r.part then s
    else
      let t := perform s id r
      if (tget t.reqs id).isNone then charge t r.home r.part 1 else t
  else perform s id r

/-- Whether a home holds a request until the ceiling or the host lets it go on (R114, R116, R117). -/
def Req.holds (r : Req) : Bool := r.held.isSome || (r.armed && !r.watching)

/-- Whether a request may be performed at its home now. A home that a warm reset stops still performs what it holds (R446). -/
def mayPerform (s : State) (id : Nat) (r : Req) : Bool :=
  r.home < 1024 && (r.holds || !homeOffline s r.home) && !earlierReq s id r

/-- The performing events share this: the request is there, may be performed, and is of a kind that the event serves. -/
def performEvent (s : State) (id : Nat) (kind : ReqKind → Bool) : State :=
  match tget s.reqs id with
  | none => s
  | some r => if kind r.kind && mayPerform s id r && r.held.isNone && !r.armed then performCharged s id r else s

/-- HOME_READ: a read without a lease to renew, or a prefetch (R100, R330). -/
def execHomeRead (req : Nat) (s : State) : Out :=
  .next (performEvent s req fun k => match k with
    | .read none => true
    | .pref _ => true
    | _ => false)

/-- LEASE_RENEWAL: a read that carries the wts of its copy (R102). -/
def execLeaseRenewal (req : Nat) (s : State) : Out :=
  .next (performEvent s req fun k => match k with
    | .read (some _) => true
    | _ => false)

/-- HOME_WRITE (R104). -/
def execHomeWrite (req : Nat) (s : State) : Out :=
  .next (performEvent s req fun k => match k with
    | .write _ => true
    | .cctl => true
    | _ => false)

/-- READ_MODIFY_WRITE (R104, R333). -/
def execReadModifyWrite (req : Nat) (s : State) : Out :=
  .next (performEvent s req fun k => match k with
    | .atom .. => true
    | _ => false)

/-- CEILING_HOLD_RELEASE: the ceiling has reached the timestamp of a held request (R117). -/
def execCeilingHoldRelease (req : Nat) (s : State) : Out :=
  .next (match tget s.reqs req with
    | none => s
    | some r => match r.held with
      | none => s
      | some t =>
        if t ≤ s.ceil ∧ mayPerform s req r then
          let r := { r with held := none }
          performCharged (setReq s req r) req r
        else s)

/-- L2_LINE_FILL (R111): a home fills a line that it does not hold; a memory-side unit fills for a request that waits there,
since only its page tells that the line is its own. -/
def execL2LineFill (home line : Nat) (s : State) : Out :=
  .next (
    let asked := (s.reqs.any fun r => r.2.home == home && r.2.pa / 128 == line) ||
      s.areqs.any fun r => r.2.home == home && r.2.key.line == line
    if home < 796 ∧ (homeOf (128 * line) false = home ∨ (homeOf (128 * line) true = home ∧ asked)) ∧ ¬ homeOffline s home then
      fillLine s home (128 * line)
    else s)

/-! ## Replies at the core -/

/-- The token of a consumed reply may be released (R437). -/
def consumeToken (s : State) (tok : Option Nat) : State :=
  match tok with
  | none => s
  | some t => { s with tokens := tupd s.tokens t fun x => { x with consumed := true } }

/-- Whether a reply is accepted: its entry is live, its tag is the wave's (R435, R436), and it is addressed to the present
agent generation of the die (R121). -/
def accepted (s : State) (r : Req) : Bool :=
  liveReq s r && r.agen == (s.die (coreDie r.core)).gen && (tget s.waves r.wave).isSome

/-- A copy that comes with a reply is kept in the core's L1 (R58), unless the hint forbids it (R325). -/
def keepCopy (s : State) (rep : Reply) (pref : Bool) : State :=
  if rep.line = [] ∨ rep.req.l1 = 3 then s
  else
    let (i, s) := s.newId
    let line := rep.req.pa / 128
    let old := ((tget (s.core rep.req.core).l1 line).map (·.hint)).getD 0
    l1Fill s rep.req.core rep.req.wave line
      { bad := false, wts := rep.wts, rts := rep.rts, data := rep.line, pref := pref, last := i,
        hint := if rep.req.l1 = 0 then old else rep.req.l1 }

/-- Words that an instruction in flight collects, `n` for each lane, until it takes them all: return addresses (R297) and
descriptors (R349). -/
def collectLane (s : State) (fid lane n : Nat) (ws : List Word) : State :=
  match tget s.flights fid with
  | none => s
  | some f =>
    { s with flights := tput s.flights fid { f with
        left := f.left &&& ~~~((1 : LaneSet) <<< lane),
        vals := (List.range n).foldl (fun v i => v.set (n * lane + i) (ws.getD i 0)) f.vals } }

/-- Requests that are not performed yet are withdrawn, and their tokens may be released. -/
def withdraw (s : State) (p : Req → Bool) : State :=
  { s with
    reqs := tsel s.reqs fun _ r => !p r,
    tokens := tmap s.tokens fun k t => if s.reqs.any fun e => p e.2 && e.2.token == some k then { t with consumed := true } else t }

/-- An instruction that has not been performed before all its words are there is executed afresh when one holds an error. -/
def Flight.afresh (f : Flight) (s : State) (fid : Nat) : State :=
  if f.dest = .ret ∨ f.dest = .desc then endFlight (withdraw s fun r => r.flight == fid && r.token.isSome) fid else s

/-- The words of a read reach one lane of its instruction in flight; poisoned ones are not written (R443). -/
def takeWords (s : State) (fid : Nat) (f : Flight) (lane : Nat) (ws : List Word) (bad : Bool) : State :=
  match f.dest with
  | .ret => collectLane s fid lane 2 ws
  | .desc => collectLane s fid lane 8 ws
  | d => laneDone (if bad then s else writeLane s f lane (destWords d (wordsBytes ws))) fid lane

/-- The effect of an accepted reply: pts rises to its timestamp (R100, R104), its words are written, its token is
consumed and its lanes are done. Poisoned words trap the team (R443). -/
def acceptReply (s : State) (rep : Reply) : State :=
  let r := rep.req
  let s := raisePts s r.core rep.t
  let s := keepCopy s rep false
  let s := consumeToken s r.token
  match tget s.flights r.flight with
  | none => s
  | some f =>
    let s := (lanesOf r.lanes).foldl (fun s l => takeWords s r.flight f l rep.words rep.poisoned) s
    if rep.poisoned then storageTrap (f.afresh s r.flight) r.wave r.pa else s

/-- MWAIT returns when the lanes of every word have been satisfied (R339). -/
def mwaitEnd (s : State) (id : Nat) : State :=
  match (s.wave id).blocked with
  | .mwait f => if (tget s.flights f).isNone then wake s id else s
  | _ => s

/-- Work of a partition has reached a timestamp: the completion of its grids comes no earlier (R155). -/
def gridTop (s : State) (part t : Nat) : State :=
  { s with grids := tmap s.grids fun _ g => if g.part = part then { g with top := max g.top t } else g }

/-- A reply that is not accepted only frees its entry (R435, R436). One to a wave that has retired tells that its last accesses
have been performed (R170, R298); a GNEWG among them goes on. -/
def staleReply (s : State) (rep : Reply) : State :=
  let r := rep.req
  if (tget s.waves r.wave).isSome then s
  else
    let s := gridTop s r.part rep.t
    match tget s.flights r.flight with
    | none => s
    | some f =>
      if s.reqs.any fun e => e.2.flight == r.flight then
        if rep.poisoned then f.afresh s r.flight
        else match r.kind with
          | .read _ => collectLane s r.flight r.lane 8 rep.words
          | _ => s
      else { s with flights := tdel s.flights r.flight }

/-- A reply event. -/
def replyEvent (s : State) (id : Nat) (kind : ReqKind → Bool) : State :=
  match tget s.reps id with
  | none => s
  | some rep =>
    if kind rep.req.kind then
      let s1 := { s with reps := tdel s.reps id }
      if accepted s rep.req then
        match rep.req.kind with
        | .pref keep => laneDone (if keep then keepCopy s1 rep true else s1) rep.req.flight rep.req.lane
        | _ => mwaitEnd (acceptReply s1 rep) rep.req.wave
      else staleReply s1 rep
    else s

/-- The results that an instruction in flight keeps are written, with the predicate of a graph status (R345), its pending bits clear and its scoreboard counts down
(R250, R251). -/
def deliverKept (s : State) (fid : Nat) : State :=
  match tget s.flights fid with
  | none => s
  | some f => match f.dest with
    | .kept n =>
      if f.vals.length = 32 * n then
        let s := s.updWave f.wave fun w => w.pput f.pd (f.left &&& w.live) fun l => (f.vals.drop (n * l)).headD 0 == 0
        endFlight ((lanesOf f.left).foldl (fun s l => writeLane s f l ((f.vals.drop (n * l)).take n)) s) fid
      else s
    | _ => s

/-- READ_REPLY: of a load, an MWAIT read or a prefetch (R100, R222, R250, R330, R435, R443); or of an instruction that is performed at its issue, whose results stand
in flight under the number `rep` (log entry 17). -/
def execReadReply (rep : Nat) (s : State) : Out :=
  .next (if (tget s.flights rep).isSome then deliverKept s rep
    else replyEvent s rep fun k => match k with
      | .read _ => true
      | .mwait .. => true
      | .pref _ => true
      | _ => false)

/-- TOKEN_RELEASE: a cluster releases a token whose reply is consumed; the home drops its entry (R437). A token that a
request still on its way carries is not released, so that no entry goes before the last request that it answers. -/
def execTokenRelease (token : BitVec 32) (s : State) : Out :=
  .next (match tget s.tokens token.toNat with
    | none => s
    | some t =>
      if t.consumed && !(s.reqs.any fun e => e.2.token == some token.toNat) then { s with tokens := tdel s.tokens token.toNat, toks := tdel s.toks token.toNat } else s)

end Sys2Proof.Machine
end

