-- ==== Sys2Proof/Machine/LoadStore.lean ====
section
/-! DEFINITION. Loads, stores, prefetch, cache control and atomics, global and local (spec/15: R322 to R333; local
space R43 to R46 and R143). -/

namespace Sys2Proof.Machine

/-! ## Addresses -/

/-- A global effective address (R20). -/
def gea (s : State) (w : Wave) (a : Src) (off : BitVec 24) (lane : Nat) : Nat := (rd64 s w lane a + off.signExtend 64).toNat

/-- A local effective address (R43). -/
def lea32 (s : State) (w : Wave) (a : Src) (off : BitVec 24) (lane : Nat) : Nat := (rd32 s w lane a + off.signExtend 32).toNat

/-- The first lane of a list whose address is not a multiple of the size (R21). -/
def misaligned (n : Nat) (eas : List (Nat × Nat)) : Option Nat := (eas.find? fun e => e.2 % n != 0).map (·.2)

/-- The lanes of E with their addresses. -/
def laneAddrs (E : LaneSet) (f : Nat → Nat) : List (Nat × Nat) := (lanesOf E).map fun l => (l, f l)

/-- A lane, its virtual address, its physical address and its translation. -/
structure LaneAcc where
  lane : Nat
  va   : Nat
  pa   : Nat
  e    : TlbEnt
  deriving DecidableEq, Repr

/-- Join lanes with their translations. -/
def laneAccs (eas : List (Nat × Nat)) (xs : List (Nat × TlbEnt)) : List LaneAcc :=
  (eas.zip xs).map fun p => { lane := p.1.1, va := p.1.2, pa := p.2.1, e := p.2.2 }

/-- A global memory instruction (R327): alignment, translation of every lane, then room for its requests; until then
it does not issue. -/
def globalOp (s : State) (hd : Hdr) (u : Use) (n : Nat) (acc : Access) (ea : Wave → Nat → Nat) (toks : Nat → Nat)
    (lanes : LaneSet → LaneSet) (k : Ctx → State → List LaneAcc → State) : State :=
  issue s hd u fun c =>
    let eas := laneAddrs (lanes c.E) (ea c.w)
    match misaligned n eas with
    | some va => trapCtx s c 3 va
    | none =>
      withXlat s c (eas.map fun e => (e.2, acc)) fun c s xs =>
        if peerBusy s c.id (lanes c.E) then s
        else if roomFor s c.w c.id eas.length (toks eas.length) then k c s (laneAccs eas xs) else s

/-- All lanes of E, or its lowest one (R329). -/
def oneLane (E : LaneSet) : LaneSet :=
  match lowLane E with
  | none => 0
  | some l => (1 : LaneSet) <<< l

/-- The record of an instruction in flight. -/
def flightOf (c : Ctx) (hd : Hdr) (regs : List Nat) (dest : DestKind) (d : DReg) : Flight :=
  { wave := c.id, sb := hd.h.set.map (·.toNat), regs := regs, left := 0, dest := dest, d := d, pd := 7, cur := none,
    pc := c.pc, first := firstLane c.E, lanes := c.path, vals := [] }

/-- An instruction that is performed at its issue: its results, `n` words for each lane, stand in flight with its pending
bits and its scoreboard until READ_REPLY writes them (R250, R251, log entry 17). -/
def keepResults (s : State) (c : Ctx) (hd : Hdr) (regs : List Nat) (n : Nat) (d : DReg) (vals : Nat → List Word) : State :=
  if c.E = 0 then finishNext s c hd c.w
  else
    let fl := { flightOf c hd regs (.kept n) d with
      left := c.E, vals := (List.range 32).flatMap fun l => (vals l ++ List.replicate n 0).take n }
    let r := startFlight s fl (s.wave c.id)
    finishNext r.2.1 c hd r.2.2

/-- Send the lanes of an instruction in flight one after another; `f` tells whether a lane still waits for a reply. -/
def sendLanes (f : Nat → LaneAcc → State → State × Bool) (fid : Nat) : List LaneAcc → State → LaneSet → State × LaneSet
  | [], s, m => (s, m)
  | x :: xs, s, m =>
    let r := f fid x s
    sendLanes f fid xs r.1 (if r.2 then m ||| ((1 : LaneSet) <<< x.lane) else m)

/-- The issue of an instruction whose lanes may await replies: it goes in flight, its lanes are sent, and one whose
lanes are all done is over at once. With no lane nothing is performed (R326). -/
def flyLanes (s : State) (c : Ctx) (hd : Hdr) (fl : Flight) (xs : List LaneAcc)
    (f : Nat → LaneAcc → State → State × Bool) : State :=
  if xs = [] then finishNext s c hd c.w
  else
    let r := startFlight s fl c.w
    let t := sendLanes f r.1 xs (r.2.1.setWave c.id r.2.2) 0
    let s := { t.1 with flights := tupd t.1.flights r.1 fun x => { x with left := t.2 } }
    let s := if t.2 = 0 then endFlight s r.1 else s
    finishNext s c hd (s.wave c.id)

/-! ## Global loads and stores -/

/-- The hint that an L1 copy has after an access: the codes that do not order replacement leave it (R325, log entry 58). -/
def hintOn (ch : CHint) (old : Nat) : Nat := if ch.l1 = 1 ∨ ch.l1 = 2 then ch.l1.toNat else old

/-- One lane of a load: a valid copy serves it at once when nothing earlier of the thread or of a lower lane is still
to be performed (R101, R107, R148); otherwise a request goes to the home, a renewal if a copy has expired (R102). A copy
that holds an uncorrectable error gives no value (R443). -/
def loadLane (c : Ctx) (ch : CHint) (n : Nat) (fid : Nat) (x : LaneAcc) (s : State) : State × Bool :=
  let core := c.w.core
  let line := x.pa / 128
  let home := homeOf x.pa x.e.ms
  let pts := lanePts s core c.id x.lane
  let clear := !laneBusy s c.id x.lane && !(s.reqs.any fun e => e.2.flight == fid) && !s.reps.any fun e => e.2.req.flight == fid
  match l1Hit s core line pts, clear, decide (home < 1024) with
  | some (cp, t), true, true =>
    let (i, s) := s.newId
    let s := s.updCore core fun k => { k with l1 := tput k.l1 line { cp with pref := false, last := i, hint := hintOn ch cp.hint } }
    let s := raisePts s core t
    match tget s.flights fid with
    | none => (s, false)
    | some f =>
      if cp.bad then (if (s.wave c.id).susp = .none then coreTrap (f.afresh s fid) c.id 2 else s, false)
      else
        let bs := (cp.data.drop (x.pa % 128)).take n
        (match f.dest with
          | .desc => collectLane s fid x.lane 8 (bytesWords bs)
          | .ret => collectLane s fid x.lane 2 (bytesWords bs)
          | d => writeLane s f x.lane (destWords d bs), false)
  | _, _, _ =>
    let s := victimHit s core line
    let renew := (tget (s.core core).l1 line).map (·.wts)
    (sendReq s (laneReq s c (.read renew) x.lane fid x.pa x.va n home ch.l1.toNat ch.home.toNat) false, true)

/-- What a load writes, by its type (R227, R327). -/
def loadDest : MemTy → DestKind
  | .i8 => .ext true 8
  | .n8 => .ext false 8
  | .i16 => .ext true 16
  | .n16 => .ext false 16
  | .b32 => .words 1
  | .b64 => .words 2
  | .b128 => .words 4

/-- LD (R327). -/
def execLd (hd : Hdr) (d : DReg) (a : Src) (off : BitVec 24) (ch : CHint) (mt : MemTy) (s : State) : Out :=
  .next (globalOp s hd (useOf (.ld hd d a off ch mt)) (memBytes mt) .read (fun w l => gea s w a off l) (fun _ => 0)
    (fun E => E) fun c s xs =>
      flyLanes s c hd (flightOf c hd (dregs d (memRegs mt)) (loadDest mt) d) xs (loadLane c ch (memBytes mt)))

/-- The bytes that a store writes for a lane (R327). -/
def storeBytes (s : State) (w : Wave) (lane : Nat) (b : Src) (mt : MemTy) : List Byte :=
  match mt with
  | .b128 => natBytes (rdQuad s w lane b).toNat 16
  | .b64 => natBytes (rd64 s w lane b).toNat 8
  | _ => natBytes (rd32 s w lane b).toNat (memBytes mt)

/-- ST (R327): every lane is a request with a token (R437). -/
def execSt (hd : Hdr) (a : Src) (off : BitVec 24) (b : Src) (ch : CHint) (mt : MemTy) (s : State) : Out :=
  .next (globalOp s hd (useOf (.st hd a off b ch mt)) (memBytes mt) .write (fun w l => gea s w a off l) (fun n => n)
    (fun E => E) fun c s xs =>
      flyLanes s c hd (flightOf c hd [] .none .zero) xs fun fid x s =>
        (sendReq s (laneReq s c (.write (storeBytes s c.w x.lane b mt)) x.lane fid x.pa x.va (memBytes mt)
          (homeOf x.pa x.e.ms) ch.l1.toNat ch.home.toNat) true, true))

/-- LDW: one load for the wave, an access of the lowest lane of E (R329). -/
def execLdw (hd : Hdr) (d : BitVec 7) (a : BitVec 7) (off : BitVec 24) (ch : CHint) (ty : Ty) (s : State) : Out :=
  .next (globalOp s hd (useOf (.ldw hd d a off ch ty)) (4 * tyRegs ty) .read (fun w l => gea s w (.w a) off l)
    (fun _ => 0) oneLane fun c s xs =>
      flyLanes s c hd (flightOf c hd (dregs (.w d) (tyRegs ty)) (.words (tyRegs ty)) (.w d)) xs
        (loadLane c ch (4 * tyRegs ty)))

/-! ## Prefetch and cache control -/

/-- One lane of PREF: a request to the home of a line that an L1 may keep. -/
def prefLane (c : Ctx) (ch : CHint) (fid : Nat) (x : LaneAcc) (s : State) : State × Bool :=
  let home := homeOf x.pa x.e.ms
  if home < 796 ∧ copyable home (s.line (lineKey home x.pa)) then
    (sendReq s (laneReq s c (.pref (ch.l1 ≠ 3)) x.lane fid (x.pa / 128 * 128) x.va 1 home ch.l1.toNat ch.home.toNat) false, true)
  else (s, false)

/-- The lanes of a prefetch whose addresses translate. -/
def prefAccs (eas : List (Nat × Nat)) (xs : List Xlat) : List LaneAcc :=
  (eas.zip xs).filterMap fun p => p.2.found?.map fun q => { lane := p.1.1, va := p.1.2, pa := q.1, e := q.2 }

/-- PREF (R330): its pages are walked as those of a load are (R32), and a translation that fails is silent. -/
def execPref (hd : Hdr) (a : Src) (off : BitVec 24) (ch : CHint) (s : State) : Out :=
  .next (issue s hd (useOf (.pref hd a off ch)) fun c =>
    let eas := laneAddrs c.E fun l => gea s c.w a off l
    let vas := eas.map fun e => (e.2, Access.read)
    let r := xlatAll (.pref c.id) c.w vas s
    if r.2.any fun x => x == .miss then noteXlat r.1 c.id vas r.2
    else if roomFor r.1 c.w c.id eas.length 0 then
      let c := { c with w := { c.w with xpages := [], xfault := [] } }
      flyLanes r.1 c hd (flightOf c hd [] .none .zero) (prefAccs eas r.2) fun fid x s => prefLane c ch fid x s
    else r.1)

/-- A cache-control instruction acts on the line of each lane, after every earlier access of its threads has
been performed (R331); an offline home of a line of an L2 bank suspends the wave with cause HOME_OFFLINE. -/
def cctl (s : State) (hd : Hdr) (u : Use) (ea : Wave → Nat → Nat) (acc : Wave → Nat → Access) (toks : Nat → Nat)
    (k : Ctx → State → List LaneAcc → State) : State :=
  issue s hd u fun c =>
    let eas := laneAddrs c.E (ea c.w)
    withXlat s c (eas.map fun e => (e.2, acc c.w e.1)) fun c s xs =>
      if lanesBusy s c.id c.E ∨ ¬ roomFor s c.w c.id (toks eas.length) (toks eas.length) then s
      else
        let as := laneAccs eas xs
        let off := as.filter fun x => homeOf x.pa x.e.ms < 768 && homeOffline s (homeOf x.pa x.e.ms)
        if off ≠ [] then
          faultWave s c.id c.pc c.path (off.map fun x => (x.va / 65536, pageWord x.va x.e.code 8 (acc c.w x.lane)))
        else k c s as

/-- The effect of CCTL.use at the line of a lane: fill it, then set count, mark and home hint (R64, R325, R331). -/
def useLine (s : State) (home pa hint : Nat) (b : Word) : State :=
  if home < 768 then
    let s := fillLine s home pa
    let k := lineKey home pa
    let l := s.line k
    let n := b.toNat % 256
    s.setLine k { l with use := n, dead := n ≠ 0 && b.getLsbD 8, hint := if hint ≠ 0 then hint else l.hint }
  else s

/-- CCTL.use: each lane is performed as its request is sent, and carries a token (R331, R437). -/
def execCctlUse (hd : Hdr) (a : Src) (off : BitVec 24) (b : Src) (ch : CHint) (s : State) : Out :=
  .next (cctl s hd (useOf (.cctlUse hd a off b ch)) (fun w l => gea s w a off l)
    (fun w l => if (rd32 s w l b).getLsbD 8 then .rmw else .read) (fun n => n) fun c s xs =>
      flyLanes s c hd (flightOf c hd [] .none .zero) xs fun fid x s =>
        let home := homeOf x.pa x.e.ms
        let s := useLine s home x.pa ch.home.toNat (rd32 s c.w x.lane b)
        (answerAt s (laneReq s c .cctl x.lane fid x.pa x.va 4 home ch.l1.toNat ch.home.toNat) [] 0 true, true))

/-- CCTL.l1drop (R331). -/
def execCctlL1drop (hd : Hdr) (a : Src) (off : BitVec 24) (ch : CHint) (s : State) : Out :=
  .next (cctl s hd (useOf (.cctlL1drop hd a off ch)) (fun w l => gea s w a off l) (fun _ _ => .read) (fun _ => 0)
    fun c s xs =>
      let s := xs.foldl (fun s x => if homeOf x.pa x.e.ms < 768 then l1Drop s c.w.core (x.pa / 128) else s) (s.setWave c.id c.w)
      keepResults s c hd [] 0 .zero fun _ => [])

/-- CCTL.wb (R331). -/
def execCctlWb (hd : Hdr) (a : Src) (off : BitVec 24) (ch : CHint) (s : State) : Out :=
  .next (cctl s hd (useOf (.cctlWb hd a off ch)) (fun w l => gea s w a off l) (fun _ _ => .read) (fun _ => 0) fun c s xs =>
    let s := xs.foldl (fun s x =>
      let home := homeOf x.pa x.e.ms
      if home < 768 then cleanLine s (lineKey home x.pa) else s) (s.setWave c.id c.w)
    keepResults s c hd [] 0 .zero fun _ => [])

/-! ## Atomics -/

/-- The operand and the compared value of an atomic in a lane (R333). -/
def atomArgs (s : State) (w : Wave) (lane : Nat) (b : Src) (aop : Aop) (ty : Ty) : DWord × DWord :=
  match aop with
  | .cas =>
    if ty.is64 then
      let q := rdQuad s w lane b
      (q.extractLsb' 64 64, q.extractLsb' 0 64)
    else
      let p := rd64 s w lane b
      ((hiWord p).setWidth 64, (loWord p).setWidth 64)
  | _ => (rdW s w lane ty.is64 b, 0)

/-- ATOM on global space (R332, R333). -/
def execAtom (hd : Hdr) (d : DReg) (a : Src) (off : BitVec 24) (b : Src) (ch : CHint) (aop : Aop) (ty : Ty)
    (s : State) : Out :=
  .next (globalOp s hd (useOf (.atom hd d a off b ch aop ty)) (4 * tyRegs ty) .rmw (fun w l => gea s w a off l)
    (fun n => n) (fun E => E) fun c s xs =>
      flyLanes s c hd (flightOf c hd (dregs d (tyRegs ty)) (.words (tyRegs ty)) d) xs fun fid x s =>
        let args := atomArgs s c.w x.lane b aop ty
        (sendReq s (laneReq s c (.atom aop ty args.1 args.2) x.lane fid x.pa x.va (4 * tyRegs ty)
          (homeOf x.pa x.e.ms) ch.l1.toNat ch.home.toNat) true, true))

/-! ## Local space (R43 to R46, R143) -/

/-- Where a byte of a gang's local memory lies: the team slot whose core holds it, and the byte of that core's share (R43). -/
def localPlace (nteam o : Nat) : Nat × Nat := (o / 256 % nteam, o / (256 * nteam) * 256 + o % 256)

/-- The offset in a gang's local memory that a byte of a core's share holds (R43). -/
def localOffset (nteam slot byte : Nat) : Nat := (byte / 256 * nteam + slot) * 256 + byte % 256

/-- Bytes of a gang's local memory. -/
def Gang.rdLoc (g : Gang) (o n : Nat) : List Byte := (List.range n).map fun i => (tget g.loc (o + i)).getD 0

/-- Store bytes: only bytes that are not zero are listed. -/
def locPut (t : Tbl Byte) (o : Nat) (b : Byte) : Tbl Byte := if b = 0 then tdel t o else tput t o b
def locPutAll : Tbl Byte → Nat → List Byte → Tbl Byte
  | t, _, [] => t
  | t, o, b :: bs => locPutAll (locPut t o b) (o + 1) bs

/-- The timestamp of a local block. -/
def Gang.ltOf (g : Gang) (blk : Nat) : Nat := (tget g.lt blk).getD g.ltBase

/-- A local access of a core at its block: its timestamp, the block's and the core's raised to it (R143). -/
def localTouch (s : State) (gang core o pts : Nat) : State × Nat :=
  let g := s.gang gang
  let t := max pts (g.ltOf (o / 256))
  (raisePts (s.setGang gang { g with lt := tput g.lt (o / 256) t }) core t, t)

/-- The size of a gang's local memory in bytes. -/
def localSize (s : State) (gang : Nat) : Nat :=
  let g := s.gang gang
  256 * (s.grid (gridKey g.part g.vertex)).loc

/-- The type and operation codes of a residual window entry (Table 2-9). -/
def accTyCode : Ty → Nat
  | .i32 => 0
  | .i64 => 1
  | .n32 => 2
  | .n64 => 3
  | .f32 => 4
  | .f64 => 5
  | .bf16x2 => 6
  | _ => 7
def accOpCode : AccOp → Nat
  | .add => 0
  | .min => 1
  | .max => 2

/-- The 16 bytes of an entry of the residual window (R45); `none` and other partitions' entries read as zero. -/
def windowEntry (s : State) (part : Nat) (e : Option ResEnt) : List Byte :=
  match e with
  | none => natBytes 0 16
  | some r =>
    if r.key.part ≠ part then natBytes 0 16
    else natBytes (field ((r.key.line * 128 + r.off) / 4) 50 78 + field (min 31 ((s.cycle - r.born) / 128)) 5 73 +
      field (accTyCode r.key.ty) 4 69 + field (accOpCode r.key.aop) 2 67 + field (min 3 r.refusals) 2 65 +
      field 1 1 64 + field r.shown.toNat 64 0) 16

/-- The residual window's base and end. -/
def windowBase : Nat := 0xFF000000
def windowEnd : Nat := 0xFF010000

/-- Bytes read from the residual window. -/
def rdWindow (s : State) (cluster part o n : Nat) : List Byte :=
  ((windowEntry s part (tget (s.cluster cluster).resid ((o - windowBase) / 16))).drop (o % 16)).take n

/-- Whether a local access is out of range (R44, R328). -/
def localBad (size n : Nat) (load : Bool) (o : Nat) : Bool :=
  if o < windowBase then size ≤ o
  else if windowEnd ≤ o then true
  else !load || n < 4

/-- Whether bytes of local memory hold an uncorrectable error, and the words that a store of bytes covers hold none any more
(R443). -/
def Gang.badAt (g : Gang) (o n : Nat) : Bool := g.badLoc.any fun w => o / 4 ≤ w && w ≤ (o + n - 1) / 4
def Gang.unmark (g : Gang) (o n : Nat) : List Nat := g.badLoc.filter fun w => !(o ≤ 4 * w && 4 * w + 4 ≤ o + n)

/-- The lanes of a local memory instruction, in rising order: `f` gives the state after a lane and its words. -/
def localLanes (f : Nat → Nat → State → State × List Word) : List (Nat × Nat) → State → State × List (Nat × List Word)
  | [], s => (s, [])
  | e :: es, s =>
    let r := f e.1 e.2 s
    let q := localLanes f es r.1
    (q.1, (e.1, r.2) :: q.2)

/-- A local memory instruction: alignment over all lanes, then range over all lanes, then each lane in rising order,
after the thread's earlier accesses have been performed (R142, R143, R328). `words` are those that a lane returns, and
`reads` tells whether it reads local memory. -/
def localOp (s : State) (hd : Hdr) (u : Use) (n : Nat) (load reads : Bool) (regs : List Nat) (words : Nat) (d : DReg)
    (ea : Wave → Nat → Nat) (f : Ctx → Nat → Nat → State → State × List Word) : State :=
  issue s hd u fun c =>
    let eas := laneAddrs c.E (ea c.w)
    match misaligned n eas with
    | some o => trapCtx s c 3 o
    | none =>
      match eas.find? fun e => localBad (localSize s (s.teamOf c.w).gang) n load e.2 with
      | some e => trapCtx s c 4 e.2
      | none =>
        if lanesBusy s c.id c.E ∨ peerBusy s c.id c.E then s
        else if reads && eas.any fun e => (s.gangOf c.w).badAt e.2 n then coreTrap s c.id 3
        else
          let r := localLanes (f c) eas s
          keepResults r.1 c hd regs words d fun l => ((r.2.find? fun e => e.1 == l).map (·.2)).getD []

/-- LDL: a block of local memory, or the residual window (R46, R328). -/
def execLdl (hd : Hdr) (d : DReg) (a : Src) (off : BitVec 24) (mt : MemTy) (s : State) : Out :=
  .next (localOp s hd (useOf (.ldl hd d a off mt)) (memBytes mt) true true (dregs d (memRegs mt)) (memRegs mt) d
    (fun w l => lea32 s w a off l) fun c l o s =>
      let n := memBytes mt
      let gid := (s.teamOf c.w).gang
      if windowBase ≤ o then (s, destWords (loadDest mt) (rdWindow s (coreCluster c.w.core) (s.partNo c.w) o n))
      else ((localTouch s gid c.w.core o (lanePts s c.w.core c.id l)).1, destWords (loadDest mt) ((s.gang gid).rdLoc o n)))

/-- Store bytes into local memory at a timestamp. -/
def localStore (s : State) (gang core o pts : Nat) (bs : List Byte) : State :=
  let s := (localTouch s gang core o pts).1
  let g := s.gang gang
  s.setGang gang { g with loc := locPutAll g.loc o bs, badLoc := g.unmark o bs.length }

/-- STL (R328). -/
def execStl (hd : Hdr) (a : Src) (off : BitVec 24) (b : Src) (mt : MemTy) (s : State) : Out :=
  .next (localOp s hd (useOf (.stl hd a off b mt)) (memBytes mt) false false [] 0 .zero (fun w l => lea32 s w a off l) fun c l o s =>
    (localStore s (s.teamOf c.w).gang c.w.core o (lanePts s c.w.core c.id l) (storeBytes s c.w l b mt), []))

/-- ATOM on local space (R332, R333). -/
def execAtomLocal (hd : Hdr) (d : DReg) (a : Src) (off : BitVec 24) (b : Src) (aop : Aop) (ty : Ty) (s : State) : Out :=
  .next (localOp s hd (useOf (.atomLocal hd d a off b aop ty)) (4 * tyRegs ty) false true (dregs d (tyRegs ty)) (tyRegs ty) d
    (fun w l => lea32 s w a off l) fun c l o s =>
      let gid := (s.teamOf c.w).gang
      let old := (s.gang gid).rdLoc o (4 * tyRegs ty)
      let args := atomArgs s c.w l b aop ty
      let new := atomOp aop ty (BitVec.ofNat 64 (bytesNat old)) args.1 args.2
      let s := localStore s gid c.w.core o (lanePts s c.w.core c.id l) (natBytes new.toNat (4 * tyRegs ty))
      (s, bytesWords old))

end Sys2Proof.Machine
end

