-- ==== Sys2Proof/Machine/Barriers.lean ====
section
/-! DEFINITION. Blocking waits and what ends them: barriers (R337, R338), claims (R189), completion of asynchronous
operations with WAITC and FENCE (R152 to R158), handles (R209) and the cursor floor (R95). -/

namespace Sys2Proof.Machine

/-! ## Blocking and waking a wave (R154, R257) -/

/-- A blocking instruction whose wait ends at once: it invalidates the latches all the same. -/
def passBlock (s : State) (c : Ctx) (hd : Hdr) (w : Wave) : State := finishNext s c hd w.noLatch

/-! ## Barriers (R159, R193, R217, R219, R337, R338) -/

/-- Which barrier: of a team, or of a gang. -/
inductive BarKey where
  | team (t n : Nat)
  | gang (g n : Nat)
  deriving DecidableEq, Repr

/-- A phase that nothing has reached. -/
def Phase.fresh : Phase := { stages := none, arrived := [], pts := 0, carried := [], roller := false, fmts := [] }

def getPhase (s : State) : BarKey → Phase
  | .team t n => (tget (s.team t).bars n).getD Phase.fresh
  | .gang g n => (tget (s.gang g).gbars n).getD Phase.fresh

def setPhase (s : State) (k : BarKey) (p : Phase) : State :=
  match k with
  | .team t n => s.updTeam t fun x => { x with bars := tput x.bars n p }
  | .gang g n => s.updGang g fun x => { x with gbars := tput x.gbars n p }

/-- The waves that a barrier may expect: those of its team or gang with a live lane. -/
def barWaves (s : State) : BarKey → List Nat
  | .team t _ => tkeys (tsel s.waves fun _ w => w.team == t && w.live != 0)
  | .gang g _ => tkeys (tsel s.waves fun _ w => (s.team w.team).gang == g && w.live != 0)

/-- Whether a stage is in a STAGES mask. -/
def inStages (mask stage : Nat) : Bool := mask.testBit stage

/-- The stream whose Roller the barrier expects: a running stream of the team with the barrier in its mask. -/
def barStream (s : State) : BarKey → Option Stream
  | .team t n => match (s.team t).stream with
    | none => none
    | some st => if st.mask.getLsbD n then some st else none
  | .gang _ _ => none

/-- Whether every expected arrival of the phase has arrived. A phase that only the Roller has reached, with no live wave
left to fix it, releases too (R219). -/
def phaseFull (s : State) (k : BarKey) (p : Phase) : Bool :=
  let roller := (barStream s k).isNone || p.roller
  match p.stages with
  | some m => roller && (barWaves s k).all fun i => !inStages m (s.wave i).stage || p.arrived.contains i
  | none => p.roller && (barStream s k).isSome && (barWaves s k) == []

/-- What a wave that waits at this barrier shows. -/
def atBarrier (k : BarKey) (b : Blocked) : Bool :=
  match k, b with
  | .team _ n, .bar m false _ _ => n == m
  | .gang _ n, .gbar m false _ _ => n == m
  | _, _ => false

/-- The waves of the barrier's team or gang. -/
def barAll (s : State) : BarKey → List Nat
  | .team t _ => s.teamWaves t
  | .gang g _ => tkeys (tsel s.waves fun _ w => (s.team w.team).gang == g)

/-- The info of TRAP_BAR_MISMATCH (Table 18-4). -/
def barInfo (k : BarKey) (p : Phase) : Nat :=
  (match k with
    | .team _ n => n
    | .gang _ n => n) + 16 * p.stages.getD 0

/-- The operands that a carried wave waits with. -/
def carriedArgs (b : Blocked) : Nat × Bool :=
  match b with
  | .bar _ _ st a => (st, a)
  | .gbar _ _ st a => (st, a)
  | _ => (0, false)

/-- The waiting state of a wave at a barrier. -/
def waitAt (k : BarKey) (carried : Bool) (stages : Nat) (arrive : Bool) : Blocked :=
  match k with
  | .team _ n => .bar n carried stages arrive
  | .gang _ n => .gbar n carried stages arrive

/-- Two views of the format registers joined: the later write of each register counts, and a barrier has ordered it (R242). -/
def joinFmts (a b : Tbl FmtEnt) : Tbl FmtEnt :=
  b.foldl (fun t e => match tget t e.1 with
    | some x => if x.stamp < e.2.stamp then tput t e.1 { e.2 with own := false } else t
    | none => tput t e.1 { e.2 with own := false }) a

/-- A view whose writes a barrier has ordered. -/
def orderedFmts (a : Tbl FmtEnt) : Tbl FmtEnt := tmap a fun _ e => { e with own := false }

/-- The view that an arrival leaves in a phase: a gang barrier orders no format register (R242). -/
def joinPhase (k : BarKey) (p : Phase) (view : Tbl FmtEnt) : Tbl FmtEnt :=
  match k with
  | .team .. => joinFmts p.fmts view
  | .gang .. => p.fmts

/-- A wave arrives at a barrier with the lanes of a path: the phase takes the greatest timestamp of their accesses (R159). -/
def arriveAt (s : State) (k : BarKey) (id : Nat) (w : Wave) (path : LaneSet) (stages : Nat) : State :=
  let p := getPhase s k
  let pts := (lanesOf path).foldl (fun m l => max m (laneT s id l s.nextId)) (s.core w.core).pts
  setPhase s k { p with stages := some stages, arrived := p.arrived ++ [id], pts := max p.pts pts,
                        fmts := joinPhase k p w.fmts }

/-- A wave that waited at a barrier is released (R159, R242). -/
def releaseWave (k : BarKey) (p : Phase) (s : State) (i : Nat) : State :=
  let s := match k with
    | .team .. => s.updWave i fun w => { w with fmts := joinFmts (orderedFmts w.fmts) p.fmts }
    | .gang .. => s
  wake (raisePts s (s.wave i).core p.pts) i

/-- Carried arrivals enter the new phase in the order in which they issued (R338). -/
def enterCarried (k : BarKey) : List Nat → State → State
  | [], s => s
  | i :: is, s =>
    let w := s.wave i
    let a := carriedArgs w.blocked
    let p := getPhase s k
    if (tget s.waves i).isNone then enterCarried k is s
    else if p.stages.isSome ∧ p.stages ≠ some a.1 then
      let s := s.updWave i fun w => { w with blocked := .none }
      match w.iss.runPc with
      | none => enterCarried k is s
      | some pc => enterCarried k is (takeTrap s i pc (w.pathAt pc) (w.pathAt pc) 16 (BitVec.ofNat 64 (barInfo k p)))
    else
      let path := match w.iss.runPc with
        | none => 0
        | some pc => w.pathAt pc
      let s := arriveAt s k i w path a.1
      enterCarried k is (if a.2 then wake s i else s.updWave i fun w => { w with blocked := waitAt k false a.1 false })

/-- Where a stream goes on at a place: at the end of a body with iterations left, at the body's start (R378). -/
def advLoops : Nat → List MLoopEnt → Nat × List MLoopEnt
  | pc, [] => (pc, [])
  | pc, e :: es =>
    if pc < e.stop then (pc, e :: es)
    else if 1 < e.left then (e.start, { e with left := e.left - 1, iter := e.iter + 1 } :: es)
    else advLoops pc es

/-- The stream after a word that has been performed. -/
def Stream.next (st : Stream) : Stream :=
  let r := advLoops (st.pc + 1) st.loops
  { st with pc := r.1, loops := r.2 }

/-- The Roller is released from its MBAR: it goes on behind it. -/
def releaseRoller (s : State) (k : BarKey) (p : Phase) : State :=
  match k with
  | .team t n =>
    match (s.team t).stream with
    | none => s
    | some st =>
      if st.waiting = some n then
        raisePts (s.updTeam t fun x =>
          { x with stream := some { st.next with waiting := none }, fmts := joinFmts x.fmts p.fmts }) (s.team t).core p.pts
      else s
  | .gang _ _ => s

/-- Release a full phase, and the phases that follow as long as they are full at once. -/
def releaseBar (k : BarKey) : Nat → State → State
  | 0, s => s
  | fuel + 1, s =>
    let p := getPhase s k
    if phaseFull s k p then
      let waiting := (barAll s k).filter fun i => atBarrier k (s.wave i).blocked
      let s := setPhase s k Phase.fresh
      let s := waiting.foldl (releaseWave k p) s
      let s := if p.roller then releaseRoller s k p else s
      releaseBar k fuel (enterCarried k p.carried s)
    else s

/-- The barriers of a wave's team and gang, released where its exit or its stream's end completes them (R193). -/
def recheckBars (s : State) (t : Nat) : State :=
  let s := (List.range 16).foldl (fun s n => releaseBar (.team t n) 34 s) s
  (List.range 4).foldl (fun s n => releaseBar (.gang (s.team t).gang n) 130 s) s

/-- BAR and GBAR: the arrival of a wave (R337, R338). -/
def barrier (s : State) (hd : Hdr) (u : Use) (key : Wave → BarKey) (stages : Nat) (arrive : Bool) : State :=
  issueWide s hd u (uses []) true (fun _ => BitVec.allOnes 32) fun c s =>
    if c.E = 0 then finishNext s c hd c.w
    else if lanesBusy s c.id c.path then s
    else
      let k := key c.w
      let p := getPhase s k
      if ¬ inStages stages c.w.stage then trapCtx s c 16 (barInfo k p)
      else if p.arrived.contains c.id then
        block (setPhase s k { p with carried := p.carried ++ [c.id] }) c hd c.w (waitAt k true stages arrive)
      else if p.stages.isSome ∧ p.stages ≠ some stages then trapCtx s c 16 (barInfo k p)
      else
        let s := arriveAt s k c.id c.w c.path stages
        releaseBar k 130 (if arrive then passBlock s c hd c.w else block s c hd c.w (waitAt k false stages false))

/-- BAR (R337). -/
def execBar (hd : Hdr) (bn : BitVec 4) (stages : BitVec 4) (arrive : Bool) (s : State) : Out :=
  .next (barrier s hd (uses []) (fun w => .team w.team bn.toNat) stages.toNat arrive)

/-- GBAR (R337). -/
def execGbar (hd : Hdr) (bn : BitVec 2) (stages : BitVec 4) (arrive : Bool) (s : State) : Out :=
  .next (barrier s hd (uses []) (fun w => .gang (s.team w.team).gang bn.toNat) stages.toNat arrive)

/-! ## Register hand-over (R189, R341) -/

/-- Keep only the vector registers of the blocks that a wave holds. -/
def trimBlocks (w : Wave) (blocks : Nat) : Wave := { w with blocks := blocks, v := w.v.filter fun e => e.1 < 8 * blocks }

/-- The blocks that a waiting CLAIM asks. -/
def claimOf (w : Wave) : Option Nat :=
  match w.blocked with
  | .claim n => some n
  | _ => none

/-- Grant waiting CLAIMs: each time the oldest that fits, as long as any fits (R189). New blocks read as zero. -/
def grantClaims (t : Nat) : Nat → State → State
  | 0, s => s
  | fuel + 1, s =>
    let tm := s.team t
    match tm.claims.find? fun i => match claimOf (s.wave i) with
      | some n => decide (n ≤ tm.reserve)
      | none => false with
    | none => s
    | some i =>
      let n := (claimOf (s.wave i)).getD 0
      let s := s.updTeam t fun x => { x with reserve := x.reserve - n, claims := x.claims.filter (· != i) }
      let s := s.updWave i fun w => { trimBlocks w w.blocks with blocks := w.blocks + n }
      grantClaims t fuel (wake s i)

/-- CLAIM (R189, R341). -/
def execClaim (hd : Hdr) (n : BitVec 5) (s : State) : Out :=
  .next (issueWide s hd (uses []) (uses []) true (fun _ => BitVec.allOnes 32) fun c s =>
    if c.E = 0 then finishNext s c hd c.w
    else if 32 < c.w.blocks + n.toNat then trapCtx s c 11 n.toNat
    else
      let s := s.updTeam c.w.team fun x => { x with claims := x.claims ++ [c.id] }
      grantClaims c.w.team 33 (block s c hd c.w (.claim n.toNat)))

/-- RELEASE (R189, R341): not a blocking wait; a pending register in a released block raises TRAP_SCOREBOARD. It leaves the
latches valid where its lanes gather as one path (log entry 28). -/
def execRelease (hd : Hdr) (n : BitVec 5) (s : State) : Out :=
  .next (issueWide s hd (uses []) (uses []) true (fun _ => BitVec.allOnes 32) fun c s =>
    if c.E = 0 then finishNext s c hd c.w
    else if c.w.blocks < n.toNat + 1 then trapCtx s c 11 n.toNat
    else
      let b := c.w.blocks - n.toNat
      match c.w.pend.find? fun r => r < 256 && 8 * b ≤ r with
      | some r => trapCtx s c 6 r
      | none =>
        let s := finishNext s c hd (trimBlocks c.w b)
        let s := s.updTeam c.w.team fun x => { x with reserve := x.reserve + n.toNat }
        grantClaims c.w.team 33 s)

/-! ## Asynchronous operations (R152 to R158) -/

/-- Operations of a class that have issued and not retired. -/
def classCount (w : Wave) (cls : Cls) : Nat := (w.ops.filter fun o => o.cls == cls).length

/-- Retire, in issue order within each class, the operations whose older ones have all completed: what stays and the
greatest timestamp that retires (R109, R153). -/
def retireOps : List AOp → List Cls → List AOp × Nat
  | [], _ => ([], 0)
  | o :: os, held =>
    if o.done && !held.contains o.cls then
      let r := retireOps os held
      (r.1, max o.t r.2)
    else
      let r := retireOps os (o.cls :: held)
      (o :: r.1, r.2)

/-- A fence no longer waits for an operation that has completed at a timestamp. With the last of its set done, pts rises to
the greatest timestamp of the set (R157). -/
def fenceDrop (id t : Nat) (s : State) (i : Nat) : State :=
  match (s.wave i).blocked with
  | .fence ops t0 =>
    if ops.contains id then
      let rest := ops.filter (· != id)
      if rest = [] then wake (raisePts s (s.wave i).core (max t0 t)) i
      else s.updWave i fun w => { w with blocked := .fence rest (max t0 t) }
    else s
  | _ => s

/-- The counter that a WAITC waits for has come down (R154). -/
def waitcDone (s : State) (i : Nat) : State :=
  match (s.wave i).blocked with
  | .waitc cls n => if classCount (s.wave i) cls ≤ n then wake s i else s
  | _ => s

/-- A retired operation raises the pts of its wave's core (R109), and of a team that is not there any more the pts with which
it will resume (R110). -/
def retirePts (s : State) (w : Wave) (t : Nat) : State :=
  match (s.teamOf w).life with
  | .resident | .halting => raisePts s w.core t
  | _ => s.updTeam w.team fun x => { x with savedPts := max x.savedPts t }

/-- Retire what a wave can retire now: its core's pts rises (OPERATION_RETIRE, R109), and a WAITC may end. -/
def retireWave (s : State) (i : Nat) : State :=
  let w := s.wave i
  let r := retireOps w.ops []
  let s := s.updWave i fun w => { w with ops := r.1 }
  waitcDone (if r.1.length < w.ops.length then retirePts s w r.2 else s) i

/-- An asynchronous operation completes at a timestamp: it is done in every wave that counts it, fences drop it, and it
retires where it can. -/
def completeOp (s : State) (id t : Nat) : State :=
  let mine := tkeys (tsel s.waves fun _ w => w.ops.any fun o => o.id == id)
  let s := mine.foldl (fun s i => s.updWave i fun w =>
    { w with ops := w.ops.map fun o => if o.id == id then { o with done := true, t := max o.t t } else o }) s
  let s := (tkeys s.waves).foldl (fenceDrop id t) s
  mine.foldl retireWave s

/-- An operation is removed with its killed team: fences no longer wait for it (R158). -/
def dropOp (s : State) (id : Nat) : State :=
  let s := { s with waves := tmap s.waves fun _ w => { w with ops := w.ops.filter fun o => o.id != id } }
  (tkeys s.waves).foldl (fenceDrop id 0) s

/-- Count a new operation in a wave's class. -/
def addOp (w : Wave) (c : Ctx) (id : Nat) (cls : Cls) (touch : Touch) (names : List (Nat × Nat)) : Wave :=
  { w with ops := w.ops ++
      [{ id := id, cls := cls, touch := touch, done := false, t := 0, pc := c.pc, lanes := c.path, names := names }] }

/-- WAITC (R154, R367). -/
def execWaitc (hd : Hdr) (cls : Cls) (n : BitVec 6) (s : State) : Out :=
  .next (issue s hd (uses []) fun c =>
    if c.E = 0 then finishNext s c hd c.w
    else if classCount c.w cls ≤ n.toNat then passBlock s c hd c.w
    else block s c hd c.w (.waitc cls n.toNat))

/-- The waves in the scope of a fence (R157). -/
def fenceScope (s : State) (id : Nat) (w : Wave) (a : Agent) : List Nat :=
  match a with
  | .wave => [id]
  | .team => s.teamWaves w.team
  | .gang => tkeys (tsel s.waves fun _ x => (s.teamOf x).gang == (s.teamOf w).gang)
  | .partition => tkeys (tsel s.waves fun _ x => s.partNo x == s.partNo w)

/-- Whether an operation touches a space of the mask; the global and host bits select the same operations (R152). -/
def touches (t : Touch) (m : Spaces) : Bool := (t.loc && m.loc) || (t.glob && (m.glob || m.host)) || (t.grph && m.graph)

/-- The set S of a fence at its issue (R157). -/
def fenceSet (s : State) (id : Nat) (w : Wave) (a : Agent) (m : Spaces) : List Nat :=
  ((fenceScope s id w a).flatMap fun i => ((s.wave i).ops.filter fun o => !o.done && touches o.touch m).map (·.id)).eraseDups

/-- FENCE (R156 to R158). -/
def execFence (hd : Hdr) (agent : Agent) (sp : Spaces) (s : State) : Out :=
  .next (issue s hd (uses []) fun c =>
    if c.E = 0 then finishNext s c hd c.w
    else
      let S := fenceSet s c.id c.w agent sp
      if S = [] then passBlock s c hd c.w else block s c hd c.w (.fence S 0))

/-! ## Handles (R207 to R209) -/

/-- The handle of a team. -/
def handleOf (t : Team) (h : Nat) : Handle :=
  (tget t.handles h).getD { st := .free, readers := 0, releases := 0, status := 0, t := 0, op := 0 }

def hstateCode : HState → Nat
  | .free => 0
  | .filling => 1
  | .full => 2
  | .draining => 3

/-- Whether HWAIT's condition holds. -/
def hwaitHolds (h : Handle) (full : Bool) : Bool :=
  if full then h.st == .full || h.st == .draining else h.st == .free

/-- An instruction in flight has its result, one word for every lane. -/
def setKept (s : State) (fid : Nat) (x : Word) : State :=
  { s with flights := tupd s.flights fid fun f => { f with vals := List.replicate 32 x } }

/-- HWAIT returns: with `.full` its result is the status and pts rises to the handle's T. -/
def hwaitEnd (s : State) (i : Nat) : State :=
  let w := s.wave i
  match w.blocked with
  | .hwait n full fid =>
    let h := handleOf (s.teamOf w) n
    if hwaitHolds h full then
      let s := setKept s fid (BitVec.ofNat 32 h.status)
      wake (if full then raisePts s w.core h.t else s) i
    else s
  | _ => s

/-- The waits of a team's waves on its handles, after a handle has changed. -/
def recheckHandles (s : State) (t : Nat) : State := (s.teamWaves t).foldl hwaitEnd s

/-- HWAIT of either form (R209, R368). -/
def hwait (s : State) (hd : Hdr) (u : Use) (n : Nat) (full : Bool) (d : DReg) : State :=
  issue s hd u fun c =>
    if c.E = 0 then finishNext s c hd c.w
    else if (s.gridOf c.w).handles ≤ n then trapCtx s c 13 n
    else
      let h := handleOf (s.teamOf c.w) n
      let r := startFlight s { flightOf c hd (dregs d 1) (.kept 1) d with left := c.E } c.w
      if hwaitHolds h full then
        let s := setKept r.2.1 r.1 (BitVec.ofNat 32 h.status)
        passBlock (if full then raisePts s c.w.core h.t else s) c hd r.2.2
      else block r.2.1 c hd r.2.2 (.hwait n full r.1)

/-- HWAIT.full (R209). -/
def execHwaitFull (hd : Hdr) (d : DReg) (hnd : BitVec 6) (s : State) : Out :=
  .next (hwait s hd (useOf (.hwaitFull hd d hnd)) hnd.toNat true d)

/-- HWAIT.free (R209). -/
def execHwaitFree (hd : Hdr) (hnd : BitVec 6) (s : State) : Out :=
  .next (hwait s hd (useOf (.hwaitFree hd hnd)) hnd.toNat false .zero)

/-- HREL (Table 10-2). -/
def execHrel (hd : Hdr) (hnd : BitVec 6) (s : State) : Out :=
  .next (issue s hd (useOf (.hrel hd hnd)) fun c =>
    let n := hnd.toNat
    if c.E = 0 then finishNext s c hd c.w
    else if (s.gridOf c.w).handles ≤ n then trapCtx s c 13 n
    else
      let h := handleOf (s.teamOf c.w) n
      if h.st = .full ∨ h.st = .draining then
        let h := if h.releases + 1 < h.readers then { h with st := .draining, releases := h.releases + 1 }
          else { h with st := .free, releases := h.releases + 1 }
        recheckHandles
          (finishNext (s.updTeam c.w.team fun t => { t with handles := tput t.handles n h }) c hd c.w) c.w.team
      else trapCtx s c 14 (n + 256 * hstateCode h.st))

/-! ## The cursor floor (R90, R93, R95) -/

/-- The least registered snapshot of a graph, none when it has none. -/
def floorOf (p : Part) (gid : Nat) : Option Nat :=
  p.snaps.foldl (fun m e => if e.2.gid == gid then (match m with
    | none => some e.2.s
    | some x => some (min x e.2.s)) else m) none

/-- Whether the floor of a graph exceeds T. -/
def floorPast (p : Part) (gid t : Nat) : Bool :=
  match floorOf p gid with
  | none => true
  | some x => decide (t < x)

/-- GWAITLOW_WAKE: waiters of a partition whose floor is now past their T return (R95). -/
def wakeLow (s : State) (part : Nat) : State :=
  (tkeys s.waves).foldl (fun s i =>
    let w := s.wave i
    match w.blocked with
    | .gwaitlow gid t fid =>
      if s.partNo w = part ∧ floorPast (s.part part) gid t then wake (setKept s fid 0) i else s
    | _ => s) s

/-- End one registration in the snapshot table (R90). -/
def snapDrop (s : State) (part slot : Nat) : State :=
  match tget (s.part part).snaps slot with
  | none => s
  | some e =>
    wakeLow (s.updPart part fun p =>
      { p with snaps := if e.count ≤ 1 then tdel p.snaps slot else tput p.snaps slot { e with count := e.count - 1 } }) part

/-- The key of a cursor of a lane. -/
def curKey (lane cur : Nat) : Nat := 4 * lane + cur

/-- Close a cursor: its registration ends and it is unbound (R90, R357). -/
def closeCursor (s : State) (id lane cur : Nat) : State :=
  let w := s.wave id
  match tget w.cur (curKey lane cur) with
  | none => s
  | some k => snapDrop (s.updWave id fun w => { w with cur := tdel w.cur (curKey lane cur) }) (s.partNo w) k.slot

/-- Close every cursor of the lanes of a set. -/
def closeLanes (s : State) (id : Nat) (m : LaneSet) : State :=
  (lanesOf m).foldl (fun s l => (List.range 4).foldl (fun s k => closeCursor s id l k) s) s

end Sys2Proof.Machine
end

