-- ==== Sys2Proof/Machine/Accum.lean ====
section
/-! DEFINITION. Accumulates: combining in the core and the cluster, the decision and performance at the home, and the
residual tiles (spec/06: R123 to R140; ACC and FLUSHRES of spec/15). -/

namespace Sys2Proof.Machine

/-! ## Completion of accumulates (R138) -/

/-- Whether an operation still has addends on their way, or residual entries that it waits for. -/
def opHeld (s : State) (op : Nat) : Bool :=
  (s.clusters.any fun c => (c.2.comb.any fun e => (e.2.waits ++ e.2.flush).any (·.2 == op)) ||
    (c.2.resid.any fun e => e.2.waits.any (·.2 == op))) ||
    (s.areqs.any fun r => (r.2.waits ++ r.2.flush).any (·.2 == op)) ||
    (s.reqs.any fun r => r.2.flight == op) || (s.reps.any fun r => r.2.req.flight == op) ||
    (s.waves.any fun w => w.2.packets.any fun p => p.req.flight == op)

/-- A part of an operation has been performed at a timestamp (R109). -/
def opStamp (s : State) (t : Nat) (op : Nat × Nat) : State :=
  s.updWave op.1 fun w => { w with ops := w.ops.map fun o => if o.id == op.2 then { o with t := max o.t t } else o }

/-- The timestamp that an operation has reached. -/
def opT (s : State) (op : Nat × Nat) : Nat :=
  match (s.wave op.1).ops.find? (·.id == op.2) with
  | none => 0
  | some o => o.t

/-- Complete the operations of a list that nothing holds any more. -/
def opsEnd (s : State) (ops : List (Nat × Nat)) : State :=
  ops.foldl (fun s op => if opHeld s op.2 then s else completeOp s op.2 (opT s op)) s

/-! ## Groups and words (R125) -/

/-- Combine a word into a list of words. -/
def addWord (k : AccKey) (off : Nat) (x : DWord) : List AccWord → List AccWord
  | [] => [{ off := off, val := x, carried := false, due := false }]
  | w :: ws => if w.off = off then { w with val := accCombine k.aop k.ty w.val x } :: ws else w :: addWord k off x ws

/-- A request of the core to its cluster's combining buffer. -/
structure AccGroup where
  key   : AccKey
  home  : Nat
  words : List AccWord
  deriving DecidableEq, Repr

/-- Add a lane's addend to the groups of an instruction, in rising lane order (R125). -/
def addGroup (part : Nat) (aop : AccOp) (ty : Ty) (x : LaneAcc) (v : DWord) : List AccGroup → List AccGroup
  | [] =>
    let k : AccKey := { part := part, line := x.pa / 128, aop := aop, ty := ty }
    [{ key := k, home := homeOf x.pa x.e.ms, words := addWord k (x.pa % 128) v [] }]
  | g :: gs =>
    if g.key.line = x.pa / 128 then { g with words := addWord g.key (x.pa % 128) v g.words } :: gs
    else g :: addGroup part aop ty x v gs

/-! ## The combining buffer (R126) -/

/-- The slot that a group matches. -/
def combSlot (c : Cluster) (k : AccKey) : Option Nat := (c.comb.find? fun e => e.2.key == k).map (·.1)

/-- Groups that match no entry. -/
def combNeed (c : Cluster) (gs : List AccGroup) : Nat := (gs.filter fun g => (combSlot c g.key).isNone).length

/-- Mark the `n` entries of greatest age as due, among those that a test admits. -/
def markOldest (may : CombEnt → Bool) : Nat → Cluster → Cluster
  | 0, c => c
  | n + 1, c =>
    match leastBy (fun e => e.2.born) (c.comb.filter fun e => !e.2.due && may e.2) with
    | none => c
    | some e => markOldest may n { c with comb := tput c.comb e.1 { e.2 with due := true } }

/-- Put a group into the buffer. Of the home hints of merged ACCs the last that is not 0 counts (R325, log entry 58). -/
def combPut (cyc pts hint : Nat) (op : Nat × Nat) (c : Cluster) (g : AccGroup) : Cluster :=
  match c.comb.find? fun e => e.2.key == g.key with
  | some (i, e) =>
    { c with comb := tput c.comb i { e with
        words := g.words.foldl (fun ws w => addWord g.key w.off w.val ws) e.words, pts := max e.pts pts,
        hint := if hint = 0 then e.hint else hint, waits := op :: e.waits } }
  | none =>
    match tfree c.comb 0 64 with
    | none => c
    | some i =>
      { c with comb := tput c.comb i { key := g.key, home := g.home, hint := hint, words := g.words, born := cyc,
                                       pts := pts, due := false, waits := [op], flush := [] } }

/-- Fold one residual entry into the words of a request (R128). -/
def foldWord (e : ResEnt) : List AccWord → List AccWord
  | [] => [{ off := e.off, val := e.val, carried := true, due := e.due }]
  | w :: ws =>
    if w.off = e.off then { w with val := accCombine e.key.aop e.key.ty w.val e.val, carried := true, due := e.due } :: ws
    else w :: foldWord e ws

/-- The residual entries of a group that a request of it folds in (R128). -/
def foldEnts (c : Cluster) (k : AccKey) : Tbl ResEnt := c.resid.filter fun e => e.2.key == k && e.2.flying.isNone

/-- The words of a request of a group. -/
def foldAll (c : Cluster) (k : AccKey) (words : List AccWord) : List AccWord :=
  (foldEnts c k).foldl (fun ws e => foldWord e.2 ws) words

/-- Requests of a cluster that are in flight and no deliveries. -/
def newInFlight (s : State) (cluster : Nat) : List AccReq :=
  (s.areqs.filter fun r => r.2.cluster == cluster && !r.2.deliver).map (·.2)

/-- The groups of residual entries aimed at a home. -/
def homeGroups (c : Cluster) (home : Nat) : Nat :=
  ((c.resid.filter fun e => e.2.home == home).map (·.2.key)).eraseDups.length

/-- Whether the cluster may send a new request of so many words to a home (R127). -/
def maySend (s : State) (cluster home words : Nat) : Bool :=
  let fly := newInFlight s cluster
  let c := s.cluster cluster
  (fly.map (·.words.length)).foldl (· + ·) 0 + words + c.resid.length ≤ 4096 &&
    homeGroups c home + (fly.filter (·.home == home)).length < 16 && fly.length < 64 && clusterTokens s cluster < 2048

/-- Whether an entry of the combining buffer may be sent now (R127). -/
def mayGo (s : State) (cluster : Nat) (e : CombEnt) : Bool :=
  maySend s cluster e.home (foldAll (s.cluster cluster) e.key e.words).length

/-- ACC (R334): after the checks of every lane, its groups enter the combining buffer, or it stalls while they find no
room: entries of greatest age that may be sent go first (R126). A target in a peer window is sent alone (R124). -/
def execAcc (hd : Hdr) (a : Src) (off : BitVec 24) (b : Src) (ch : CHint) (aop : AccOp) (ty : Ty) (s : State) : Out :=
  .next (issue s hd (useOf (.acc hd a off b ch aop ty)) fun c =>
    let n := 4 * tyRegs ty
    let eas := laneAddrs c.E fun l => gea s c.w a off l
    match misaligned n eas with
    | some va => trapCtx s c 3 va
    | none =>
      withXlat s c (eas.map fun e => (e.2, .rmw)) fun c s xs =>
        if xs = [] then finishNext s c hd c.w
        else if lanesBusy s c.id c.path ∨ 63 ≤ classCount c.w .acc then s
        else
          let as := laneAccs eas xs
          let far := as.filter fun x => 1024 ≤ homeOf x.pa x.e.ms
          let near := as.filter fun x => homeOf x.pa x.e.ms < 1024
          let val := fun l => rdW s c.w l ty.is64 b
          let gs := near.foldl (fun gs x => addGroup (s.partNo c.w) aop ty x (val x.lane) gs) []
          let cl := coreCluster c.w.core
          let need := combNeed (s.cluster cl) gs
          let have_ := 64 - (s.cluster cl).comb.length
          if have_ < need then
            let going := (s.cluster cl).comb.filter fun e => e.2.due && mayGo s cl e.2
            s.updCluster cl (markOldest (mayGo s cl) (need - have_ - going.length))
          else if ¬ roomFor s c.w c.id far.length far.length then s
          else
            let (op, s) := s.newId
            let pts := as.foldl (fun m x => max m (lanePts s c.w.core c.id x.lane)) 0
            let s := s.updCluster cl fun k => gs.foldl (combPut s.cycle pts ch.home.toNat (c.id, op)) k
            let s := far.foldl (fun s x =>
              sendReq s (laneReq s c (.acc aop ty (val x.lane)) x.lane op x.pa x.va n (homeOf x.pa x.e.ms) 0 0) true) s
            finishNext s c hd (addOp c.w c op .acc { loc := false, glob := true, grph := false }
              (as.map fun x => (x.pa / 128, x.va))))

/-! ## Making entries due (R126, R134) -/

/-- Make residual groups due, but those whose home is offline (R136). -/
def dueResid (s : State) (cluster : Nat) (p : ResEnt → Bool) : State :=
  s.updCluster cluster fun c =>
    { c with resid := tmap c.resid fun _ e => if p e && !homeOffline s e.home then { e with due := true } else e }

/-- Make the combining entries of a partition due. -/
def dueComb (s : State) (cluster part : Nat) : State :=
  s.updCluster cluster fun c =>
    { c with comb := tmap c.comb fun _ e => if e.key.part = part then { e with due := true } else e }

/-- What FLUSHRES and a pre-emption on a cluster do: every group and entry of the partition becomes due. -/
def flushCluster (s : State) (cluster part : Nat) : State :=
  dueComb (dueResid s cluster fun e => e.key.part == part) cluster part

/-- An operation that waits for what a cluster holds of a partition: for its residual entries, and for the words of
combining entries and of requests in flight that a test of their operations admits, also when they are refused later (R138,
log entry 21). -/
def markWaits (s : State) (cluster part : Nat) (op : Nat × Nat) (mine : List (Nat × Nat) → Bool) : State :=
  let s := s.updCluster cluster fun k =>
    { k with resid := tmap k.resid fun _ e => if e.key.part = part then { e with waits := op :: e.waits } else e,
             comb := tmap k.comb fun _ e => if e.key.part = part ∧ mine e.waits then { e with flush := op :: e.flush } else e }
  { s with areqs := tmap s.areqs fun _ r =>
      if r.cluster = cluster ∧ r.key.part = part ∧ mine r.waits then { r with flush := op :: r.flush } else r }

/-- FLUSHRES (R335): an operation of the accumulate class that waits for the residual entries which the cluster holds now and
for the addends of its own wave. -/
def execFlushres (hd : Hdr) (s : State) : Out :=
  .next (issue s hd (uses []) fun c =>
    if c.E = 0 then finishNext s c hd c.w
    else if lanesBusy s c.id c.path ∨ 63 ≤ classCount c.w .acc then s
    else
      let (op, s) := s.newId
      let cl := coreCluster c.w.core
      let p := s.partNo c.w
      let s := markWaits s cl p (c.id, op) fun ops => ops.any (·.1 == c.id)
      let s := flushCluster s cl p
      let s := finishNext s c hd (addOp c.w c op .acc { loc := false, glob := true, grph := false } [])
      opsEnd s [(c.id, op)])

/-- COMBINING_ENTRY_AGE (R126): an entry has reached an age of 64 cycles. -/
def execCombiningEntryAge (cluster ent : Nat) (s : State) : Out :=
  .next (match tget (s.cluster cluster).comb ent with
    | none => s
    | some e =>
      if e.born + 64 ≤ s.cycle then
        s.updCluster cluster fun c => { c with comb := tput c.comb ent { e with due := true } }
      else s)

/-- RESIDUAL_AGE_EXPIRY (R134): an entry has reached an age of 4,096 cycles; its group becomes due. -/
def execResidualAgeExpiry (cluster slot : Nat) (s : State) : Out :=
  .next (match tget (s.cluster cluster).resid slot with
    | none => s
    | some e => if e.born + 4096 ≤ s.cycle then dueResid s cluster fun x => x.key == e.key else s)

/-! ## Sending (R127, R128, R134) -/

/-- Requests that a cluster has sent in this cycle: at most 4 (R134). -/
def sentNow (s : State) (c : Cluster) : Nat := if c.sentAt = s.cycle then c.sent else 0

/-- Whether a cluster may send one more: the links of a die whose reset has come to step 4 are quiet (R446). -/
def maySendNow (s : State) (cluster : Nat) : Bool :=
  decide (sentNow s (s.cluster cluster) < 4) && match (s.die (clusterDie cluster)).st with
    | .running => true
    | .reset k => decide (k < 4)

/-- Send a request of a group: the residual entries of the group that are not in flight are folded in and are now in
flight; the mark and the pts follow R128. -/
def accSend (s : State) (cluster : Nat) (k : AccKey) (home : Nat) (words : List AccWord) (pts hint : Nat)
    (waits flush : List (Nat × Nat)) (deliver : Bool) : State :=
  let c := s.cluster cluster
  let mine := foldEnts c k
  let must := mine.any fun e => e.2.refusals == 3
  let r : AccReq :=
    { cluster := cluster, agen := (s.die (clusterDie cluster)).gen, key := k, words := foldAll c k words, hint := hint,
      must := must, pts := mine.foldl (fun m e => max m e.2.pts) pts, home := home, deliver := deliver, waits := waits,
      flush := flush, stage := 0, t := 0, token := 0 }
  let c := { c with sentAt := s.cycle, sent := sentNow s c + 1, resid := tmap c.resid fun _ e =>
    if e.key == k && e.flying.isNone then { e with flying := some e.val, val := 0, mixed := false, due := false, again := false }
    else e }
  let (tok, s) := newToken (s.setCluster cluster c) cluster none
  let (i, s) := s.newId
  let s := { s with areqs := tput s.areqs i { r with token := tok } }
  if must then s.updPart k.part fun p => { p with regs := { p.regs with accForced := (p.regs.accForced + 1) % 2 ^ 32 } } else s

/-- Entries of groups that wait to be delivered (R134). -/
def waitsSend (e : ResEnt) : Bool := e.due && e.flying.isNone

/-- The place of a group among those that wait: refused groups first, then the oldest (R134). -/
def sendRank (c : Cluster) (k : AccKey) : Nat :=
  let es := c.resid.filter fun e => e.2.key == k && waitsSend e.2
  (if es.any (·.2.again) then 0 else 2 ^ 128) + ((es.map (·.2.born)).min?).getD 0

/-- Whether a group is the next to be delivered. -/
def sendNext (c : Cluster) (k : AccKey) : Bool := c.resid.all fun e => !waitsSend e.2 || sendRank c k ≤ sendRank c e.2.key

/-- ACC_REQUEST_SEND (R127): a due entry of the combining buffer goes to its home, with the residuals of its group, while no
group waits to be delivered (R134). -/
def execAccRequestSend (cluster ent : Nat) (s : State) : Out :=
  .next (
    let c := s.cluster cluster
    match tget c.comb ent with
    | none => s
    | some e =>
      if e.due && mayGo s cluster e && !(c.resid.any fun x => waitsSend x.2) && maySendNow s cluster then
        accSend (s.updCluster cluster fun c => { c with comb := tdel c.comb ent }) cluster e.key e.home e.words e.pts e.hint
          e.waits e.flush false
      else s)

/-- RESIDUAL_DELIVERY (R134): a due group is sent by itself. No limit of R127 holds it back, and neither does the number of
its cluster's tokens (log entry 61). -/
def execResidualDelivery (cluster slot : Nat) (s : State) : Out :=
  .next (
    let c := s.cluster cluster
    match tget c.resid slot with
    | none => s
    | some e =>
      if waitsSend e && sendNext c e.key && maySendNow s cluster then
        accSend s cluster e.key e.home [] 0 0 [] [] true
      else s)

/-! ## At the home (R129 to R132) -/

/-- The quota of a partition in a window of 32 cycles: a write takes effect from the next window (R129). -/
def quotaOf (r : PRegs) (win : Nat) : Nat := if win ≤ r.quotaWin then r.quotaOld else r.accQuota

/-- Parts of 16 bytes that a request's words touch. -/
def partsOf (ws : List AccWord) : Nat := (ws.map (·.off / 16)).eraseDups.length

/-- The key of a must-accept queue. -/
def mustKey (home cluster : Nat) : Nat := 128 * home + cluster
def mustQueue (s : State) (home cluster : Nat) : List Nat := (tget s.mustQ (mustKey home cluster)).getD []

/-- A request joins a queue of its home, and is charged. -/
def accEnqueue (s : State) (id : Nat) (r : AccReq) : State :=
  let s := charge { s with areqs := tput s.areqs id { r with stage := 1 } } r.home r.key.part (partsOf r.words)
  if r.must then
    { s with mustQ := tput s.mustQ (mustKey r.home r.cluster) (mustQueue s r.home r.cluster ++ [id]) }
  else { s with unitQ := tput s.unitQ r.home (unitQueue s r.home ++ [id]) }

/-- HOME_ACCUMULATE (R129): a request arrives at its home. The quota windows of every home are those of the device's cycle
count (DESIGN CHOICE, log entry 58). -/
def execHomeAccumulate (areq : Nat) (s : State) : Out :=
  .next (match tget s.areqs areq with
    | none => s
    | some r =>
      if r.stage ≠ 0 ∨ homeOffline s r.home then s
      else
        let s := fillLine s r.home (128 * r.key.line)
        let k := lineKey r.home (128 * r.key.line)
        let l := s.line k
        let w := s.cycle / 32
        let count := (if l.win = w then l.count else 0) + 1
        if r.must then accEnqueue (s.setLine k { l with win := w, count := count }) areq r
        else if quotaOf (s.part r.key.part).regs w < count ∨ overShare s r.home r.key.part ∨
            (unitQueue s r.home).length = 32 then
          let s := s.setLine k { l with win := w, count := count - 1 }
          { s with areqs := tput s.areqs areq { r with stage := 3 } }
        else accEnqueue (s.setLine k { l with win := w, count := count }) areq r)

/-- The bytes of a line after an accumulate. -/
def accBytes (k : AccKey) (ws : List AccWord) (bs : List Byte) : List Byte :=
  let n := 4 * tyRegs k.ty
  ws.foldl (fun bs w =>
    let old := BitVec.ofNat 64 (bytesNat ((bs.drop w.off).take n))
    bs.take w.off ++ natBytes (accCombine k.aop k.ty old w.val).toNat n ++ bs.drop (w.off + n)) bs

/-- A request is performed at its home as one read-modify-write at one timestamp (R132); its tokens keep it from being
performed twice, and what was poisoned stays so (R443). An error leaves it where it is. -/
def accPerform (s : State) (id : Nat) (r : AccReq) : Option State :=
  let pa := 128 * r.key.line
  if writeWaits s r.home pa then none
  else match homeWriteAt s r.home pa r.pts (accBytes r.key r.words (s.rd pa 128)) none r.hint with
    | .error _ => none
    | .ok (s', t) =>
      let s' := (gridTop s' r.key.part t).stir r.key.part
      some { s' with poison := s.poison,
                     toks := tput s'.toks r.token { home := r.home, result := [], t := t },
                     areqs := tput s'.areqs id { r with stage := 2, t := t } }

/-- The head of a queue, performed: the rest of the queue and the state. -/
def serveQueue (s : State) : List Nat → List Nat × State
  | [] => ([], s)
  | i :: q =>
    match tget s.areqs i with
    | none => (q, s)
    | some r => match accPerform s i r with
      | none => (i :: q, s)
      | some s => (q, s)

/-- ACC_UNIT_PERFORM (R132): the head of a home's ordinary queue, while no must-accept queue of the home waits (R131). -/
def execAccUnitPerform (home : Nat) (s : State) : Out :=
  .next (if s.mustQ.any fun q => q.1 / 128 == home && q.2 != [] then s
    else
      let r := serveQueue s (unitQueue s home)
      { r.2 with unitQ := tput r.2.unitQ home r.1 })

/-- MUST_ACCEPT_SERVICE (R131). -/
def execMustAcceptService (home cluster : Nat) (s : State) : Out :=
  .next (
    let r := serveQueue s (mustQueue s home cluster)
    { r.2 with mustQ := tput r.2.mustQ (mustKey home cluster) r.1 })

/-! ## Replies at the cluster (R133, R138) -/

/-- The residual entry of a word. -/
def resSlot (c : Cluster) (k : AccKey) (off : Nat) : Option (Nat × ResEnt) := c.resid.find? fun e => e.2.key == k && e.2.off == off

/-- A word that was carried returns accepted: its entry is freed, or kept with what was combined meanwhile. -/
def acceptWord (k : AccKey) (c : Cluster) (w : AccWord) : Cluster :=
  match resSlot c k w.off with
  | none => c
  | some (i, e) =>
    if e.mixed then { c with resid := tput c.resid i { e with flying := none, mixed := false } }
    else { c with resid := tdel c.resid i }

/-- The FLUSHRES operations that waited for the entries of carried words. -/
def wordWaits (c : Cluster) (k : AccKey) (ws : List AccWord) : List (Nat × Nat) :=
  (ws.filter (·.carried)).flatMap fun w => match resSlot c k w.off with
    | none => []
    | some (_, e) => e.waits

/-- A word returns refused (R133), or unperformed from an offline home (R136), which counts no refusal. -/
def refuseWord (s : State) (r : AccReq) (count : Bool) (c : Cluster) (w : AccWord) : Cluster :=
  let k := r.key
  match resSlot c k w.off with
  | none =>
    match tfree c.resid 0 4096 with
    | none => c
    | some i =>
      let e : ResEnt :=
        { key := k, home := r.home, off := w.off, val := w.val, refusals := 0, born := s.cycle, flying := none,
          mixed := false, pts := r.pts, due := false, again := false, waits := r.flush }
      { c with resid := tput c.resid i e }
  | some (i, e) =>
    if w.carried then
      let due := count && (e.due || w.due)
      let e := { e with val := if e.mixed then accCombine k.aop k.ty w.val e.val else w.val, flying := none, mixed := false,
                        pts := max e.pts r.pts, refusals := if count then min 3 (e.refusals + 1) else e.refusals,
                        due := due, again := due, waits := (r.flush ++ e.waits).eraseDups }
      { c with resid := tput c.resid i e }
    else
      let e := { e with val := if e.flying.isSome ∧ ¬ e.mixed then w.val else accCombine k.aop k.ty e.val w.val,
                        mixed := e.flying.isSome, pts := max e.pts r.pts, waits := (r.flush ++ e.waits).eraseDups }
      { c with resid := tput c.resid i e }

/-- With more than 3,072 entries valid, groups become due oldest first until at most 3,072 would remain (R134). -/
def trimResid (cluster : Nat) : Nat → State → State
  | 0, s => s
  | fuel + 1, s =>
    let c := s.cluster cluster
    if (c.resid.filter fun e => !e.2.due && e.2.flying.isNone).length ≤ 3072 then s
    else match leastBy (fun e => e.2.born) (c.resid.filter fun e => !e.2.due && e.2.flying.isNone && !homeOffline s e.2.home) with
      | none => s
      | some e => trimResid cluster fuel (dueResid s cluster fun x => x.key == e.2.key)

/-- A request leaves, and its token may be released. -/
def accDone (s : State) (id : Nat) (r : AccReq) : State :=
  consumeToken { s with areqs := tdel s.areqs id } (some r.token)

/-- A reply addressed to an older agent generation of the cluster's die is dropped (R121). -/
def accReply (s : State) (id : Nat) (r : AccReq) (stage : Nat) (k : State → State) : State :=
  if r.stage ≠ stage then s
  else if r.agen ≠ (s.die (clusterDie r.cluster)).gen then accDone s id r
  else k s

/-- ACC_ACCEPTED (R133, R138): carried entries are freed, and operations with no addend left complete. -/
def execAccAccepted (areq : Nat) (s : State) : Out :=
  .next (match tget s.areqs areq with
    | none => s
    | some r =>
      accReply s areq r 2 fun s =>
        let ws := wordWaits (s.cluster r.cluster) r.key r.words
        let s := accDone (s.updCluster r.cluster fun c =>
          (r.words.filter (·.carried)).foldl (acceptWord r.key) c) areq r
        let ops := (r.waits ++ r.flush ++ ws).eraseDups
        opsEnd (ops.foldl (fun s op => opStamp s r.t op) s) ops)

/-- The words of a request go back into the tile. Where its home is offline no entry of the group is due any more (R136). -/
def accReturn (s : State) (id : Nat) (r : AccReq) (count : Bool) : State :=
  let s := accDone (s.updCluster r.cluster fun c =>
    let c := r.words.foldl (refuseWord s r count) c
    if count then c
    else { c with resid := tmap c.resid fun _ e => if e.key = r.key then { e with due := false, again := false } else e }) id r
  let s := if 3072 < (s.cluster r.cluster).resid.length then trimResid r.cluster 1024 s else s
  opsEnd s r.waits.eraseDups

/-- ACC_REFUSED (R133): the words enter the residual tile, and REFUSED counts (R140). -/
def execAccRefused (areq : Nat) (s : State) : Out :=
  .next (match tget s.areqs areq with
    | none => s
    | some r =>
      accReply s areq r 3 fun s =>
        accReturn (s.updPart r.key.part fun p => { p with regs := { p.regs with accRef := (p.regs.accRef + 1) % 2 ^ 32 } })
          areq r true)

/-- WRITE_REPLY: of a store or atomic (R104, R250, R435), or of an accumulate aimed at a peer, which completes its
operation's part (R124, R138). -/
def execWriteReply (rep : Nat) (s : State) : Out :=
  .next (match tget s.reps rep with
    | none => s
    | some x =>
      match x.req.kind with
      | .acc .. =>
        let t := { s with reps := tdel s.reps rep }
        if accepted s x.req then opsEnd (consumeToken t x.req.token) [(x.req.wave, x.req.flight)] else staleReply t x
      | _ => replyEvent s rep fun k => match k with
        | .write _ => true
        | .atom .. => true
        | .cctl => true
        | _ => false)

end Sys2Proof.Machine
end

