-- ==== Sys2Proof/Machine/Control.lean ====
section
/-! DEFINITION. Control flow: branches, calls, returns, exits, CONV, YIELD and NOP (spec/13: R295 to R300). -/

namespace Sys2Proof.Machine

/-- A branch target: an offset in instructions (R260). -/
def target (pc : DWord) (off : Word) : DWord := pc + 12 * off.signExtend 64

/-- The lanes of E go to a target, the others of the path to the next instruction (R295). -/
def branchTo (c : Ctx) (t : Nat → DWord) (l : Nat) : DWord := if c.E.getLsbD l then t l else nextPc c.pc

/-- The first lane of E whose address is not a multiple of `n`. -/
def badLane (E : LaneSet) (n : Nat) (f : Nat → DWord) : Option DWord :=
  ((lanesOf E).find? fun l => (f l).toNat % n != 0).map f

/-- BRA (R295). -/
def execBra (hd : Hdr) (off : Word) (s : State) : Out :=
  .next (issue s hd (useOf (.bra hd off)) fun c =>
    let t := target c.pc off
    if c.E ≠ 0 ∧ t.toNat % 4 ≠ 0 then trapCtx s c 3 t.toNat
    else finish s c hd c.w (branchTo c fun _ => t))

/-- BRX (R296). -/
def execBrx (hd : Hdr) (a : Src) (s : State) : Out :=
  .next (issue s hd (useOf (.brx hd a)) fun c =>
    match badLane c.E 4 fun l => rd64 s c.w l a with
    | some x => trapCtx s c 3 x.toNat
    | none => finish s c hd c.w (branchTo c fun l => rd64 s c.w l a))

/-- Change the stack pointer of the lanes of a set. -/
def Wave.addCsp (w : Wave) (m : LaneSet) (k : DWord) : Wave :=
  { w with csp := (List.range 32).map fun l => if m.getLsbD l then w.cspOf l + k else w.cspOf l }

/-- CALL: each lane of E stores its return address below its stack pointer, as an ordinary ST.b64, and goes to the
target (R297). -/
def execCall (hd : Hdr) (off : Word) (s : State) : Out :=
  .next (issue s hd (useOf (.call hd off)) fun c =>
    let t := target c.pc off
    match badLane c.E 8 c.w.cspOf with
    | some x => trapCtx s c 3 x.toNat
    | none =>
      if c.E ≠ 0 ∧ t.toNat % 4 ≠ 0 then trapCtx s c 3 t.toNat
      else
        let eas := laneAddrs c.E fun l => (c.w.cspOf l - 8).toNat
        withXlat s c (eas.map fun e => (e.2, .write)) fun c s xs =>
          if peerBusy s c.id c.E ∨ ¬ roomFor s c.w c.id eas.length eas.length then s
          else if xs = [] then finish s c hd c.w (branchTo c fun _ => t)
          else
            let r := startFlight s { flightOf c hd [] .none .zero with sb := none } (c.w.addCsp c.E (-8))
            let s := (laneAccs eas xs).foldl (fun s x =>
              sendReq s (laneReq s c (.write (natBytes (nextPc c.pc).toNat 8)) x.lane r.1 x.pa x.va 8
                (homeOf x.pa x.e.ms) 0 0) true) (r.2.1.setWave c.id r.2.2)
            let s := { s with flights := tupd s.flights r.1 fun f => { f with left := c.E } }
            finish s c hd (s.wave c.id) (branchTo c fun _ => t))

/-- The RET in flight of a wave at a PC. -/
def retFlight (s : State) (id : Nat) (pc : DWord) : Option (Nat × Flight) :=
  s.flights.find? fun f => f.2.wave == id && f.2.dest == .ret && f.2.pc == pc

/-- The return address that a RET in flight has loaded for a lane. -/
def retAddr (f : Flight) (l : Nat) : DWord := join (f.vals.getD (2 * l + 1) 0) (f.vals.getD (2 * l) 0)

/-- RET: the loads are sent first, and the instruction is performed once every one has returned (R297, R301), for the lanes
that sent them: lanes that have come to its address meanwhile execute it themselves. -/
def execRet (hd : Hdr) (s : State) : Out :=
  .next (issue s hd (useOf (.ret hd)) fun c =>
    match retFlight s c.id c.pc with
    | some (fid, f) =>
      if f.left ≠ 0 then s
      else
        let s := { s with flights := tdel s.flights fid }
        let c := { c with path := c.path &&& f.lanes, E := c.E &&& f.lanes }
        if c.path = 0 then s
        else match badLane c.E 4 (retAddr f) with
        | some x => trapCtx s c 3 x.toNat
        | none => finish s c hd (c.w.addCsp c.E 8) (branchTo c (retAddr f))
    | none =>
      match badLane c.E 8 c.w.cspOf with
      | some x => trapCtx s c 3 x.toNat
      | none =>
        let eas := laneAddrs c.E fun l => (c.w.cspOf l).toNat
        withXlat s c (eas.map fun e => (e.2, .read)) fun c s xs =>
          if xs = [] then finishNext s c hd c.w
          else if peerBusy s c.id c.E ∨ ¬ roomFor s c.w c.id eas.length 0 then s
          else
            let fl := { flightOf c hd [] .ret .zero with sb := none, vals := List.replicate 64 0 }
            let r := startFlight s fl c.w
            let t := sendLanes (loadLane c { l1 := 0, home := 0 } 8) r.1 (laneAccs eas xs) (r.2.1.setWave c.id r.2.2) 0
            { t.1 with flights := tupd t.1.flights r.1 fun x => { x with left := t.2 } })

/-- What follows the exit of lanes: gatherings that it completes may issue, a wave whose lanes are all parked in vain
traps, and a wave with no lane left leaves the expected arrivals of its barriers (R186, R187, R193). -/
def afterExit (s : State) (id : Nat) : State :=
  let w := s.wave id
  if w.live = 0 then recheckBars s w.team else convDeadlock s id

/-- EXIT (R298). -/
def execExit (hd : Hdr) (s : State) : Out :=
  .next (issue s hd (useOf (.exit hd)) fun c =>
    if c.E = 0 then finishNext s c hd c.w
    else
      let s := finishNext s c hd { c.w with exited := c.w.exited ||| c.E }
      afterExit (closeLanes s c.id c.E) c.id)

/-- CONV (R299). -/
def execConv (hd : Hdr) (m : MaskSrc) (s : State) : Out :=
  .next (issueWide s hd (useOf (.conv hd m)) (useMask m) false (maskVal · m) fun c s => finishNext s c hd c.w)

/-- YIELD: an issue with YLD = 1 whose path is chosen again last (R300). -/
def execYield (hd : Hdr) (s : State) : Out :=
  .next (issue s hd (useOf (.yield hd)) fun c =>
    if c.E = 0 then finishNext s c hd c.w
    else
      (finishNext s c hd c.w.noLatch).updWave c.id fun w =>
        { w with iss := { w.iss with ylded := some s.cycle, runCount := 256 } })

/-- NOP (R300). -/
def execNop (hd : Hdr) (s : State) : Out := .next (issue s hd (useOf (.nop hd)) fun c => finishNext s c hd c.w)

end Sys2Proof.Machine
end

