-- ==== Sys2Proof/Machine/Narrow.lean ====
section
/-! DEFINITION. The narrow formats, error-feedback conversion and the sums of MMA (R235 to R245). -/

namespace Sys2Proof.Machine

/-- A format register's fields (Table 11-6). -/
structure NFmt where
  bsen : Bool
  sat  : Bool
  spec : Nat
  bias : Int
  s    : Nat
  e    : Nat
  m    : Nat
  deriving DecidableEq, Repr

/-- The fields of a format register (Table 11-6). -/
def NFmt.ofReg (x : DWord) : NFmt :=
  { bsen := x.getLsbD 25, sat := x.getLsbD 24, spec := (x.extractLsb' 22 2).toNat,
    bias := (x.extractLsb' 14 8).toInt, s := (x.extractLsb' 6 1).toNat, e := (x.extractLsb' 3 3).toNat,
    m := (x.extractLsb' 0 3).toNat }

/-- Width W (R236). -/
def NFmt.w (f : NFmt) : Nat := f.s + f.e + f.m

/-- Validity of a format register (R236). -/
def NFmt.valid (f : NFmt) : Bool :=
  1 ≤ f.w && f.w ≤ 8 && f.spec != 3 && (f.spec == 0 || 1 ≤ f.e) && (f.spec != 2 || (2 ≤ f.e && 1 ≤ f.m))

/-- Containers of four bits (R238). -/
def NFmt.nibble (f : NFmt) : Bool := f.w ≤ 4

/-- NarrowDecode (R237). -/
def NFmt.decode (f : NFmt) (c : Nat) : FVal :=
  let c := c % 2 ^ f.w
  if f.e = 0 then
    if f.s = 1 && 2 ^ (f.w - 1) ≤ c then .fin true (2 ^ f.w - c) (-f.bias) else .fin false c (-f.bias)
  else
    let neg := f.s == 1 && c / 2 ^ (f.w - 1) == 1
    let e := c / 2 ^ f.m % 2 ^ f.e
    let m := c % 2 ^ f.m
    if f.spec = 1 && e = 2 ^ f.e - 1 && m = 2 ^ f.m - 1 then .nan false
    else if f.spec = 2 && e = 2 ^ f.e - 1 then (if m = 0 then .inf neg else .nan false)
    else if e = 0 then .fin neg m (1 - f.bias - f.m)
    else .fin neg (2 ^ f.m + m) ((e : Int) - f.bias - f.m)

/-- The NaN code of a format with SPEC 1 or 2 (R237). -/
def NFmt.nanCode (f : NFmt) : Nat := 2 ^ (f.e + f.m) - 1

/-- The greatest code that decodes to a finite number of sign plus (R237). -/
def NFmt.maxCode (f : NFmt) : Nat :=
  if f.e = 0 then (if f.s = 1 then 2 ^ (f.w - 1) - 1 else 2 ^ f.w - 1)
  else match f.spec with
    | 1 => 2 ^ (f.e + f.m) - 2
    | 2 => (2 ^ f.e - 1) * 2 ^ f.m - 1
    | _ => 2 ^ (f.e + f.m) - 1

/-- Max(f) as m times 2^e (R237). -/
def NFmt.maxVal (f : NFmt) : Nat × Int :=
  match f.decode f.maxCode with
  | .fin _ m e => (m, e)
  | _ => (0, 0)

/-- Put a sign on a code. -/
def NFmt.signed (f : NFmt) (neg : Bool) (c : Nat) : Nat := if neg && f.s = 1 then c + 2 ^ (f.w - 1) else c

/-- The saturated code of a sign: the negative limit of a signed scaled integer lies one step further (Table 11-7). -/
def NFmt.satCode (f : NFmt) (neg : Bool) : Nat :=
  if neg then (if f.e = 0 then 2 ^ (f.w - 1) else f.signed true f.maxCode) else f.maxCode

/-- A narrow result: the code, the flags, and whether it saturated or overflowed. -/
structure NRes where
  code : Nat
  fl   : Flags
  sat  : Bool
  deriving DecidableEq, Repr

/-- A finite value rounded past Max(f) (Table 11-7). -/
def NFmt.past (f : NFmt) (rm : Rm) (neg : Bool) : NRes :=
  let fl := flOF ||| flNX
  if f.sat || f.spec = 0 then ⟨f.satCode neg, fl, true⟩
  else if f.spec = 1 then ⟨f.nanCode, fl, true⟩
  else
    let toInf := match rm with
      | .rn => true
      | .rz => false
      | .rd => neg
      | .ru => !neg
    ⟨if toInf then f.signed neg ((2 ^ f.e - 1) * 2 ^ f.m) else f.signed neg f.maxCode, fl, true⟩

/-- An infinity encoded (Table 11-7). -/
def NFmt.ofInf (f : NFmt) (neg : Bool) : NRes :=
  if f.sat || f.spec = 0 then ⟨f.satCode neg, flNV, true⟩
  else if f.spec = 1 then ⟨f.nanCode, flNV, true⟩
  else ⟨f.signed neg ((2 ^ f.e - 1) * 2 ^ f.m), 0, true⟩

/-- A finite value encoded into a format with exponent bits (R239 step 3). -/
def NFmt.encFloat (f : NFmt) (rm : Rm) (neg : Bool) (m : Nat) (e : Int) : NRes :=
  let emin : Int := 1 - f.bias
  let q := e + (m.log2 : Int) - f.m
  let (r, inexact) := roundShift rm neg m (e - q)
  let tiny := q < emin - f.m && r < (2 ^ (emin - f.m - q).toNat) * 2 ^ f.m
  if tiny then
    let (r', inexact') := roundShift rm neg m (e - (emin - f.m))
    if f.maxCode < r' then f.past rm neg
    else ⟨f.signed neg r', if inexact' then flUF ||| flNX else 0, false⟩
  else
    let code := (q + f.m + f.bias).toNat * 2 ^ f.m + r - 2 ^ f.m
    if f.maxCode < code then f.past rm neg
    else ⟨f.signed neg code, if inexact then flNX else 0, false⟩

/-- A finite value encoded into a scaled integer (R239). -/
def NFmt.encInt (f : NFmt) (rm : Rm) (neg : Bool) (m : Nat) (e : Int) : NRes :=
  let (r, inexact) := roundShift rm neg m (e + f.bias)
  let lim := if neg then 2 ^ (f.w - 1) else f.maxCode
  if lim < r then f.past rm neg
  else ⟨if neg then (2 ^ f.w - r) % 2 ^ f.w else r, if inexact then flNX else 0, false⟩

/-- A value encoded into a narrow format (R239). -/
def NFmt.encode (f : NFmt) (rm : Rm) (y : FVal) : NRes :=
  match y with
  | .nan s => if f.spec = 0 then ⟨0, flNV, true⟩ else ⟨f.nanCode, if s then flNV else 0, true⟩
  | .inf neg => if f.s = 0 && neg then ⟨0, flNV, true⟩ else f.ofInf neg
  | .fin neg m e =>
    if m = 0 then ⟨if f.e = 0 then 0 else f.signed neg 0, 0, false⟩
    else if f.s = 0 && neg then ⟨0, flNX, false⟩
    else if f.e = 0 then f.encInt rm neg m e
    else f.encFloat rm neg m e

/-- The exact sum of two finite values with the sign of an exact zero under .rn. -/
def addFin (a b : FVal) : FVal :=
  match a, b with
  | .fin n m e, .fin n' m' e' =>
    let (v, lo) := sumDy [(n, m, e), (n', m', e')]
    if v = 0 then .fin (m == 0 && m' == 0 && n && n') 0 0 else .fin (v < 0) v.natAbs lo
  | _, _ => .nan false

/-- The value of a result's bits. -/
def FFmt.val (f : FFmt) (x : Nat) : FVal := f.decode false x

/-- Whether a result is an infinity or a NaN. -/
def FVal.special : FVal → Bool
  | .fin .. => false
  | _ => true

/-- The target of an error-feedback conversion (R317). -/
inductive EfTarget where
  | float (f : FFmt)
  | narrow (f : NFmt)
  deriving DecidableEq, Repr

/-- The encoding of a value into the target under .rn: code, flags, whether r' is dropped, and the decoded value. -/
def EfTarget.enc (t : EfTarget) (y : FVal) : Nat × Flags × Bool × FVal :=
  match t with
  | .float f =>
    let r := f.ofVal .rn false y
    (r.bits, r.fl, (f.val r.bits).special, f.val r.bits)
  | .narrow f =>
    let r := f.encode .rn y
    (r.code, r.fl, r.sat || (f.decode r.code).special, f.decode r.code)

/-- ErrorFeedback (R245): the code, the new remainder's bits and the flags. -/
def errorFeedback (t : EfTarget) (x r : Nat) : Nat × Nat × Flags :=
  let a := f32.val x
  let b := f32.val r
  if a.special || b.special then
    let s := f32.add .rn false a b
    let (q, fl, _, _) := t.enc (f32.val s.bits)
    (q, 0, fl ||| s.fl)
  else
    let y := addFin a b
    let (q, fl, drop, d) := t.enc y
    (q, if drop then 0 else (f32.ofVal .rn false (addFin y (d.flip true))).bits, fl)

/-- A value times a power of two. -/
def FVal.scale (k : Int) : FVal → FVal
  | .fin n m e => .fin n m (e + k)
  | v => v

/-- BSCALE in mode derive: the least scale code under which the magnitude does not exceed Max(f) (R320). -/
def bscaleDerive (f : NFmt) (a : FVal) : Nat × Flags :=
  match a with
  | .fin _ m e =>
    let (mm, me) := f.maxVal
    let fits : Nat → Bool := fun k =>
      let e' := e + (127 - (k : Int))
      let lo := min e' me
      (m <<< (e' - lo).toNat) ≤ (mm <<< (me - lo).toNat)
    (((List.range 255).find? fits).getD 254, 0)
  | _ => (255, flNV)

/-- BSCALE in modes apply and unscale (R320). -/
def bscaleApply (unscale : Bool) (k : Nat) (a : FVal) : FRes :=
  if k = 255 then f32.nanRes true
  else f32.ofVal .rn false (a.scale (if unscale then (k : Int) - 127 else 127 - (k : Int)))

/-- One operand of a product of MMA: its value, with the block scale applied; none when the scale is code 255. -/
def scaled (v : FVal) (k : Option Nat) : FVal :=
  match k with
  | none => v
  | some 255 => .nan false
  | some k => v.scale ((k : Int) - 127)

/-- One group of MmaElement: the exact sum of the products, rounded, then added to c (R243, R244). -/
def mmaGroup (f : FFmt) (c : Nat) (ps : List (FVal × FVal)) : Nat :=
  let prods := ps.map fun p => mulVal p.1 p.2
  let vals := prods.filterMap fun p => match p with
    | .ok v => some v
    | .error _ => none
  let pinf := vals.contains (.inf false)
  let ninf := vals.contains (.inf true)
  let s : Nat :=
    if vals.length < prods.length || (pinf && ninf) then f.nanBits
    else if pinf then f.infBits
    else if ninf then f.sign true f.infBits
    else
      let ds := vals.filterMap fun v => match v with
        | .fin n m e => some (n, m, e)
        | _ => none
      let (v, lo) := sumDy ds
      if v = 0 then f.sign (ds.all fun t => t.2.1 == 0 && t.1) 0
      else (f.round .rn false (v < 0) v.natAbs lo).bits
  (f.add .rn false (f.val c) (f.val s)).bits

end Sys2Proof.Machine
end

