-- ==== Sys2Proof/Machine/Convert.lean ====
section
/-! DEFINITION. The meanings of conversions, packing and block scales (spec/14: R315 to R320). -/

namespace Sys2Proof.Machine

/-- The bits of an integer type. -/
def intBits : Ty → Nat
  | .i8 | .n8 => 8
  | .i16 | .n16 => 16
  | .i64 | .n64 => 64
  | _ => 32

/-- The value of an integer source, from the low bits of its register (R315). -/
def intVal (ty : Ty) (x : DWord) : Int :=
  let y := x.toNat % 2 ^ intBits ty
  if ty.isSigned && 2 ^ (intBits ty - 1) ≤ y then (y : Int) - (2 ^ intBits ty : Nat) else y

/-- An integer result, extended under R227. -/
def intRes (ty : Ty) (v : Int) : DWord :=
  let y := (v % (2 ^ intBits ty : Nat)).toNat
  BitVec.ofInt 64 (intVal ty (BitVec.ofNat 64 y))

/-- CVT on values of the types' widths (R315). -/
def cvtOp (rm : Rm) (ftz sat : Bool) (sty ty : Ty) (x : DWord) : FRes :=
  if sty.isInt then
    let v := intVal sty x
    if ty.isInt then
      ⟨(intRes ty (if sat then clampTo ty.isSigned (intBits ty) v else v)).toNat, 0⟩
    else (fmtOf ty).ofInt rm v
  else
    let a := (fmtOf sty).decode ftz (x.toNat % 2 ^ (fmtOf sty).width)
    if ty.isInt then
      let r := cvtToInt ty.isSigned (intBits ty) rm a
      ⟨(intRes ty r.1).toNat, r.2⟩
    else (fmtOf ty).ofVal rm ftz a

/-- CVT (R315). -/
def execCvt (hd : Hdr) (d : Dst) (a : Src) (rm : Rm) (ftz sat : Bool) (sty ty : Ty) (s : State) : Out :=
  .next (faluW s hd (useOf (.cvt hd d a rm ftz sat sty ty)) ty.is64 d fun w l =>
    cvtOp rm ftz sat sty ty (rdW s w l sty.is64 a))

/-! ## Narrow formats -/

/-- A format register as a wave sees it (R235, R242). -/
def fmtReg (w : Wave) (n : BitVec 3) : NFmt := NFmt.ofReg (fmtVal w.fmts n.toNat)

/-- Bits of a container, and whether a container number is allowed (R238, R316). -/
def boxBits (f : NFmt) : Nat := if f.nibble then 4 else 8
def boxOk (f : NFmt) (e : Nat) : Bool := decide (e < 32 / boxBits f)

/-- Read and write a container of a word. -/
def boxGet (f : NFmt) (e : Nat) (x : Nat) : Nat := x / 2 ^ (boxBits f * e) % 2 ^ boxBits f
def boxPut (n e : Nat) (x code : Nat) : Nat := x - (x / 2 ^ (n * e) % 2 ^ n) * 2 ^ (n * e) + code % 2 ^ n * 2 ^ (n * e)

/-- A floating instruction that names a format register: TRAP_FORMAT when the register is invalid or `ok` fails
(R236, R316). -/
def fmtAlu (s : State) (hd : Hdr) (u : Use) (d : Dst) (n : BitVec 3) (ok : NFmt → Bool)
    (f : NFmt → Wave → Nat → FRes) : State :=
  issue s hd u fun c =>
    let ft := fmtReg c.w n
    if ft.valid && ok ft then
      finishNext s c hd
        ((writeDst c.w d c.E fun l => BitVec.ofNat 32 (f ft c.w l).bits).raise (joinFlags c.E fun l => (f ft c.w l).fl))
    else trapCtx s c 9 n.toNat

/-- CVTN (R316). -/
def execCvtn (hd : Hdr) (d : Dst) (a : Src) (elem : BitVec 3) (rm : Rm) (freg : BitVec 3) (fromN : Bool) (ty : Ty)
    (s : State) : Out :=
  .next (fmtAlu s hd (useOf (.cvtn hd d a elem rm freg fromN ty)) d freg (boxOk · elem.toNat) fun ft w l =>
    let x := (rd32 s w l a).toNat
    if fromN then (fmtOf ty).ofVal rm false (ft.decode (boxGet ft elem.toNat x))
    else
      let r := ft.encode rm ((fmtOf ty).decode false (x % 2 ^ (fmtOf ty).width))
      ⟨boxPut (boxBits ft) elem.toNat (dOld w l d.r).toNat r.code, r.fl⟩)

/-- The target of CVTEF and its container bits (R317). -/
def efTarget (s : State) (w : Wave) (ty : Ty) (freg : BitVec 3) : EfTarget × Nat :=
  match ty with
  | .f16 => (.float f16, 16)
  | .bf16 => (.float bf16, 16)
  | _ => let f := fmtReg w freg; (.narrow f, boxBits f)

/-- CVTEF: writes D, with the latch shift, and the remainder register (R245, R317). -/
def execCvtef (hd : Hdr) (d : Dst) (a : Src) (r : BitVec 8) (elem : BitVec 3) (freg : BitVec 3) (ty : Ty)
    (s : State) : Out :=
  .next (issue s hd (useOf (.cvtef hd d a r elem freg ty)) fun c =>
    let ft := fmtReg c.w freg
    if ty = .fmt ∧ ¬ (ft.valid ∧ boxOk ft elem.toNat) then trapCtx s c 9 freg.toNat
    else
      let t := efTarget s c.w ty freg
      let res l := errorFeedback t.1 (rd32 s c.w l a).toNat (c.w.vget r.toNat l).toNat
      let w := writeDst c.w d c.E fun l =>
        BitVec.ofNat 32 (boxPut t.2 elem.toNat (dOld c.w l d.r).toNat (res l).1)
      let w := w.vput r.toNat c.E fun l => BitVec.ofNat 32 (res l).2.1
      finishNext s c hd (w.raise (joinFlags c.E fun l => (res l).2.2)))

/-- CVTW (R318). -/
def execCvtw (hd : Hdr) (d : Dst) (a : Src) (elem : BitVec 3) (rm : Rm) (freg : BitVec 3) (ty : Ty) (s : State) : Out :=
  .next (fmtAlu s hd (useOf (.cvtw hd d a elem rm freg ty)) d freg (boxOk · (elem.toNat + 1)) fun ft w l =>
    packed fun k => (packFmt ty).ofVal rm false (ft.decode (boxGet ft (elem.toNat + k) (rd32 s w l a).toNat)))

/-- PACK (R319). -/
def execPack (hd : Hdr) (d : Dst) (a b : Src) (rm : Rm) (ftz : Bool) (ty : Ty) (s : State) : Out :=
  .next (falu s hd (useOf (.pack hd d a b rm ftz ty)) d fun w l =>
    packed fun k => (packFmt ty).ofVal rm ftz (f32.decode ftz (rd32 s w l (if k = 0 then a else b)).toNat))

/-- UNPACK (R319). -/
def execUnpack (hd : Hdr) (d : Dst) (a : Src) (ftz : Bool) (ty : Ty) (s : State) : Out :=
  .next (falu2 s hd (useOf (.unpack hd d a ftz ty)) d fun w l =>
    let e k := f32.ofVal .rn ftz ((packFmt ty).decode ftz (elemOf (rd32 s w l a).toNat k))
    ⟨(e 0).bits + 2 ^ 32 * (e 1).bits, (e 0).fl ||| (e 1).fl⟩)

/-- BSCALE (R320). -/
def execBscale (hd : Hdr) (d : Dst) (a b : Src) (freg : BitVec 3) (mode : BsMode) (s : State) : Out :=
  .next (match mode with
    | .derive =>
      fmtAlu s hd (useOf (.bscale hd d a b freg .derive)) d freg (fun _ => true) fun ft w l =>
        let r := bscaleDerive ft (f32.decode false (rd32 s w l a).toNat)
        ⟨r.1, r.2⟩
    | .apply =>
      falu s hd (useOf (.bscale hd d a b freg .apply)) d fun w l =>
        bscaleApply false ((rd32 s w l b).toNat % 256) (f32.decode false (rd32 s w l a).toNat)
    | .unscale =>
      falu s hd (useOf (.bscale hd d a b freg .unscale)) d fun w l =>
        bscaleApply true ((rd32 s w l b).toNat % 256) (f32.decode false (rd32 s w l a).toNat))

end Sys2Proof.Machine
end

