-- ==== Sys2Proof/Machine/Graphs.lean ====
section
/-! DEFINITION. Graph operations on a graph (spec/04, R349 to R357): lists, ranks, timestamps, edge pages, the horizon,
and the result of each operation. An operation answers its result words, status first, its timestamp (zero where it moves
none), and the graph after it. -/

namespace Sys2Proof.Machine

/-! ## Lists and vertices (R79, R81) -/

def EList.fresh : EList := { wts := 0, rts := 0, recs := [] }

/-- A vertex that GNEWG has cleared. -/
def Vertex.fresh : Vertex := { alloc := false, hist := [], out := EList.fresh, inn := EList.fresh, pay := [], pwts := 0, prts := 0 }

def Graph.vtx (g : Graph) (v : Nat) : Vertex := (tget g.verts v).getD Vertex.fresh
def Graph.setVtx (g : Graph) (v : Nat) (x : Vertex) : Graph := { g with verts := tput g.verts v x }

def oppDir : Dir → Dir
  | .out => .inn
  | .inn => .out

/-- Whether a vertex was allocated at a time. -/
def Vertex.allocAt (v : Vertex) (t : Nat) : Bool :=
  match v.hist.find? fun e => decide (e.1 ≤ t) with
  | none => false
  | some e => e.2

/-- A list of a vertex. -/
def Graph.list (g : Graph) (v : Nat) (d : Dir) : EList :=
  match d with
  | .out => (g.vtx v).out
  | .inn => (g.vtx v).inn

def Graph.setList (g : Graph) (v : Nat) (d : Dir) (l : EList) : Graph :=
  match d with
  | .out => g.setVtx v { g.vtx v with out := l }
  | .inn => g.setVtx v { g.vtx v with inn := l }

/-- Insert an edge by its order key. -/
def insKey (e : Edge) : List Edge → List Edge
  | [] => [e]
  | x :: xs => if e.key < x.key then e :: x :: xs else x :: insKey e xs

/-- Edges in rank order. -/
def byRank (es : List Edge) : List Edge := es.foldl (fun acc e => insKey e acc) []

/-- Whether an edge is live at a time. -/
def Edge.liveAt (e : Edge) (t : Nat) : Bool :=
  decide (e.birth ≤ t) && (match e.death with
    | none => true
    | some d => decide (t < d))

/-- The edges of a list that are live at a time, by rank; and those that live now, which are those live at every time
from its wts on. -/
def EList.asOf (l : EList) (t : Nat) : List Edge := byRank (l.recs.filter fun e => e.liveAt t)
def EList.now (l : EList) : List Edge := byRank (l.recs.filter fun e => e.death.isNone)

/-- The degree of a list now. -/
def EList.degree (l : EList) : Nat := (l.recs.filter fun e => e.death.isNone).length

/-! ## Timestamps (R80) -/

/-- The timestamp of a mutation of lists, and that of a read. -/
def mutT (pts : Nat) (ls : List EList) : Nat := ls.foldl (fun t l => max t (l.rts + 1)) pts
def readT (pts : Nat) (ls : List EList) : Nat := ls.foldl (fun t l => max t l.wts) pts

/-- Lists touched by a mutation at T, and read at Tr. -/
def stampMut (t : Nat) (g : Graph) (x : Nat × Dir) : Graph := g.setList x.1 x.2 { g.list x.1 x.2 with wts := t, rts := t }
def stampRead (t : Nat) (g : Graph) (x : Nat × Dir) : Graph :=
  let l := g.list x.1 x.2
  g.setList x.1 x.2 { l with rts := max l.rts t }

/-- The lists that keys name. -/
def Graph.lists (g : Graph) (xs : List (Nat × Dir)) : List EList := xs.map fun x => g.list x.1 x.2

/-! ## Region and edge pages (R74, R75, R85) -/

def varea (vcap psize : Nat) : Nat := (vcap * (64 + psize) + 65535) / 65536 * 65536
def minSize (vcap psize : Nat) : Nat := 65536 + varea vcap psize + 65536

/-- The edge pages of a graph. -/
def Graph.pages (g : Graph) : Nat := (g.size - 65536 - varea g.vcap g.psize) / 512

/-- Pages that a list occupies. -/
def EList.pages (l : EList) : Nat := (l.recs.length + 14) / 15

/-- Pages in use. -/
def Graph.used (g : Graph) : Nat := (g.verts.map fun e => e.2.out.pages + e.2.inn.pages).foldl (· + ·) 0

/-- Offset of a vertex record in the region, and its virtual address. -/
def Graph.recOff (g : Graph) (v : Nat) : Nat := 65536 + v * (64 + g.psize)

/-- The physical address of an offset of the region. -/
def segAddr (segs : List RegSeg) (off : Nat) : Option Nat :=
  (segs.find? fun x => x.off ≤ off && off < x.off + x.len).map fun x => x.pa + (off - x.off)

/-- The size code of the leaf that maps an offset of the region, 3 where none does (R38, R360). -/
def segCode (segs : List RegSeg) (off : Nat) : Nat :=
  ((segs.find? fun x => x.off ≤ off && off < x.off + x.len).map (·.code)).getD 3

/-- The home whose engine owns a vertex, or the allocator with `none` (R97, R350); 800, which no die holds, where the
region is not laid out. -/
def Graph.owner (g : Graph) (v : Option Nat) : Nat :=
  match segAddr g.segs (match v with
    | none => 0
    | some v => g.recOff v) with
  | none => 800
  | some pa => homeOf pa false

/-- The engine that owns a vertex, or the allocator, with the address of what it owns in the creator's space and the size code of
its page (R360). -/
def Graph.place (g : Graph) (v : Option Nat) : Nat × Nat × Nat :=
  let off := match v with
    | none => 0
    | some v => g.recOff v
  (g.owner v, g.base + off, segCode g.segs off)

/-! ## The horizon and reclamation (R93, R94) -/

/-- The horizon raised as far as it may rise: to the greatest mutation timestamp, and to no more than the floor. -/
def Graph.rise (g : Graph) (floor : Option Nat) : Graph :=
  { g with h := max g.h (match floor with
    | none => g.maxT
    | some f => min f g.maxT) }

/-- Drop the dead records of a list that the horizon allows. -/
def EList.reclaim (h : Nat) (l : EList) : EList :=
  { l with recs := l.recs.filter fun e => match e.death with
      | none => true
      | some d => decide (h < d) }

/-- Reclaim every record that may be. -/
def Graph.reclaimAll (g : Graph) : Graph :=
  { g with verts := tmap g.verts fun _ v => { v with out := v.out.reclaim g.h, inn := v.inn.reclaim g.h } }

/-! ## Results -/

/-- What an operation answers. -/
structure GRes where
  words : List Word
  t     : Nat
  g     : Graph
  deriving DecidableEq, Repr

def endWord : Word := 0xFFFFFFFF

/-- A failure that reads lists at Tr. -/
def failRead (g : Graph) (pts : Nat) (xs : List (Nat × Dir)) (words : List Word) : GRes :=
  let t := readT pts (g.lists xs)
  { words := words, t := t, g := xs.foldl (stampRead t) g }

/-- A read of the allocator (R483). -/
def failAlloc (g : Graph) (pts : Nat) (words : List Word) : GRes :=
  let t := max pts g.awts
  { words := words, t := t, g := { g with arts := max g.arts t } }

/-- A vertex that is out of range or free. -/
def Graph.badVtx (g : Graph) (v : Nat) : Bool := decide (g.vcap ≤ v) || !(g.vtx v).alloc

/-- NO_VERTEX: a number out of range reads nothing, a free vertex reads the allocator (R483). -/
def noVertex (g : Graph) (pts v : Nat) (words : List Word) : GRes :=
  if g.vcap ≤ v then { words := words, t := 0, g := g } else failAlloc g pts words

/-- Words of a 64-bit payload. -/
def payWords (x : DWord) : List Word := [loWord x, hiWord x]

/-! ## Vertices (R76 to R78, R350, R351) -/

/-- The lowest number at or above `n` that is not allocated. -/
def lowestFree (g : Graph) : Nat → Nat → Nat
  | 0, n => n
  | fuel + 1, n => if (g.vtx n).alloc then lowestFree g fuel (n + 1) else n

/-- Both lists, the payload and the allocator take a timestamp (R350). -/
def stampAll (g : Graph) (v t : Nat) (alloc : Bool) : Graph :=
  let x := g.vtx v
  { g.setVtx v { alloc := alloc, hist := (t, alloc) :: x.hist, out := { x.out with wts := t, rts := t }, inn := { x.inn with wts := t, rts := t }, pay := [],
                 pwts := t, prts := t } with awts := t, arts := t, maxT := max g.maxT t }

/-- The timestamp of a mutation of allocator, lists and payload of a vertex. -/
def allT (g : Graph) (pts v : Nat) : Nat :=
  max (max (g.arts + 1) ((g.vtx v).prts + 1)) (mutT pts [g.list v .out, g.list v .inn])

/-- GNEWV. One that reports FULL, also for an h that is no vertex, reads the allocator at Tr and moves pts: the manual does not
say (DESIGN CHOICE, log entry 63). -/
def gNewv (g : Graph) (pts h : Nat) : GRes :=
  let v := lowestFree g (g.verts.length + 1) h
  if g.vcap ≤ v then failAlloc g pts [3, 0]
  else
    let t := allT g pts v
    { words := [0, BitVec.ofNat 32 v], t := t, g := stampAll g v t true }

/-- GFREEV. -/
def gFreev (g : Graph) (pts v : Nat) : GRes :=
  if g.badVtx v then noVertex g pts v [2]
  else if 0 < (g.list v .out).degree + (g.list v .inn).degree then failRead g pts [(v, .out), (v, .inn)] [6]
  else
    let t := allT g pts v
    { words := [0], t := t, g := stampAll g v t false }

/-- Whether a payload part is outside the payload (R77, R351). -/
def Graph.badPart (g : Graph) (off : Nat) (wide : Bool) : Bool := decide (g.psize < 8 * off + (if wide then 16 else 8))

/-- Bytes of a payload. -/
def Vertex.rdPay (v : Vertex) (o n : Nat) : List Byte := (List.range n).map fun i => (tget v.pay (o + i)).getD 0

/-- Store payload bytes; only bytes that are not zero are listed. -/
def payPut : Tbl Byte → Nat → List Byte → Tbl Byte
  | t, _, [] => t
  | t, o, b :: bs => payPut (if b = 0 then tdel t o else tput t o b) (o + 1) bs

/-- GLDV. -/
def gLdv (g : Graph) (pts v : Nat) (wide : Bool) (off : Nat) : GRes :=
  let k := if wide then 8 else 4
  let fail := fun st : Word => st :: List.replicate (k - 1) 0
  if g.badPart off wide then { words := fail 8, t := 0, g := g }
  else if g.badVtx v then noVertex g pts v (fail 2)
  else
    let x := g.vtx v
    let t := max pts x.pwts
    let bs := bytesWords (x.rdPay (8 * off) (if wide then 16 else 8))
    { words := (if wide then [0, 0, 0, 0] else [0, 0]) ++ bs, t := t, g := g.setVtx v { x with prts := max x.prts t } }

/-- GSTV. Its timestamp counts towards the greatest mutation timestamp of the graph, which R94 does not define for payload
writes (DESIGN CHOICE, log entry 63). -/
def gStv (g : Graph) (pts v : Nat) (wide : Bool) (off : Nat) (data : BitVec 128) : GRes :=
  if g.badPart off wide then { words := [8], t := 0, g := g }
  else if g.badVtx v then noVertex g pts v [2]
  else
    let x := g.vtx v
    let t := max pts (x.prts + 1)
    let x := { x with pwts := t, prts := t, pay := payPut x.pay (8 * off) (natBytes data.toNat (if wide then 16 else 8)) }
    { words := [0], t := t, g := { g.setVtx v x with maxT := max g.maxT t } }

/-! ## Edges (R79 to R85, R352 to R355) -/

/-- Append a record to a list. -/
def addRec (v : Nat) (d : Dir) (e : Edge) (g : Graph) : Graph :=
  let l := g.list v d
  g.setList v d { l with recs := l.recs ++ [e] }

/-- Kill the record of an edge in a list. -/
def killRec (v : Nat) (d : Dir) (eid t : Nat) (g : Graph) : Graph :=
  let l := g.list v d
  g.setList v d { l with recs := l.recs.map fun e => if e.eid = eid ∧ e.death.isNone then { e with death := some t } else e }

/-- A record born now. -/
def mkEdge (key other : Nat) (pay : DWord) (birth eid : Nat) : Edge :=
  { key := key, other := other, flags := 0, pay := pay, birth := birth, death := none, eid := eid }

/-- Try a change that takes pages: as the graph stands, and otherwise after reclaiming (R85). -/
def withPages (g : Graph) (floor : Option Nat) (f : Graph → Graph) : Option Graph :=
  if (f g).used ≤ g.pages then some (f g)
  else
    let r := (g.rise floor).reclaimAll
    if (f r).used ≤ g.pages then some (f r) else none

/-- The greatest degree of a list (R85). -/
def maxDegree : Nat := 0xFFFFFFFE

/-- GADD. -/
def gAdd (g : Graph) (floor : Option Nat) (pts u v : Nat) (pay : Option DWord) (eid : Nat) : GRes :=
  if pay.isSome ∧ ¬ g.eps then { words := [8, 0], t := 0, g := g }
  else if g.badVtx u then noVertex g pts u [2, 0]
  else if g.badVtx v then noVertex g pts v [2, 0]
  else
    let ks : List (Nat × Dir) := [(u, .out), (v, .inn)]
    let t := mutT pts (g.lists ks)
    let n := (g.list u .out).degree
    let p := pay.getD 0
    let f := fun g => ks.foldl (stampMut t) (addRec v .inn (mkEdge t u p t eid) (addRec u .out (mkEdge t v p t eid) g))
    if maxDegree ≤ n ∨ maxDegree ≤ (g.list v .inn).degree then failRead g pts ks [3, 0]
    else match withPages g floor f with
      | none => failRead g pts ks [3, 0]
      | some g' => { words := [0, BitVec.ofNat 32 n], t := t, g := { g' with maxT := max g'.maxT t } }

/-- The edge that GDEL names: at a rank, or the lowest to an end. -/
def pickEdge (l : EList) (n : Nat) (byEnd : Bool) : Option Edge :=
  if byEnd then l.now.find? fun e => e.other == n else l.now[n]?

/-- GDEL. -/
def gDel (g : Graph) (pts v n : Nat) (d : Dir) (byEnd : Bool) : GRes :=
  if g.badVtx v then noVertex g pts v [2, endWord]
  else match pickEdge (g.list v d) n byEnd with
    | none => failRead g pts [(v, d)] [4, endWord]
    | some e =>
      let ks : List (Nat × Dir) := [(v, d), (e.other, (oppDir d))]
      let t := mutT pts (g.lists ks)
      let g' := ks.foldl (stampMut t) (killRec e.other (oppDir d) e.eid t (killRec v d e.eid t g))
      { words := [0, BitVec.ofNat 32 e.other], t := t, g := { g' with maxT := max g'.maxT t } }

/-- GSWAP and GSWAP.shared. -/
def gSwap (g : Graph) (floor : Option Nat) (pts v n w : Nat) (d : Dir) (shared : Bool) (eid : Nat) : GRes :=
  if g.badVtx v then noVertex g pts v [2, endWord]
  else if g.badVtx w then noVertex g pts w [2, endWord]
  else match (g.list v d).now[n]? with
    | none => failRead g pts [(v, d)] [4, endWord]
    | some e =>
      let x := e.other
      let old := BitVec.ofNat 32 x
      let ks : List (Nat × Dir) := [(v, d), (x, (oppDir d))] ++ (if w = x then [] else [(w, (oppDir d))])
      if shared ∧ (g.list x (oppDir d)).degree ≤ 1 then failRead g pts [(v, d), (x, (oppDir d))] [5, old]
      else
        let t := mutT pts (g.lists ks)
        let f := fun g =>
          ks.foldl (stampMut t) (addRec w (oppDir d) (mkEdge t v e.pay t eid) (addRec v d (mkEdge e.key w e.pay t eid)
            (killRec x (oppDir d) e.eid t (killRec v d e.eid t g))))
        if w ≠ x ∧ maxDegree ≤ (g.list w (oppDir d)).degree then failRead g pts ks [3, endWord]
        else match withPages g floor f with
          | none => failRead g pts ks [3, endWord]
          | some g' => { words := [0, old], t := t, g := { g' with maxT := max g'.maxT t } }

/-- GLDE. -/
def gLde (g : Graph) (pts v n : Nat) (d : Dir) : GRes :=
  if g.badVtx v then noVertex g pts v [2, endWord, 0, 0]
  else
    let r := failRead g pts [(v, d)] [4, endWord, 0, 0]
    match (g.list v d).now[n]? with
    | none => r
    | some e => { r with words := [0, BitVec.ofNat 32 e.other] ++ payWords e.pay }

/-- GDEG. -/
def gDeg (g : Graph) (pts v : Nat) (d : Dir) : GRes :=
  if g.badVtx v then noVertex g pts v [2, 0]
  else failRead g pts [(v, d)] [0, BitVec.ofNat 32 (g.list v d).degree]

/-! ## Snapshots (R88 to R92) -/

/-- Whether a graph is live for an operation at a time (R349). -/
def Graph.liveAt (g : Graph) (t : Nat) : Bool := decide (g.t ≤ t)

/-- Register a snapshot: the slot and the table, none when it is full (R90). -/
def snapAdd (snaps : Tbl Snap) (gid s : Nat) : Option (Nat × Tbl Snap) :=
  match snaps.find? fun e => e.2.gid == gid && e.2.s == s with
  | some (i, e) => some (i, tput snaps i { e with count := e.count + 1 })
  | none => match tfree snaps 0 16384 with
    | none => none
    | some i => some (i, tput snaps i { gid := gid, s := s, count := 1 })

/-- The edge of a rank at a snapshot: status, end and payload (R89). -/
def snapEdge (g : Graph) (v : Nat) (d : Dir) (s n : Nat) : List Word :=
  match ((g.list v d).asOf s)[n]? with
  | none => [4, endWord, 0, 0]
  | some e => [0, BitVec.ofNat 32 e.other] ++ payWords e.pay

end Sys2Proof.Machine
end

