-- ==== Sys2Proof/Machine/Place.lean ====
section
/-! DEFINITION. What a cluster can hold (R180, R212, R439), the order of a grid's gangs (R182), and the ready queues
(R413, R414, R417). -/

namespace Sys2Proof.Machine

/-! ## Sizes of a grid -/

/-- Waves of a team, blocks of a team (R188), gangs of a grid. -/
def Grid.blocks (g : Grid) : Nat := g.waves * g.base + g.q
def Grid.gangs (g : Grid) : Nat := g.gx * g.gy * g.gz

/-- Bytes of a gang's share of one core (R43). -/
def Grid.coreLocal (g : Grid) : Nat := 256 * g.loc / g.nteam

/-- ImageBytes (R439). -/
def Grid.image (g : Grid) : Nat :=
  65536 + 256 * g.loc + g.nteam * (16384 + g.waves * 16384 + 1024 * g.blocks + g.mat.toNat * 265216)

/-- The local part of a core at a split (R56). -/
def splitLocal (n : Nat) : Nat := 1024 * (if n = 0 then 448 else if n = 1 then 384 else 256)

/-! ## What a core holds -/

/-- Whether a gang holds cores: until every team is saved (R434). -/
def Gang.holds (g : Gang) : Bool := g.life == .resident || g.life == .halting

/-- The grid of a gang, and the gangs that hold a core, with their grids. -/
def State.gridOfGang (s : State) (g : Gang) : Grid := s.grid (gridKey g.part g.vertex)
def coreGangs (s : State) (core : Nat) : List (Nat × Gang) :=
  s.gangs.filter fun e => e.2.holds && decide (e.2.core0 ≤ core) && decide (core < e.2.core0 + (s.gridOfGang e.2).nteam)

/-- The teams on a core, and their waves. -/
def coreTeams (s : State) (core : Nat) : List (Nat × Team) :=
  s.teams.filter fun e => e.2.core == core && (s.gang e.2.gang).holds
def coreWaves (s : State) (core : Nat) : List (Nat × Wave) :=
  s.waves.filter fun e => e.2.core == core && (s.gang (s.team e.2.team).gang).holds

/-- Free wave slots, blocks, handles and local bytes of a core; a core with nothing on it takes a new split. -/
def freeSlots (s : State) (core : Nat) : Nat := 64 - (coreWaves s core).length
def freeBlocks (s : State) (core : Nat) : Nat :=
  512 - ((coreWaves s core).map (·.2.blocks)).foldl (· + ·) 0 - ((coreTeams s core).map (·.2.reserve)).foldl (· + ·) 0
def freeHandles (s : State) (core : Nat) : Nat :=
  64 - ((coreTeams s core).map fun t => (s.gridOfGang (s.gang t.2.gang)).handles).foldl (· + ·) 0
def freeLocal (s : State) (core split : Nat) : Nat :=
  splitLocal split - ((coreGangs s core).map fun g => (s.gridOfGang g.2).coreLocal).foldl (· + ·) 0
def emptyCore (s : State) (core : Nat) : Bool := coreGangs s core == []

/-- Whether a team holds the core's Roller (R212). -/
def rollerHeld (s : State) (core : Nat) : Bool := (coreTeams s core).any fun t => (s.gridOfGang (s.gang t.2.gang)).mat

/-- Whether a core satisfies the checks of R180 and R212 for a team of a grid. -/
def fitsCore (s : State) (g : Grid) (core : Nat) : Bool :=
  decide (g.waves ≤ freeSlots s core) && decide (g.blocks ≤ freeBlocks s core) && decide (g.handles ≤ freeHandles s core) &&
    (emptyCore s core || (s.core core).split == g.split) && decide (g.coreLocal ≤ freeLocal s core g.split) &&
    !(g.mat && rollerHeld s core)

/-- Whether a die takes no gangs (R446). -/
def dieFull (s : State) (die : Nat) : Bool := (s.die die).st != .running

/-- The lowest core offset at which a gang of a grid fits a cluster. -/
def fitsCluster (s : State) (g : Grid) (cluster : Nat) : Option Nat :=
  if dieFull s (clusterDie cluster) then none
  else (List.range (5 - g.nteam)).find? fun j => (List.range g.nteam).all fun i => fitsCore s g (4 * cluster + j + i)

/-- Clusters of a partition, and the first of them. -/
def partClusters (s : State) (p : Nat) : Nat := 8 * (s.part p).size
def absCluster (p c : Nat) : Nat := 8 * p + c

/-! ## The next gang (R182, R413, R439) -/

/-- A gang that waits for its resumption, of least issue index. -/
def againGang (s : State) (g : Grid) : Option Nat := leastBy (fun i => (s.gang i).q) g.again

/-- Whether a grid has a gang to place. -/
def Grid.hasNext (g : Grid) : Bool := !g.killed && (g.again != [] || decide (g.placed < g.gangs))

/-- Whether the image of a gang has room: a gang placed again has it reserved. -/
def imageRoom (s : State) (p : Nat) (g : Grid) : Bool :=
  g.again != [] || decide (((s.part p).reserved.map (·.2)).foldl (· + ·) 0 + g.image ≤ (s.part p).imgSize)

/-- The core offset at which the next gang of a vertex fits a partition-relative cluster (R424); a partition that stops
or has stopped places nothing (R453). -/
def fits (s : State) (p vertex c : Nat) : Option Nat :=
  let g := s.grid (gridKey p vertex)
  if 2 ≤ (s.part p).migr.st ∨ partClusters s p ≤ c ∨ ¬ g.hasNext ∨ ¬ imageRoom s p g then none else fitsCluster s g (absCluster p c)

/-- The partition-relative clusters at which it fits. -/
def fitList (s : State) (p vertex : Nat) : List Nat :=
  (List.range (partClusters s p)).filter fun c => (fits s p vertex c).isSome

/-! ## Coordinates (R182) -/

/-- Bits of a code at every third place. -/
def thirds (d k : Nat) : Nat → Nat
  | 0 => 0
  | n + 1 => d / 2 ^ k % 2 + 2 * thirds d (k + 3) n

/-- Bits needed for a number. -/
def bitsFor : Nat → Nat → Nat
  | 0, _ => 0
  | fuel + 1, n => if n = 0 then 0 else 1 + bitsFor fuel (n / 2)

/-- The `q`-th code from `d` on whose point a test keeps. -/
def nthCode (pt : Nat → Nat × Nat × Nat) (keep : Nat × Nat × Nat → Bool) : Nat → Nat → Nat → Nat × Nat × Nat
  | 0, _, _ => (0, 0, 0)
  | fuel + 1, d, q =>
    if keep (pt d) then (if q = 0 then pt d else nthCode pt keep fuel (d + 1) (q - 1)) else nthCode pt keep fuel (d + 1) q

/-- HilbertPoint, from step k with the point so far. -/
def hilbert (s : Nat) : Nat → Nat → Nat → Nat → Nat → Nat × Nat
  | 0, _, _, x, y => (x, y)
  | fuel + 1, k, t, x, y =>
    if s ≤ k then (x, y)
    else
      let rx := t / 2 % 2
      let ry := (t ^^^ rx) % 2
      let p := if ry = 0 then (if rx = 1 then (k - 1 - y, k - 1 - x) else (y, x)) else (x, y)
      hilbert s fuel (2 * k) (t / 4) (p.1 + k * rx) (p.2 + k * ry)

/-- The coordinates of gang q of a grid. -/
def curveAt (g : Grid) (q : Nat) : Nat × Nat × Nat :=
  match g.curve with
  | 0 => (q % g.gx, q / g.gx % g.gy, q / (g.gx * g.gy))
  | 1 =>
    let m := bitsFor 17 (max g.gx (max g.gy g.gz) - 1)
    nthCode (fun d => (thirds d 0 m, thirds d 1 m, thirds d 2 m))
      (fun p => decide (p.1 < g.gx) && decide (p.2.1 < g.gy) && decide (p.2.2 < g.gz)) (2 ^ (3 * m)) 0 q
  | 2 =>
    let s := 2 ^ bitsFor 17 (max g.gx g.gy - 1)
    let p := nthCode (fun d =>
        let h := hilbert s 18 1 d 0 0
        (h.1, h.2, 0))
      (fun p => decide (p.1 < g.gx) && decide (p.2.1 < g.gy)) (s * s) 0 (q % (g.gx * g.gy))
    (p.1, p.2.1, q / (g.gx * g.gy))
  | _ =>
    let e := (g.points.getD q 0).toNat
    (e % 65536, e / 65536 % 65536, e / 2 ^ 32 % 65536)

/-! ## Ready queues (R413, R414, R417) -/

def readyQ (s : State) (p q : Nat) : List QEnt := (tget (s.part p).queues q).getD []
def setQ (s : State) (p q : Nat) (es : List QEnt) : State := s.updPart p fun x => { x with queues := tput x.queues q es }

/-- Entries in use among the sixteen queues. -/
def queueUse (s : State) (p : Nat) : Nat := ((s.part p).queues.map (·.2.length)).foldl (· + ·) 0

/-- Request a dispatch decision; at most one is pending (R416). -/
def askDispatch (s : State) (p : Nat) : State :=
  s.updPart p fun x => if x.decReqs.contains .dispatch then x else { x with decReqs := x.decReqs ++ [.dispatch] }

/-- The running set: resident gangs of a partition that are neither suspended nor halting (R423). -/
def runningSet (s : State) (p : Nat) : List (Nat × Gang) := s.gangs.filter fun e => e.2.part == p && e.2.life == .resident

/-- A queue has a new head: a dispatch is requested, and a pre-emption where the head fits no cluster and a gang of a
lower priority runs (R414, R417). -/
def headArrives (s : State) (p q : Nat) : State :=
  match readyQ s p q with
  | [] => s
  | e :: _ =>
    let s := askDispatch s p
    if fitList s p e.vertex = [] ∧ (runningSet s p).any (fun g => g.2.runPrio < q) then
      s.updPart p fun x => { x with decReqs := x.decReqs ++ [.preempt false q] }
    else s

/-- Put an entry into its queue, at the tail or for a re-entry at the head; without a free entry the node waits for one,
re-entries first (R413). -/
def enqueue (s : State) (p : Nat) (e : QEnt) : State :=
  let q := (s.grid (gridKey p e.vertex)).queue
  if queueUse s p < 16384 then
    let es := readyQ s p q
    if e.reent then headArrives (setQ s p q (e :: es)) p q
    else if es = [] then headArrives (setQ s p q [e]) p q
    else setQ s p q (es ++ [e])
  else
    s.updPart p fun x =>
      { x with waitQ := if e.reent then x.waitQ.filter (·.reent) ++ [e] ++ x.waitQ.filter (!·.reent) else x.waitQ ++ [e] }

/-- Nodes that wait for an entry take the ones that are free. The age of an entry counts from when it is taken, that of a
re-entry from the pre-emption (R413). -/
def refill (p : Nat) : Nat → State → State
  | 0, s => s
  | fuel + 1, s =>
    match (s.part p).waitQ with
    | [] => s
    | e :: es =>
      if queueUse s p < 16384 then refill p fuel (enqueue (s.updPart p fun x => { x with waitQ := es }) p { e with since := if e.reent then e.since else s.cycle })
      else s

/-- Whether a node holds or awaits an entry. -/
def hasEntry (s : State) (p vertex : Nat) : Bool :=
  ((s.part p).queues.any fun q => q.2.any (·.vertex == vertex)) || (s.part p).waitQ.any (·.vertex == vertex)

/-- A node leaves its queue (R413). -/
def dequeue (s : State) (p vertex : Nat) : State :=
  let q := (s.grid (gridKey p vertex)).queue
  let es := readyQ s p q
  let wasHead := (es.head?.map (·.vertex)) == some vertex
  let s := setQ s p q (es.filter (·.vertex != vertex))
  let s := s.updPart p fun x => { x with waitQ := x.waitQ.filter (·.vertex != vertex) }
  refill p 16384 (if wasHead then headArrives s p q else s)

end Sys2Proof.Machine
end

