-- ==== Sys2Proof/Machine/Nodes.lean ====
section
/-! DEFINITION. The task graph: launch records, firing, arrivals and completion (spec/20: R407 to R412, R485). -/

namespace Sys2Proof.Machine

/-! ## The record (R407) -/

/-- The record of a node as one number. -/
def recOf (s : State) (p v : Nat) : Nat :=
  match tget (s.part p).graphs 0 with
  | none => 0
  | some g => bytesNat ((g.vtx v).rdPay 0 256)

/-- Bits hi to lo of a record. -/
def bits (r hi lo : Nat) : Nat := r / 2 ^ lo % 2 ^ (hi + 1 - lo)

/-- Replace bits hi to lo. -/
def setBits (r hi lo x : Nat) : Nat := r - bits r hi lo * 2 ^ lo + x % 2 ^ (hi + 1 - lo) * 2 ^ lo

def recPend (r : Nat) : Nat := bits r 31 0
def recKind (r : Nat) : Nat := bits r 35 32
def recQueue (r : Nat) : Nat := bits r 39 36
def recRearm (r : Nat) : Bool := r.testBit 40
def recState (r : Nat) : Nat := bits r 43 41
def recAgain (r : Nat) : Nat := bits r 63 56
def recPend0 (r : Nat) : Nat := bits r 95 64
def recRuns (r : Nat) : Nat := bits r 127 96
def recEntry (r : Nat) : Nat := bits r 191 128
def recPasid (r : Nat) : Nat := bits r 211 192
def recCond (r : Nat) : Nat := bits r 319 256
def recNotify (r : Nat) : Nat := bits r 383 320
def recStack (r : Nat) : Nat := bits r 447 384
def recCurve (r : Nat) : Nat := bits r 449 448
def recTable (r : Nat) : Nat := bits r 639 576

/-- The grid that a record asks for. -/
def gridFrom (p v r : Nat) : Grid :=
  { Grid.fresh with
    part := p, vertex := v, tx := bits r 767 752, ty := bits r 751 736, tz := bits r 735 720,
    stages := [bits r 719 712, bits r 711 704, bits r 703 696, bits r 695 688], nteam := bits r 687 684,
    split := bits r 683 682, mat := r.testBit 681, base := bits r 677 672, q := bits r 671 662, handles := bits r 661 655,
    loc := bits r 654 640, gx := bits r 527 512, gy := bits r 543 528, gz := bits r 559 544, curve := recCurve r,
    entry := BitVec.ofNat 64 (recEntry r), pasid := recPasid r, stack := BitVec.ofNat 64 (recStack r),
    stackSz := bits r 511 480, queue := recQueue r }

/-- The timestamp that a write of a record takes, at least `t` (R80, R351). -/
def recT (s : State) (p v t : Nat) : Nat :=
  match tget (s.part p).graphs 0 with
  | none => t
  | some g => max t ((g.vtx v).prts + 1)

/-- The scheduler writes a record: a mutation of the payload. None while the ceiling (R117) or a die under reset holds it. -/
def recWrite (s : State) (p v t : Nat) (f : Nat → Nat) : Option State :=
  match tget (s.part p).graphs 0 with
  | none => some s
  | some g =>
    let x := g.vtx v
    let t := recT s p v t
    if s.ceil < t ∨ homeOffline s (g.owner (some v)) then none
    else
      let x := { x with pay := payPut x.pay 0 (natBytes (f (recOf s p v)) 256), pwts := t, prts := t }
      some (s.updPart p fun q => { q with graphs := tput q.graphs 0 { g.setVtx v x with maxT := max g.maxT t } })

/-! ## The scheduler's own accesses (R410, R411, R485) -/

/-- What an access of the scheduler gives: it is held and tried again, it faults, it goes to a peer at an address, or it is
performed at a timestamp and reads a word. -/
inductive Got where
  | held
  | fault
  | peer (pa : Nat)
  | ok (t x : Nat)
  deriving DecidableEq, Repr

/-- Translate an address for the scheduler of a partition; none for any fault. -/
def schedXlat (s : State) (p pasid va : Nat) (a : Access) : State × Option (Nat × TlbEnt) :=
  match walk s (p / 3) p pasid va with
  | (s, .fault .., _) => (s, none)
  | (s, .leaf e, _) =>
    let pa := e.pa + (va - e.va)
    (s, if (accessFault e a).isNone ∧ ¬ homeOffline s (homeOf pa e.ms) then some (pa, e) else none)

/-- An ordinary 8-byte read of the scheduler, which takes the partition's lease (R100). -/
def schedRead (s : State) (p pasid va pts : Nat) : State × Got :=
  match schedXlat s p pasid va .read with
  | (s, none) => (s, .fault)
  | (s, some (pa, e)) =>
    if 1024 ≤ homeOf pa e.ms then (s, .peer pa)
    else match homeReadAt s (homeOf pa e.ms) pa 8 pts (some (s.part p).regs.lease) none 0 with
      | .ok (s, o) => (s, .ok o.t (bytesNat o.data))
      | .error _ => (s, .held)

/-- An atomic add to a NOTIFY word (R485): a read-modify-write that waits for the host as a store does (R114, R116). -/
def notifyAdd (s : State) (p pasid va pts x : Nat) : State × Got :=
  if va % 8 ≠ 0 then (s, .fault)
  else match schedXlat s p pasid va .rmw with
    | (s, none) => (s, .fault)
    | (s, some (pa, e)) =>
      let home := homeOf pa e.ms
      if 1024 ≤ home then (s, .peer pa)
      else if writeWaits s home pa then (s, .held)
      else match homeWriteAt s home pa pts (natBytes ((s.rd64 pa + x) % 2 ^ 64) 8) none 0 with
        | .ok (s, t) => (s, .ok t 0)
        | .error _ => (s, .held)

/-- The atomic add to a NOTIFY word at a peer (R115). -/
def notifyReq (p pa va x : Nat) : Req := xdReq (.atom .add .n64 (BitVec.ofNat 64 x) 0) p pa va 8

/-- What the scheduler keeps of a node that fires with a record at a timestamp (R409). -/
def firingOf (r t : Nat) : Firing :=
  { kind := recKind r, pasid := recPasid r, cond := recCond r, notify := recNotify r, killed := false, t := t, stage := 0,
    sent := 0, answer := none, tc := t, val := 0 }

def setFiring (s : State) (p v : Nat) (f : Firing) : State := s.updPart p fun q => { q with firings := tput q.firings v f }
def dropFiring (s : State) (p v : Nat) : State := s.updPart p fun q => { q with firings := tdel q.firings v }

/-- Whether an empty node waits for the acknowledgement of a peer: nothing else happens to it meanwhile. -/
def nodeBusy (s : State) (p v : Nat) : Bool :=
  match tget (s.part p).firings v with
  | none => false
  | some f => f.kind == 3

/-! ## The checks of a firing (R410, Table 20-3) -/

/-- A reserved field of a record is not zero. -/
def recReserved (r : Nat) : Bool :=
  bits r 1535 768 != 0 || bits r 680 678 != 0 || bits r 575 560 != 0 || bits r 479 450 != 0 || bits r 255 212 != 0 ||
    bits r 47 44 != 0

def badKind (r : Nat) : Bool :=
  recReserved r || decide (4 ≤ recKind r) || (recKind r != 0 && recEntry r != 0) ||
    (recKind r != 1 && recKind r != 2 && recCond r != 0)

/-- A breach of R177, or a kernel resource outside its limits. -/
def badShape (g : Grid) : Bool :=
  let dim := fun n : Nat => n == 0 || decide (1024 < n)
  let w := g.tx * g.ty * g.tz / 32
  dim g.tx || dim g.ty || dim g.tz || g.tx * g.ty * g.tz % 32 != 0 || w == 0 || decide (32 < w) ||
    g.stages.any (fun n => decide (32 < n)) || g.stages.foldl (· + ·) 0 != w || g.nteam == 0 || decide (4 < g.nteam) ||
    g.gx == 0 || g.gy == 0 || g.gz == 0 || (g.curve == 3 && decide (4096 < g.gangs)) || g.split == 3 || g.base == 0 ||
    decide (32 < g.base) || decide (512 < g.q) || decide (64 < g.handles) || g.loc % g.nteam != 0 ||
    decide (1572864 < 256 * g.loc) || decide (g.nteam * splitLocal g.split < 256 * g.loc)

/-- The entries of a curve table, read when the node fires: an error that tells whether a read is held, and otherwise
faults. Entries at a peer are free values (log entry 7). -/
def readTable (p pasid : Nat) : Nat → Nat → Nat → List DWord → State → State × Except Bool (List DWord)
  | 0, _, _, acc, s => (s, .ok acc)
  | n + 1, va, pts, acc, s =>
    match schedRead s p pasid va pts with
    | (s, .held) => (s, .error true)
    | (s, .fault) => (s, .error false)
    | (s, .peer _) =>
      let (x, s) := s.free
      readTable p pasid n (va + 8) pts (acc ++ [x]) s
    | (s, .ok _ x) => readTable p pasid n (va + 8) pts (acc ++ [BitVec.ofNat 64 x]) s

/-- Whether a table names a point outside the grid, a point twice, or has a reserved field that is not zero. -/
def badTable (g : Grid) (es : List DWord) : Bool :=
  es.any (fun e =>
    let n := e.toNat
    n / 2 ^ 48 != 0 || decide (g.gx ≤ n % 65536) || decide (g.gy ≤ n / 65536 % 65536) || decide (g.gz ≤ n / 2 ^ 32 % 65536)) ||
    es.eraseDups.length != es.length

/-- A gang that no empty core could hold, or whose image is larger than the image area. -/
def badFit (s : State) (p : Nat) (g : Grid) : Bool :=
  decide (512 < g.blocks) || decide (splitLocal g.split < g.coreLocal) || decide ((s.part p).imgSize < g.image)

/-- Misaligned addresses of a record. -/
def badAddr (r : Nat) : Bool :=
  recEntry r % 4 != 0 || recCond r % 8 != 0 || recNotify r % 8 != 0 || recStack r % 8 != 0 || bits r 511 480 % 8 != 0

/-- The last checks of a firing: NO_FIT and BAD_ADDR. -/
def lastCheck (s : State) (p r : Nat) (g : Grid) : State × Nat :=
  if recKind r = 0 ∧ badFit s p g then (s, 4)
  else if badAddr r then (s, 5)
  else if recKind r = 1 ∨ recKind r = 2 then
    match schedXlat s p (recPasid r) (recCond r) .read with
    | (s, none) => (s, 5)
    | (s, some _) => (s, 0)
  else (s, 0)

/-- The checks of a firing at a timestamp: the state after the reads, the code, zero for none, and the curve table; none
while a read is held. -/
def fireCheck (s : State) (p v t : Nat) : State × Option (Nat × List DWord) :=
  let r := recOf s p v
  let g := gridFrom p v r
  if badKind r then (s, some (1, []))
  else match pasidRoot s p (recPasid r) with
    | (s, .error _) => (s, some (6, []))
    | (s, .ok _) =>
      if recKind r = 0 ∧ badShape g then (s, some (2, []))
      else if recKind r = 0 ∧ g.curve = 3 then
        if recTable r % 8 ≠ 0 then (s, some (5, []))
        else match readTable p (recPasid r) g.gangs (recTable r) t [] s with
          | (s, .error held) => (s, if held then none else some (5, []))
          | (s, .ok es) =>
            if badTable g es then (s, some (3, []))
            else
              let l := lastCheck s p r g
              (l.1, some (l.2, es))
      else
        let l := lastCheck s p r g
        (l.1, some (l.2, []))

/-! ## Completion (R411) -/

/-- The successors that receive an arrival (Table 20-4). -/
def successors (kind cond : Nat) (es : List Edge) : List Nat :=
  let ends := es.map (·.other)
  match kind with
  | 1 => match ends[min cond (ends.length - 1)]? with
    | none => []
    | some v => [v]
  | 2 => match ends[if cond = 0 then 1 else 0]? with
    | none => []
    | some v => [v]
  | _ => ends

/-- Steps 1 and 2 of a completion at Tc: RUNS, and NOTIFY, to which a killed grid's node adds 0x1_0000_0001 (R441). The flag
tells that the node waits for a peer; none while a write is held. -/
def notifyStep (s : State) (p v tc : Nat) (f : Firing) : Option (State × Bool) :=
  match recWrite s p v tc fun r => setBits r 127 96 (recRuns r + 1) with
  | none => none
  | some s =>
    let x := if f.killed then 0x100000001 else 1
    if f.notify = 0 then some (s, false)
    else match notifyAdd s p f.pasid f.notify tc x with
      | (_, .held) => none
      | (s, .fault) => match recWrite s p v tc fun r => setBits r 55 48 8 with
        | none => none
        | some s => some (s, false)
      | (s, .peer pa) =>
        let q := xdSend s (notifyReq p pa f.notify x)
        some (setFiring q.2 p v { f with stage := 2, sent := q.1, answer := none, tc := tc }, true)
      | (s, .ok ..) => some (s, false)

/-- Step 3: the out-list is read, and its successors receive arrivals; a killed grid's node sends none (R441). -/
def walkStep (s : State) (p v tc : Nat) (f : Firing) : Option State :=
  match tget (s.part p).graphs 0 with
  | none => some s
  | some g =>
    let l := g.list v .out
    let tw := max tc l.wts
    if f.killed then some s
    else if s.ceil < tw ∨ homeOffline s (g.owner (some v)) then none
    else
      let next := successors f.kind f.val (l.asOf tw)
      let g := g.setList v .out { l with rts := max l.rts tw }
      some (s.updPart p fun q => { q with graphs := tput q.graphs 0 g, arrivals := q.arrivals ++ next.map fun u => (u, tw) })

/-- Step 4: a firing that is owed fires, at the timestamp of the write that takes it off AGAIN, which lies above every
arrival that it counts; and otherwise the node is WAITING or DONE. -/
def stateStep (fire : Nat → State → Option State) (s : State) (p v tc : Nat) : Option State :=
  let r := recOf s p v
  let s := dropFiring s p v
  if recRearm r ∧ 0 < recAgain r then
    match recWrite s p v tc fun r => setBits r 63 56 (recAgain r - 1) with
    | none => none
    | some s' => fire (recT s p v tc) s'
  else recWrite s p v tc fun r => setBits r 43 41 (if recRearm r then 1 else 4)

/-! ## Firing (R410) -/

/-- A rejection: the node becomes REJECTED with its code, and NOTIFY grows by 0x1_0000_0000. -/
def reject (s : State) (p v t code : Nat) : Option State :=
  match recWrite s p v t fun r => setBits (setBits r 43 41 5) 55 48 code with
  | none => none
  | some s =>
    let r := recOf s p v
    if recNotify r = 0 then some s
    else match notifyAdd s p (recPasid r) (recNotify r) t 0x100000000 with
      | (_, .held) => none
      | (s, .peer pa) => some (xdSend s (notifyReq p pa (recNotify r) 0x100000000)).2
      | (s, _) => some s

/-- A node fires at a timestamp; `owed` tells a firing owed in AGAIN, which does not reload PEND. An empty node completes at
once, and may fire as often as AGAIN says, at most 255 times. None while an access is held. -/
def fireNode (p v : Nat) : Nat → Bool → Nat → State → Option State
  | 0, _, _, _ => none
  | fuel + 1, owed, t, s =>
    match fireCheck s p v t with
    | (_, none) => none
    | (s, some (code, table)) =>
      let r := recOf s p v
      let f := firingOf r t
      if code ≠ 0 then reject s p v t code
      else match if recRearm r ∧ ¬ owed then recWrite s p v t fun r => setBits r 31 0 (recPend0 r) else some s with
        | none => none
        | some s =>
          match recKind r with
          | 0 => match recWrite s p v t fun r => setBits r 43 41 2 with
            | none => none
            | some s =>
              let s := s.setGrid (gridKey p v) { gridFrom p v r with points := table, fired := t, top := t }
              some (enqueue (setFiring s p v f) p { vertex := v, since := s.cycle, reent := false })
          | 3 => match notifyStep s p v t f with
            | none => none
            | some (s, true) => some s
            | some (s, false) => match walkStep s p v t f with
              | none => none
              | some s => stateStep (fireNode p v fuel true) s p v t
          | _ => match recWrite s p v t fun r => setBits r 43 41 3 with
            | none => none
            | some s => some (setFiring s p v f)

/-- A node fires. -/
def fire (s : State) (p v t : Nat) : Option State := fireNode p v 257 false t s

/-- Steps 3 and 4 of a completion. -/
def walkOn (s : State) (p v tc : Nat) (f : Firing) : Option State :=
  match walkStep s p v tc f with
  | none => none
  | some s => stateStep (fireNode p v 257 true) s p v tc

/-- A node completes at Tc (R411). -/
def complete (s : State) (p v tc : Nat) (f : Firing) : Option State :=
  match notifyStep s p v tc f with
  | none => none
  | some (s, true) => some s
  | some (s, false) => walkOn s p v tc f

/-- An arrival at a node after the walk at Tw (Table 20-2). -/
def arrive (s : State) (p v tw : Nat) : Option State :=
  let r := recOf s p v
  let t := recT s p v (tw + 1)
  let less := recPend r - 1
  if nodeBusy s p v then none
  else match recState r with
    | 0 => recWrite s p v t fun r => setBits r 31 0 less
    | 1 => match recWrite s p v t fun r => setBits r 31 0 less with
      | none => none
      | some s => if less = 0 then fire s p v t else some s
    | 2 | 3 =>
      if ¬ recRearm r then some s
      else if less ≠ 0 then recWrite s p v t fun r => setBits r 31 0 less
      else if recAgain r = 255 then recWrite s p v t fun r => setBits r 55 48 7
      else recWrite s p v t fun r => setBits (setBits r 63 56 (recAgain r + 1)) 31 0 (recPend0 r)
    | _ => some s

/-- Whether a partition runs no node: it is stopped, or takes its image (R453). -/
def nodesHeld (s : State) (p : Nat) : Bool := 3 ≤ (s.part p).migr.st

/-- NODE_ARRIVAL (R410): the oldest arrival that is still to be delivered, when it is this node's. -/
def execNodeArrival (part vertex : Nat) (s : State) : Out :=
  .next (match (s.part part).arrivals with
    | [] => s
    | (v, tw) :: rest =>
      if v = vertex ∧ ¬ nodesHeld s part then
        match arrive (s.updPart part fun q => { q with arrivals := rest }) part v tw with
        | none => s
        | some s' => s'
      else s)

/-- The condition word of a node that runs is read, after the arrivals that fired it; a fault is tried again, since the
firing has found the word readable. -/
def condRead (s : State) (p v : Nat) (f : Firing) : Option State :=
  let pts := match tget (s.part p).graphs 0 with
    | none => f.t
    | some g => max f.t (g.vtx v).pwts
  match schedRead s p f.pasid f.cond pts with
  | (s, .ok t c) => complete s p v t { f with val := c }
  | (s, .peer pa) =>
    let q := xdSend s (xdReq (.read none) p pa f.cond 8)
    some (setFiring q.2 p v { f with stage := 1, sent := q.1, answer := none, tc := pts })
  | _ => none

/-- A kernel node completes when its grid has ended. -/
def gridNode (s : State) (p v : Nat) (f : Firing) : Option State :=
  let k := gridKey p v
  match tget s.grids k with
  | none => none
  | some g => if g.done then complete { s with grids := tdel s.grids k } p v g.top { f with killed := g.killed } else none

/-- What stands behind the answer of a peer to a node's add to its NOTIFY word: an add that the peer has refused is dropped, with
STATUS NOTIFY_FAULT (R485). -/
def notified (s : State) (p v : Nat) (f : Firing) (refused : Bool) : Option State :=
  match if refused then recWrite s p v f.tc fun r => setBits r 55 48 8 else some s with
  | none => none
  | some s => walkOn s p v f.tc f

/-- The next step of a node that has fired: its completion, or after the answer of a peer what stands behind it. -/
def nodeStep (s : State) (p v : Nat) (f : Firing) : Option State :=
  match f.stage, f.answer with
  | 0, _ => if f.kind = 0 then gridNode s p v f else condRead s p v f
  | 1, some c => complete s p v f.tc { f with val := c }
  | _, some x => notified s p v f (x != 0)
  | _, none => none

/-- NODE_COMPLETION (R411): of a kernel node whose grid has ended, or of a conditional or while node, whose condition
word is read first. -/
def execNodeCompletion (part vertex : Nat) (s : State) : Out :=
  .next (match tget (s.part part).firings vertex with
    | none => s
    | some f =>
      if nodesHeld s part then s
      else match nodeStep s part vertex f with
        | none => s
        | some s' => s')

/-! ## Writes of a program (R409) -/

/-- A write to a launch record by GSTV: its result, and whether the node fires. -/
def taskStv (g : Graph) (pts v : Nat) (wide : Bool) (off : Nat) (data : BitVec 128) : GRes × Bool :=
  if g.badPart off wide ∨ g.badVtx v ∨ 2 ≤ off then (gStv g pts v wide off data, false)
  else
    let r := bytesNat ((g.vtx v).rdPay 0 256)
    let st := recState r
    let word0 : Nat := if off = 0 then (data.extractLsb' 0 64).toNat else bits r 63 0
    let word1 : Nat := if off = 1 then (data.extractLsb' 0 64).toNat else if wide then (data.extractLsb' 64 64).toNat
      else bits r 127 64
    let new := bits word0 43 41
    if st = 2 ∨ st = 3 ∨ (off = 0 ∧ 2 ≤ new) then
      let x := g.vtx v
      let t := max pts x.pwts
      ({ words := [8], t := t, g := g.setVtx v { x with prts := max x.prts t } }, false)
    else
      let status := if off = 0 ∧ st = 5 ∧ new = 1 then 0 else bits r 55 48
      let word0 := setBits (setBits word0 63 56 (recAgain r)) 55 48 status
      let word1 := setBits word1 63 32 (recRuns r)
      let d := if off = 1 then BitVec.ofNat 128 word1 else BitVec.ofNat 128 (word0 + 2 ^ 64 * word1)
      let res := gStv g pts v wide off d
      (res, bits word0 43 41 == 1 && bits word0 31 0 == 0)

/-- GFREEV on the task graph: a node that is READY or RUNNING is not freed (R409). -/
def taskFreev (g : Graph) (pts v : Nat) : GRes :=
  let st := recState (bytesNat ((g.vtx v).rdPay 0 256))
  if ¬ g.badVtx v ∧ (st = 2 ∨ st = 3) then
    let x := g.vtx v
    let t := max pts x.pwts
    { words := [8], t := t, g := g.setVtx v { x with prts := max x.prts t } }
  else gFreev g pts v

end Sys2Proof.Machine
end

