-- ==== Sys2Proof/Machine/Lath.lean ====
section
/-! DEFINITION. The graph instructions and the lath engines that perform them (spec/16, spec/04). -/

namespace Sys2Proof.Machine

/-! ## Issue (R343 to R347) -/

/-- The gid of an instruction (R347). -/
def gidVal (w : Wave) : GidSrc → Nat
  | .imm n => n.toNat
  | .w n => (w.wget n.toNat).toNat

/-- Whether a lane of an operation carries a request token (R359). -/
def GOp.token : GOp → Bool
  | .newg _ | .close _ | .newv _ | .freev _ | .add .. | .del .. | .swap .. | .stv .. | .opn .. => true
  | _ => false

/-- Whether an operation is a GNEWG. -/
def GOp.isNewg : GOp → Bool
  | .newg _ => true
  | _ => false

/-- Whether LATH_MUTATION performs an operation; LATH_READ performs the others. -/
def GOp.mutates : GOp → Bool
  | .newg _ | .newv _ | .freev _ | .add .. | .del .. | .swap .. | .stv .. => true
  | _ => false

/-- The vertex that an operation names first, none for the allocator; a cursor's vertex for a cursor read. -/
def GOp.vertex (w : Wave) (lane : Nat) : GOp → Option Nat
  | .newg _ | .newv _ => none
  | .freev v | .add v .. | .del v .. | .swap v .. | .lde v .. | .deg v _ | .ldv v .. | .stv v .. | .opn v .. => some v
  | .close c | .next c | .seek c _ => (tget w.cur (curKey lane c)).map (·.vtx)

/-- The home of the engine to which a lane's operation goes. -/
def opHome (s : State) (part gid : Nat) (v : Option Nat) : Nat :=
  match tget (s.part part).graphs gid with
  | none => 800
  | some g => g.owner v

/-- The registers that a graph result names as pending: group, predicate, cursor (R251). -/
def graphRegs (pd : Pred) (d : DReg) (k : Nat) (cur : Option (BitVec 2)) : List Nat :=
  dregs d k ++ (if pd = 7 then [] else [384 + pd.toNat]) ++ (match cur with
    | none => []
    | some n => [392 + n.toNat])

/-- A graph instruction of a wave: each lane of E is a request to the engine that owns its vertex. -/
def graphOp (s : State) (hd : Hdr) (u : Use) (pd : Pred) (d : DReg) (k : Nat) (cur : Option (BitVec 2)) (gid : Wave → Nat)
    (op : Wave → Nat → GOp) : State :=
  issue s hd u fun c =>
    let lanes := lanesOf c.E
    let ntok := (lanes.filter fun l => (op c.w l).token).length
    if lanes = [] then finishNext s c hd c.w
    else if peerBusy s c.id c.E ∨ ¬ roomFor s c.w c.id lanes.length ntok then s
    else
      let fl := { flightOf c hd (graphRegs pd d k cur) .graphRes d with left := c.E, pd := pd, cur := cur.map (·.toNat) }
      let r := startFlight s fl c.w
      let s := lanes.foldl (fun s l =>
        let o := op c.w l
        let h := opHome s (s.partNo c.w) (gid c.w) (o.vertex c.w l)
        sendReq s (laneReq s c (.graph (gid c.w) o) l r.1 0 0 0 h 0 0) o.token) (r.2.1.setWave c.id r.2.2)
      finishNext s c hd (s.wave c.id)

/-- A source as a number. -/
def num32 (s : State) (w : Wave) (l : Nat) (x : Src) : Nat := (rd32 s w l x).toNat

/-- GNEWV (R350). -/
def execGnewv (hd : Hdr) (pd : Pred) (d : DReg) (g : GidSrc) (a : Src) (s : State) : Out :=
  .next (graphOp s hd (useOf (.gnewv hd pd d g a)) pd d 2 none (gidVal · g) fun w l => .newv (num32 s w l a))

/-- GFREEV (R78, R350). -/
def execGfreev (hd : Hdr) (pd : Pred) (d : DReg) (g : GidSrc) (a : Src) (s : State) : Out :=
  .next (graphOp s hd (useOf (.gfreev hd pd d g a)) pd d 1 none (gidVal · g) fun w l => .freev (num32 s w l a))

/-- GADD (R352). -/
def execGadd (hd : Hdr) (pd : Pred) (d : DReg) (g : GidSrc) (a b : Src) (c : Option Src) (s : State) : Out :=
  .next (graphOp s hd (useOf (.gadd hd pd d g a b c)) pd d 2 none (gidVal · g) fun w l =>
    .add (num32 s w l a) (num32 s w l b) (c.map (rd64 s w l)))

/-- GDEL (R353). -/
def execGdel (hd : Hdr) (pd : Pred) (d : DReg) (g : GidSrc) (a b : Src) (dir : Dir) (byEnd : Bool) (s : State) : Out :=
  .next (graphOp s hd (useOf (.gdel hd pd d g a b dir byEnd)) pd d 2 none (gidVal · g) fun w l =>
    .del (num32 s w l a) (num32 s w l b) dir byEnd)

/-- GSWAP (R354). -/
def execGswap (hd : Hdr) (pd : Pred) (d : DReg) (g : GidSrc) (a b c : Src) (dir : Dir) (s : State) : Out :=
  .next (graphOp s hd (useOf (.gswap hd pd d g a b c dir)) pd d 2 none (gidVal · g) fun w l =>
    .swap (num32 s w l a) (num32 s w l b) (num32 s w l c) dir false)

/-- GSWAP.shared (R83, R354). -/
def execGswapShared (hd : Hdr) (pd : Pred) (d : DReg) (g : GidSrc) (a b c : Src) (dir : Dir) (s : State) : Out :=
  .next (graphOp s hd (useOf (.gswapShared hd pd d g a b c dir)) pd d 2 none (gidVal · g) fun w l =>
    .swap (num32 s w l a) (num32 s w l b) (num32 s w l c) dir true)

/-- GLDE (R355). -/
def execGlde (hd : Hdr) (pd : Pred) (d : DReg) (g : GidSrc) (a b : Src) (dir : Dir) (s : State) : Out :=
  .next (graphOp s hd (useOf (.glde hd pd d g a b dir)) pd d 4 none (gidVal · g) fun w l =>
    .lde (num32 s w l a) (num32 s w l b) dir)

/-- GDEG (R355). -/
def execGdeg (hd : Hdr) (pd : Pred) (d : DReg) (g : GidSrc) (a : Src) (dir : Dir) (s : State) : Out :=
  .next (graphOp s hd (useOf (.gdeg hd pd d g a dir)) pd d 2 none (gidVal · g) fun w l => .deg (num32 s w l a) dir)

/-- GLDV (R351). -/
def execGldv (hd : Hdr) (pd : Pred) (d : DReg) (g : GidSrc) (a : Src) (sz : Bool) (off : BitVec 5) (s : State) : Out :=
  .next (graphOp s hd (useOf (.gldv hd pd d g a sz off)) pd d (if sz then 8 else 4) none (gidVal · g) fun w l =>
    .ldv (num32 s w l a) sz off.toNat)

/-- GSTV (R351, R409). -/
def execGstv (hd : Hdr) (pd : Pred) (d : DReg) (g : GidSrc) (a b : Src) (sz : Bool) (off : BitVec 5) (s : State) : Out :=
  .next (graphOp s hd (useOf (.gstv hd pd d g a b sz off)) pd d 1 none (gidVal · g) fun w l =>
    .stv (num32 s w l a) sz off.toNat (if sz then rdQuad s w l b else (rd64 s w l b).setWidth 128))

/-- GOPEN (R357). -/
def execGopen (hd : Hdr) (pd : Pred) (d : DReg) (g : GidSrc) (a : Src) (dir : Dir) (cur : BitVec 2) (s : State) : Out :=
  .next (graphOp s hd (useOf (.gopen hd pd d g a dir cur)) pd d 2 (some cur) (gidVal · g) fun w l =>
    .opn (num32 s w l a) dir cur.toNat)

/-- GNEXT (R357). -/
def execGnext (hd : Hdr) (pd : Pred) (d : DReg) (cur : BitVec 2) (s : State) : Out :=
  .next (graphOp s hd (useOf (.gnext hd pd d cur)) pd d 4 (some cur) (fun _ => 0) fun _ _ => .next cur.toNat)

/-- GSEEK (R357). -/
def execGseek (hd : Hdr) (pd : Pred) (d : DReg) (b : Src) (cur : BitVec 2) (s : State) : Out :=
  .next (graphOp s hd (useOf (.gseek hd pd d b cur)) pd d 4 (some cur) (fun _ => 0) fun w l =>
    .seek cur.toNat (num32 s w l b))

/-- Write the result group and the predicate of one lane. -/
def putGroup (w : Wave) (d : DReg) (pd : Pred) (lane : Nat) (ws : List Word) : Wave :=
  (putLane w d lane lane 0 ws).pput pd ((1 : LaneSet) <<< lane) fun _ => ws.headD 0 == 0

/-- GCLOSE in one lane (R357): it is performed as its request is sent, and the answer is kept under its token (R359). -/
def closeLane (c : Ctx) (fid cur : Nat) (s : State) (l : Nat) : State :=
  let r := laneReq s c (.graph 0 (.close cur)) l fid 0 0 0 800 0 0
  match tget (s.wave c.id).cur (curKey l cur) with
  | none => answerAt s r [4, endWord] 0 true
  | some k => answerAt (closeCursor s c.id l cur) r [0, BitVec.ofNat 32 k.pos] 0 true

/-- GCLOSE (R357): registrations end, and waiters on the floor may return (R90, R95). -/
def execGclose (hd : Hdr) (pd : Pred) (d : DReg) (cur : BitVec 2) (s : State) : Out :=
  .next (issue s hd (useOf (.gclose hd pd d cur)) fun c =>
    let lanes := lanesOf c.E
    if lanes = [] then finishNext s c hd c.w
    else if lanesBusy s c.id c.E ∨ peerBusy s c.id c.E ∨ ¬ roomFor s c.w c.id lanes.length lanes.length then s
    else
      let fl := { flightOf c hd (graphRegs pd d 2 (some cur)) .graphRes d with left := c.E, pd := pd, cur := some cur.toNat }
      let r := startFlight s fl c.w
      let s := lanes.foldl (closeLane c r.1 cur.toNat) (r.2.1.setWave c.id r.2.2)
      finishNext s c hd (s.wave c.id))

/-- The read timestamp of a graph table entry, and a read of it. -/
def gtabRead (s : State) (part gid t : Nat) : State :=
  s.updPart part fun p => { p with gtab := tput p.gtab gid (max ((tget p.gtab gid).getD 0) t) }

/-- Whether a graph is live in a partition at a time (Table 4-3, R349). -/
def graphLive (s : State) (part gid t : Nat) : Bool :=
  match tget (s.part part).graphs gid with
  | none => false
  | some g => g.liveAt t

/-- GWAITLOW (R95, R358). -/
def execGwaitlow (hd : Hdr) (pd : Pred) (d : DReg) (g : GidSrc) (a : Src) (s : State) : Out :=
  .next (issue s hd (useOf (.gwaitlow hd pd d g a)) fun c =>
    if c.E = 0 then finishNext s c hd c.w
    else
      let gid := gidVal c.w g
      let t := (lanesOf c.E).foldl (fun m l => max m (rd64 s c.w l a).toNat) 0
      let p := s.partNo c.w
      let pts := (lanesOf c.E).foldl (fun m l => max m (lanePts s c.w.core c.id l)) 0
      let r := startFlight s { flightOf c hd (graphRegs pd d 1 none) (.kept 1) d with left := c.E, pd := pd } c.w
      if ¬ graphLive s p gid pts then
        passBlock (setKept (if gid < 65536 then gtabRead r.2.1 p gid pts else r.2.1) r.1 1) c hd r.2.2
      else if floorPast (s.part p) gid t then passBlock (setKept r.2.1 r.1 0) c hd r.2.2
      else block r.2.1 c hd r.2.2 (.gwaitlow gid t r.1))

/-! ## GNEWG (R73, R74, R349) -/

/-- The pieces of a backing region, one for each page of 64 KiB, joined where they follow one another; none when a page
fails R48. -/
def regionSegs (part pasid base : Nat) : Nat → Nat → List RegSeg → State → State × Option (List RegSeg)
  | 0, _, acc, s => (s, some acc.reverse)
  | n + 1, off, acc, s =>
    match walk s (part / 3) part pasid (base + off) with
    | (s, .fault .., _) => (s, none)
    | (s, .leaf e, _) =>
      if e.gb ∧ e.tier = 0 ∧ ¬ e.ms then
        let pa := e.pa + (base + off - e.va)
        match acc with
        | x :: xs =>
          if x.pa + x.len = pa ∧ x.code = e.code then regionSegs part pasid base n (off + 65536) ({ x with len := x.len + 65536 } :: xs) s
          else regionSegs part pasid base n (off + 65536) ({ off := off, pa := pa, len := 65536, code := e.code } :: acc) s
        | [] => regionSegs part pasid base n (off + 65536) [{ off := off, pa := pa, len := 65536, code := e.code }] s
      else (s, none)

/-- Whether two regions overlap. -/
def segsMeet (a b : List RegSeg) : Bool := a.any fun x => b.any fun y => x.pa < y.pa + y.len && y.pa < x.pa + x.len

/-- The payload size that VPS gives. -/
def vpsSize (n : Nat) : Nat := if n = 0 then 0 else 8 * 2 ^ (n - 1)

/-- A descriptor that step 1 of R74 or its reserved fields reject. -/
def badDesc (x : Nat) : Bool :=
  let vps := bits x 170 168
  let vcap := bits x 159 128
  let base := bits x 63 0
  let size := bits x 127 64
  bits x 255 192 != 0 || bits x 175 172 != 0 || bits x 167 160 != 0 || vps == 7 || vcap == 0 || decide (2 ^ 30 < vcap) ||
    base % 65536 != 0 || base / 2 ^ 56 != 0 || size % 65536 != 0 || decide (size < minSize vcap (vpsSize vps)) ||
    decide (2 ^ 38 < size)

/-- One lane of GNEWG on a descriptor: the state, the timestamp it takes (zero for none), status and gid. One that fails reads
an entry of the graph table: for GID_TAKEN the wanted one, or entry 0 where any would do, and for REGION the one that it would
have taken, at pts. The manual does not say (DESIGN CHOICE, log entry 63). -/
def newGraph (s : State) (part pasid pts x : Nat) : State × Nat × Nat × Nat :=
  if badDesc x then (s, 0, 8, 0)
  else
    let p := s.part part
    let want := bits x 191 176
    let gid := if want = 0 then tfree p.graphs 1 65535 else if (tget p.graphs want).isSome then none else some want
    match gid with
    | none =>
      let t := max pts (match tget p.graphs want with
        | none => 0
        | some g => g.t)
      (gtabRead s part want t, t, 7, 0)
    | some gid =>
      let base := bits x 63 0
      let size := bits x 127 64
      match regionSegs part pasid base (size / 65536) 0 [] s with
      | (s, none) => (gtabRead s part gid pts, pts, 9, 0)
      | (s, some segs) =>
        if p.graphs.any fun g => segsMeet g.2.segs segs then (gtabRead s part gid pts, pts, 9, 0)
        else
          let t := max pts ((tget p.gtab gid).getD 0 + 1)
          let g : Graph :=
            { vcap := bits x 159 128, psize := vpsSize (bits x 170 168), eps := x.testBit 171, base := base, size := size,
              pasid := pasid, segs := segs, t := t, awts := 0, arts := 0, h := 0, maxT := 0, verts := [] }
          (s.updPart part fun p => { p with graphs := tput p.graphs gid g, gtab := tput p.gtab gid t }, t, 0, gid)

/-- GNEWG (R349): the lanes load their descriptors, as ordinary loads of 32 bytes, and behind each load stands the request with
a token that creates the graph. -/
def execGnewg (hd : Hdr) (pd : Pred) (d : DReg) (a : Src) (s : State) : Out :=
  .next (issue s hd (useOf (.gnewg hd pd d a)) fun c =>
    let eas := laneAddrs c.E fun l => (rd64 s c.w l a).toNat
    match misaligned 32 eas with
    | some va => trapCtx s c 3 va
    | none =>
      withXlat s c (eas.map fun e => (e.2, .read)) fun c s xs =>
        if xs = [] then finishNext s c hd c.w
        else if peerBusy s c.id c.E ∨ ¬ roomFor s c.w c.id (2 * eas.length) eas.length then s
        else
          let as := laneAccs eas xs
          let fl := { flightOf c hd (graphRegs pd d 2 none) .desc d with pd := pd, vals := List.replicate 256 0 }
          let r := startFlight s fl c.w
          let t := sendLanes (loadLane c { l1 := 0, home := 0 } 32) r.1 as (r.2.1.setWave c.id r.2.2) 0
          if (tget t.1.flights r.1).isNone then t.1
          else
            let s := { t.1 with flights := tupd t.1.flights r.1 fun x => { x with left := t.2 } }
            let s := as.foldl (fun s x => sendReq s (laneReq s c (.graph 0 (.newg (s.gridOf c.w).pasid)) x.lane r.1 0 0 0 800 0 0) true) s
            finishNext s c hd (s.wave c.id))

/-- The descriptor that a lane of a GNEWG in flight has loaded. -/
def descOfLane (f : Flight) (lane : Nat) : Nat := bytesNat (wordsBytes ((f.vals.drop (8 * lane)).take 8))

/-! ## Performing a lane's operation (R80, R84, R97) -/

/-- Status words of an operation that fails before it reads anything. -/
def failWords (op : GOp) (st : Word) : List Word :=
  match op with
  | .newg _ | .newv _ | .add .. | .deg .. | .opn .. => [st, 0]
  | .freev _ | .stv .. => [st]
  | .close _ | .del .. | .swap .. => [st, endWord]
  | .lde .. | .next _ | .seek .. => [st, endWord, 0, 0]
  | .ldv _ wide _ => st :: List.replicate (if wide then 7 else 3) 0

/-- The time at which an operation looks for its graph (R349, R357). -/
def lookT (g : Graph) (pts : Nat) : GOp → Nat
  | .newv h =>
    let v := lowestFree g (g.verts.length + 1) h
    if g.vcap ≤ v then max pts g.awts else allT g pts v
  | .newg _ | .close _ => g.t
  | .opn .. => max pts g.h
  | .freev v | .add v .. | .del v .. | .swap v .. | .lde v .. | .deg v _ | .ldv v .. | .stv v .. =>
    if g.vcap ≤ v then pts else max pts g.awts
  | .next _ | .seek .. => g.t

/-- An operation on a live graph that is neither a cursor's nor a GOPEN: its result, and whether a task-graph node
fires. -/
def graphDo (g : Graph) (task : Bool) (floor : Option Nat) (pts eid : Nat) : GOp → GRes × Bool
  | .newv h => (gNewv g pts h, false)
  | .freev v => (if task then taskFreev g pts v else gFreev g pts v, false)
  | .add u v pay => (gAdd g floor pts u v pay eid, false)
  | .del v n d byEnd => (gDel g pts v n d byEnd, false)
  | .swap v n w d shared => (gSwap g floor pts v n w d shared eid, false)
  | .lde v n d => (gLde g pts v n d, false)
  | .deg v d => (gDeg g pts v d, false)
  | .ldv v wide off => (gLdv g pts v wide off, false)
  | .stv v wide off data => if task then taskStv g pts v wide off data else (gStv g pts v wide off data, false)
  | op => ({ words := failWords op 4, t := 0, g := g }, false)

/-- Put a graph back. -/
def setGraph (s : State) (part gid : Nat) (g : Graph) : State := s.updPart part fun p => { p with graphs := tput p.graphs gid g }

/-- The engine's answer to a lane, kept under its token. -/
def graphReply (s : State) (id : Nat) (r : Req) (words : List Word) (t : Nat) : State :=
  sendReply (keepToken s r words t) id words t 0 0 [] 0 false

/-- NO_GRAPH: a read of the graph table's entry (R349). -/
def noGraph (s : State) (id : Nat) (r : Req) (gid pts : Nat) (op : GOp) : State :=
  graphReply (if gid < 65536 then gtabRead s r.part gid pts else s) id r (failWords op 1) 0

/-- GOPEN at its engine (R357). The reply carries the snapshot and the slot behind the result words. One whose team has
been killed registers nothing (R90). -/
def openDo (s : State) (id : Nat) (r : Req) (gid v : Nat) (d : Dir) (cur pts : Nat) : State :=
  let s := closeCursor s r.wave r.lane cur
  let op := GOp.opn v d cur
  match tget (s.part r.part).graphs gid with
  | none => noGraph s id r gid pts op
  | some g =>
    if ¬ g.liveAt (max pts g.h) then noGraph s id r gid pts op
    else if g.vcap ≤ v then graphReply s id r (failWords op 2) 0
    else if (tget s.waves r.wave).isNone then graphReply s id r (failWords op 10) 0
    else
      let snap := max pts g.h
      match snapAdd (s.part r.part).snaps gid snap with
      | none => graphReply s id r (failWords op 10) 0
      | some (slot, snaps) =>
        let l := g.list v d
        let deg := (l.asOf snap).length
        let s := s.updPart r.part fun p =>
          { p with snaps := snaps, graphs := tput p.graphs gid (g.setList v d { l with rts := max l.rts snap }) }
        graphReply s id r [0, BitVec.ofNat 32 deg, BitVec.ofNat 32 snap, BitVec.ofNat 32 (snap / 2 ^ 32), BitVec.ofNat 32 slot] snap

/-- GNEXT and GSEEK at their engine: reads at the snapshot, which move no timestamp (R89). -/
def cursorRead (s : State) (id : Nat) (r : Req) (cur : Nat) (rank : Cursor → Nat) (op : GOp) : State :=
  match tget (s.wave r.wave).cur (curKey r.lane cur) with
  | none => graphReply s id r (failWords op 4) 0
  | some k =>
    match tget (s.part r.part).graphs k.gid with
    | none => graphReply s id r (failWords op 4) 0
    | some g =>
      graphReply s id r (if k.sdeg ≤ rank k then failWords op 4 else snapEdge g k.vtx k.dir k.snap (rank k)) 0

/-- GNEWG in a lane, with the descriptor that its load has brought; the ceiling may hold it. -/
def newgDo (s : State) (id : Nat) (r : Req) (pasid pts : Nat) : State :=
  match tget s.flights r.flight with
  | none => withdraw s fun q => q.flight == r.flight
  | some f =>
    let x := newGraph s r.part pasid pts (descOfLane f r.lane)
    if f.left.getLsbD r.lane then s
    else if s.ceil < x.2.1 then holdReq s id r x.2.1
    else graphReply x.1 id r [BitVec.ofNat 32 x.2.2.1, BitVec.ofNat 32 x.2.2.2] x.2.1

/-- Perform a lane's operation at its engine. -/
def graphPerform (s : State) (id : Nat) (r : Req) (gid : Nat) (op : GOp) : State :=
  match tokenAnswer s id r with
  | some s => s
  | none =>
    let pts := reqPts s r
    match op with
    | .newg pasid => newgDo s id r pasid pts
    | .close _ => s
    | .opn v d cur => openDo s id r gid v d cur pts
    | .next cur => cursorRead s id r cur (·.pos) op
    | .seek cur n => cursorRead s id r cur (fun _ => n) op
    | op =>
      match tget (s.part r.part).graphs gid with
      | none => noGraph s id r gid pts op
      | some g =>
        if ¬ g.liveAt (lookT g pts op) then noGraph s id r gid pts op
        else
          let res := graphDo g (gid == 0) (floorOf (s.part r.part) gid) pts s.nextId op
          if s.ceil < res.1.t then holdReq s id r res.1.t
          else
            let s1 := graphReply (setGraph { s with nextId := s.nextId + 1 } r.part gid res.1.g) id r res.1.words res.1.t
            if res.2 ∧ res.1.words = [0] then
              match op with
              | .stv v .. => match fire s1 r.part v res.1.t with
                | none => s
                | some s' => s'
              | _ => s1
            else s1

/-- The stacks that hold a region, each by a bank of it, with the virtual address there and the size code of its page. -/
def segOwners (base : Nat) (segs : List RegSeg) : List (Nat × Nat × Nat) :=
  segs.flatMap fun x =>
    (List.range ((x.pa + x.len - 1) / Config.stackBytes - x.pa / Config.stackBytes + 1)).map fun i =>
      (64 * (x.pa / Config.stackBytes + i), base + x.off, x.code)

/-- The engines that hold the region which a GNEWG in flight asks for in a lane. -/
def newgOwners (s : State) (r : Req) (pasid : Nat) : List (Nat × Nat × Nat) :=
  match tget s.flights r.flight with
  | none => []
  | some f =>
    let x := descOfLane f r.lane
    if badDesc x then []
    else
      let segs := (regionSegs r.part pasid (bits x 63 0) (bits x 127 64 / 65536) 0 [] s).2
      segOwners (bits x 63 0) (segs.getD [])

/-- The engines that an operation involves, with the address of what each owns and the size code of its page (R97, R360); a
vertex that is free shows in the allocator (R483). -/
def graphOwners (s : State) (r : Req) (gid : Nat) (op : GOp) : List (Nat × Nat × Nat) :=
  match op, tget (s.part r.part).graphs gid with
  | .newg pasid, _ => newgOwners s r pasid
  | _, none => []
  | _, some g =>
    let all := g.place none
    let at_ := fun v : Nat => g.place (some v)
    let own := fun v : Nat => if g.vcap ≤ v then [] else if (g.vtx v).alloc then [at_ v] else [at_ v, all]
    let far := fun (v n : Nat) (d : Dir) (byEnd : Bool) => match pickEdge (g.list v d) n byEnd with
      | none => []
      | some e => own e.other
    match op with
    | .newg _ | .close _ => []
    | .newv h => all :: own (lowestFree g (g.verts.length + 1) h)
    | .freev v => all :: own v
    | .add u v _ => own u ++ own v
    | .del v n d byEnd => own v ++ far v n d byEnd
    | .swap v n w d _ => own v ++ far v n d false ++ own w
    | .lde v .. | .deg v _ | .ldv v .. | .stv v .. => own v
    | .opn v .. => if g.vcap ≤ v then [] else [at_ v]
    | .next c | .seek c _ =>
      match tget (s.wave r.wave).cur (curKey r.lane c) with
      | none => []
      | some k => match tget (s.part r.part).graphs k.gid with
        | none => []
        | some g => [g.place (some k.vtx)]

/-- The addresses, with the size codes of their pages, of what an operation needs from engines that are offline. -/
def offlineOwners (s : State) (r : Req) (gid : Nat) (op : GOp) : List (Nat × Nat) :=
  ((graphOwners s r gid op).filter fun x => homeOffline s x.1).map (·.2)

/-- Whether an operation meets a node that waits for a peer in the midst of its completion (R411). -/
def meetsBusy (s : State) (part gid : Nat) : GOp → Bool
  | .stv v .. | .freev v => gid == 0 && nodeBusy s part v
  | _ => false

/-- The two lath events: a graph lane that may be performed, when the ceiling allows it. Engines that a warm reset stops still
perform what they hold (R446). -/
def lathEvent (s : State) (id : Nat) (mutates : Bool) : State :=
  match tget s.reqs id with
  | none => s
  | some r =>
    match r.kind with
    | .graph gid op =>
      if op.mutates = mutates ∧ ¬ earlierReq s id r ∧ ¬ meetsBusy s r.part gid op ∧
          (r.held.isSome ∨ offlineOwners s r gid op = []) ∧ r.held.getD 0 ≤ s.ceil then
        graphPerform s id { r with held := none } gid op
      else s
    | _ => s

/-- LATH_MUTATION (R80, R84, R97). -/
def execLathMutation (req : Nat) (s : State) : Out := .next (lathEvent s req true)

/-- LATH_READ (R80, R88, R89). -/
def execLathRead (req : Nat) (s : State) : Out := .next (lathEvent s req false)

/-! ## Replies (R346, R357) -/

/-- The cursor state that a reply writes. -/
def replyCursor (w : Wave) (lane gid : Nat) (op : GOp) (ws : List Word) : Wave :=
  match op with
  | .opn v d cur =>
    if ws.headD 1 = 0 then
      let k : Cursor :=
        { snap := (join (ws.getD 3 0) (ws.getD 2 0)).toNat, vtx := v, pos := 0, sdeg := (ws.getD 1 0).toNat, gid := gid,
          dir := d, slot := (ws.getD 4 0).toNat }
      { w with cur := tput w.cur (curKey lane cur) k }
    else w
  | .next cur => if ws.headD 1 = 0 then { w with cur := tupd w.cur (curKey lane cur) fun k => { k with pos := k.pos + 1 } } else w
  | .seek cur n => if ws.headD 1 = 0 then { w with cur := tupd w.cur (curKey lane cur) fun k => { k with pos := n + 1 } } else w
  | _ => w

/-- The words of a result group. -/
def groupWords (op : GOp) (ws : List Word) : List Word :=
  match op with
  | .opn .. => ws.take 2
  | _ => ws

/-- An accepted graph reply: pts rises, and result group, predicate and cursor are written together, unless the lane has exited
(R298). A cursor bound for a thread that has exited is closed (R90). -/
def takeGraph (s : State) (f : Flight) (x : Reply) (gid : Nat) (op : GOp) : State :=
  let r := x.req
  let s := consumeToken (raisePts s r.core x.t) r.token
  let live := (s.wave r.wave).live.getLsbD r.lane
  let s := s.updWave r.wave fun w =>
    let w := replyCursor w r.lane gid op x.words
    if live then putGroup w f.d f.pd r.lane (groupWords op x.words) else w
  match op with
  | .opn _ _ cur => if live then s else closeCursor s r.wave r.lane cur
  | _ => s

/-- LATH_REPLY (R80, R346, R357): a stale reply only frees its entry. The replies of a GNEWG are taken together, by
GNEWG_COMPLETE; the result of a GWAITLOW stands in flight (log entry 17). -/
def execLathReply (rep : Nat) (s : State) : Out :=
  .next (match tget s.reps rep with
    | none => deliverKept s rep
    | some x =>
      match x.req.kind with
      | .graph gid op =>
        let t := { s with reps := tdel s.reps rep }
        if accepted s x.req then
          if op.isNewg then s
          else match tget t.flights x.req.flight with
            | none => consumeToken (raisePts t x.req.core x.t) x.req.token
            | some f => laneDone (takeGraph t f x gid op) x.req.flight x.req.lane
        else staleReply t x
      | _ => s)

/-- GNEWG_COMPLETE (R74): every lane of the GNEWG in flight with this number has been answered, the vertex areas are clear, and
the instruction returns. -/
def execGnewgComplete (seq : Nat) (s : State) : Out :=
  .next (match tget s.flights seq with
    | none => s
    | some f =>
      let mine := tsel s.reps fun _ x => x.req.flight == seq && accepted s x.req
      if f.dest = .desc ∧ f.left = 0 ∧ mine ≠ [] ∧ ¬ (s.reqs.any fun e => liveReq s e.2 && e.2.flight == seq) then
        let s := mine.foldl (fun s e => takeGraph { s with reps := tdel s.reps e.1 } f e.2 0 (.newg 0)) s
        endFlight s seq
      else s)

/-- RECLAMATION (R93, R94): the horizon rises as far as it may, and dead records of one list below it go. -/
def execReclamation (part gid vertex : Nat) (dir : Dir) (s : State) : Out :=
  .next (match tget (s.part part).graphs gid with
    | none => s
    | some g =>
      let g := g.rise (floorOf (s.part part) gid)
      setGraph s part gid (if (tget g.verts vertex).isNone then g else g.setList vertex dir ((g.list vertex dir).reclaim g.h)))

end Sys2Proof.Machine
end

