-- ==== Sys2Proof/Machine/Port.lean ====
section
/-! DEFINITION. The graph port window (spec/23: R459). A slot performs its records in the order in which they arrive; one that
the ceiling, an offline engine or a busy node holds stays pending, and is tried again in later cycles. -/

namespace Sys2Proof.Machine

/-! ## Performing a record -/

/-- The answer of a slot: DONE, the status, and word 1 where the operation has one (a free value where it has none, log
entry 2). -/
def slotAnswer (s : State) (p slot : Nat) (words : List Word) (data : Option (BitVec 128)) : State :=
  let r := match words[1]? with
    | some w => (w, s)
    | none => let f := s.free; (loWord f.1, f.2)
  r.2.updPart p fun q =>
    let new := (BitVec.ofNat 64 (2 ^ 63 + 2 ^ 32 * (words.headD 0).toNat + r.1.toNat), data.getD 0)
    { q with slots := tput q.slots slot new }

/-- A request that stands for a record of the port. -/
def portReq (p gid : Nat) (op : GOp) : Req :=
  { kind := .graph gid op, core := 0, wave := 0, part := p, gen := 0, agen := 0, lane := 0, flight := 0, pa := 0, va := 0, size := 0,
    home := 0, l1 := 0, hhint := 0, token := none, orphan := true, armed := false, held := none, low := 0,
    acks := 0, got := [] }

/-- The payload part of a GLDV's result. -/
def portData (op : GOp) (words : List Word) : Option (BitVec 128) :=
  match op with
  | .ldv .. => some (BitVec.ofNat 128 (bytesNat (wordsBytes (words.drop 4))))
  | _ => none

/-- A record performed on a graph of the partition, stamped with xts: none while the ceiling, an offline engine or a node
that waits for a peer holds it. A stopped partition answers BAD_DESC (R453). -/
def portDo (s : State) (p slot gid : Nat) (mk : Bool → GOp) : Option State :=
  let gr := tget (s.part p).graphs gid
  let op := mk (gr.any fun g => g.eps)
  let none_ := slotAnswer (if gid < 65536 then gtabRead s p gid s.xts else s) p slot (failWords op 1) (portData op (failWords op 1))
  if (s.part p).migr.st = 3 then some (slotAnswer s p slot (failWords op 8) (portData op (failWords op 8)))
  else match gr with
    | none => some none_
    | some g =>
      if ¬ g.liveAt (lookT g s.xts op) then some none_
      else if meetsBusy s p gid op ∨ offlineOwners s (portReq p gid op) gid op ≠ [] then none
      else
        let res := graphDo g (gid == 0) (floorOf (s.part p) gid) s.xts s.nextId op
        if s.ceil < res.1.t then none
        else
          let s := setGraph { s with nextId := s.nextId + 1, xts := max s.xts res.1.t } p gid res.1.g
          let s := slotAnswer s p slot res.1.words (portData op res.1.words)
          match op with
          | .stv v .. => if res.2 ∧ res.1.words = [0] then fire s p v res.1.t else some s
          | _ => some s

/-- The record of a slot, by its event. -/
def portRun (s : State) : Instr → Option State
  | .portGnewv p slot gid h => portDo s p slot gid fun _ => .newv h
  | .portGadd p slot gid u v pay => portDo s p slot gid fun eps => .add u v (if eps then some pay else none)
  | .portGdel p slot gid u rank => portDo s p slot gid fun _ => .del u rank .out false
  | .portGstv p slot gid u off data => portDo s p slot gid fun _ => .stv u true off data
  | .portGldv p slot gid u off => portDo s p slot gid fun _ => .ldv u true off
  | .portGdeg p slot gid u => portDo s p slot gid fun _ => .deg u .out
  | .graphPortInvalidRecord p slot => some (slotAnswer s p slot [8] none)
  | _ => some s

/-- The records of a slot that are pending. -/
def portQueue (s : State) (p slot : Nat) : List Instr := (tget (s.part p).portQ slot).getD []

/-- Set the pending records of a slot. -/
def setPortQ (s : State) (p slot : Nat) (q : List Instr) : State :=
  s.updPart p fun x => { x with portQ := if q = [] then tdel x.portQ slot else tput x.portQ slot q }

/-- A record arrives at a slot: it is performed, or waits behind those that are pending. -/
def portArrive (s : State) (p slot : Nat) (i : Instr) : State :=
  if (tget s.parts p).isNone ∨ 256 ≤ slot then s
  else
    let s := s.stir p
    let wait := setPortQ s p slot (portQueue s p slot ++ [i])
    if portQueue s p slot ≠ [] then wait else (portRun s i).getD wait

/-- The oldest pending record of a slot is performed where that is possible now. -/
def drainPort (s : State) (p slot : Nat) : State :=
  match portQueue s p slot with
  | [] => s
  | i :: is => match portRun s i with
    | none => s
    | some t => setPortQ t p slot is

/-- The same for every slot of a partition. -/
def drainPorts (s : State) (p : Nat) : State := (tkeys (s.part p).portQ).foldl (fun s slot => drainPort s p slot) s

/-- PORT_GNEWV. -/
def execPortGnewv (part slot gid h : Nat) (s : State) : Out := .next (portArrive s part slot (.portGnewv part slot gid h))

/-- PORT_GADD: the payload counts where the graph has EPS = 1. -/
def execPortGadd (part slot gid u v : Nat) (pay : DWord) (s : State) : Out :=
  .next (portArrive s part slot (.portGadd part slot gid u v pay))

/-- PORT_GDEL: GDEL.out by rank. -/
def execPortGdel (part slot gid u rank : Nat) (s : State) : Out := .next (portArrive s part slot (.portGdel part slot gid u rank))

/-- PORT_GSTV: GSTV.b128, which may arm a node (R409). -/
def execPortGstv (part slot gid u off : Nat) (data : BitVec 128) (s : State) : Out :=
  .next (portArrive s part slot (.portGstv part slot gid u off data))

/-- PORT_GLDV: GLDV.b128. -/
def execPortGldv (part slot gid u off : Nat) (s : State) : Out := .next (portArrive s part slot (.portGldv part slot gid u off))

/-- PORT_GDEG: GDEG.out. -/
def execPortGdeg (part slot gid u : Nat) (s : State) : Out := .next (portArrive s part slot (.portGdeg part slot gid u))

/-- GRAPH_PORT_INVALID_RECORD: status BAD_DESC. -/
def execGraphPortInvalidRecord (part slot : Nat) (s : State) : Out :=
  .next (portArrive s part slot (.graphPortInvalidRecord part slot))

end Sys2Proof.Machine
end

