-- ==== Sys2Proof/Machine/Sync.lean ====
section
/-! DEFINITION. MWAIT with the monitors of the homes, and NAP (R221 to R223, R339, R340). -/

namespace Sys2Proof.Machine

/-! ## MWAIT -/

/-- Lanes that name one word with one operand are one request (R221, R339). -/
def mwaitGroup (f : Nat → DWord) : List LaneAcc → List (LaneAcc × DWord × LaneSet) → List (LaneAcc × DWord × LaneSet)
  | [], gs => gs
  | x :: xs, gs =>
    let m : LaneSet := (1 : LaneSet) <<< x.lane
    mwaitGroup f xs (if gs.any fun g => g.1.pa == x.pa && g.2.1 == f x.lane then
      gs.map fun g => if g.1.pa == x.pa && g.2.1 == f x.lane then (g.1, g.2.1, g.2.2 ||| m) else g
    else gs ++ [(x, f x.lane, m)])

/-- MWAIT: a read of each distinct word at its home, and a wait until each compare has held (R339). -/
def execMwait (hd : Hdr) (d : DReg) (a : Src) (off : BitVec 24) (b : Src) (ch : CHint) (cmp : Cmp) (ty : Ty)
    (s : State) : Out :=
  .next (globalOp s hd (useOf (.mwait hd d a off b ch cmp ty)) (4 * tyRegs ty) .read (fun w l => gea s w a off l)
    (fun _ => 0) (fun E => E) fun c s xs =>
      if xs = [] then finishNext s c hd c.w
      else
        let fl := { flightOf c hd (dregs d (tyRegs ty)) (.words (tyRegs ty)) d with left := c.E }
        let r := startFlight s fl c.w
        let s := (mwaitGroup (fun l => rdW s c.w l ty.is64 b) xs []).foldl (fun s g =>
          sendReq s (laneReq s c (.mwait cmp ty g.2.1 g.2.2) g.1.lane r.1 g.1.pa g.1.va (4 * tyRegs ty)
            (homeOf g.1.pa g.1.e.ms) 3 ch.home.toNat) false) r.2.1
        block s c hd r.2.2 (.mwait r.1))

/-- Monitors that a home holds: 32 in an L2 bank, 256 elsewhere (R221). -/
def monitorRoom (home : Nat) : Nat := if home < 768 then 32 else 256

/-- Watch the word of a request, if its home's table has room. -/
def addMonitor (s : State) (id : Nat) (r : Req) : State :=
  if (s.monitors.filter fun m => m.2.home == r.home).length < monitorRoom r.home then
    let (i, s) := s.newId
    { s with monitors := tput s.monitors i { home := r.home, pa := r.pa, req := id } }
  else s

/-- Whether a request has a monitor. -/
def watched (s : State) (id : Nat) : Bool := s.monitors.any fun m => m.2.req == id

/-- What a home does with a request for a word that it has read: a compare that holds is answered, any other is watched where
`watch` says so. No word is watched for a wave that has halted (R223, R436). -/
def mwaitTake (o : ReadOut) (watch : Bool) (s : State) (id : Nat) : State :=
  match tget s.reqs id with
  | none => s
  | some e =>
    if waitHolds e (bytesNat o.data) || e.orphan then sendReply s id (bytesWords o.data) o.t o.wts o.rts [] 0 o.bad
    else
      let r := { e with armed := true, held := none }
      let s := setReq s id r
      if watch then addMonitor s id r else s

/-- Whether a request is an MWAIT read. -/
def ReqKind.isMwait : ReqKind → Bool
  | .mwait .. => true
  | _ => false

/-- The requests of an MWAIT that wait for a read of the same word: operands that differ have requests of their own. -/
def mwaitMates (s : State) (r : Req) : List Nat :=
  tkeys (tsel s.reqs fun i e => e.kind.isMwait && e.flight == r.flight && e.wave == r.wave && e.pa == r.pa &&
    e.armed == r.armed && e.orphan == r.orphan && !watched s i)

/-- An MWAIT read of a word at its home, without a lease (R221). -/
def mwaitRead (s : State) (id : Nat) (r : Req) (watch : Bool) : State :=
  let mates := mwaitMates s r
  match homeReadAt s r.home r.pa r.size (reqPts s r) none none r.hhint with
  | .error t => holdReq s id r t
  | .ok (s, o) => mates.foldl (mwaitTake o watch) s

/-- MWAIT_HOME_READ (R221): the first read of a word, once the ceiling allows it. -/
def execMwaitHomeRead (req : Nat) (s : State) : Out :=
  .next (match tget s.reqs req with
    | none => s
    | some r =>
      if r.kind.isMwait && !r.armed && mayPerform s req r && decide (r.held.getD 0 ≤ s.ceil) then
        mwaitRead s req { r with held := none } true
      else s)

/-- MONITOR_REREAD (R223): a waiter whose home had no room for a monitor reads its word again. -/
def execMonitorReread (req : Nat) (s : State) : Out :=
  .next (match tget s.reqs req with
    | none => s
    | some r =>
      if r.kind.isMwait && r.armed && !watched s req && decide (r.home < 1024) && !homeOffline s r.home &&
          decide (r.held.getD 0 ≤ s.ceil) then
        mwaitRead s req { r with held := none } false
      else s)

/-- PEER_WORD_POLL (R223): a waiter on a word of a peer window reads it at the peer, which answers `value`. The peer's
order has no timestamp here (R151). -/
def execPeerWordPoll (req : Nat) (value : DWord) (s : State) : Out :=
  .next (match tget s.reqs req with
    | none => s
    | some r =>
      if r.kind.isMwait && decide (1024 ≤ r.home) then
        let v := natBytes value.toNat r.size
        if waitHolds r (bytesNat v) || r.orphan then sendReply s req (bytesWords v) 0 0 0 [] 0 false
        else setReq s req { r with armed := true }
      else s)

/-! ## NAP -/

/-- NAP (R340). -/
def execNap (hd : Hdr) (n : BitVec 12) (s : State) : Out :=
  .next (issue s hd (useOf (.nap hd n)) fun c =>
    if c.E = 0 then finishNext s c hd c.w
    else if n = 0 then passBlock s c hd c.w
    else block s c hd c.w (.nap (16 * n.toNat)))

/-- NAP_EXPIRY (R340): the cycles of a nap have run out. -/
def execNapExpiry (wave : Nat) (s : State) : Out :=
  .next (match tget s.waves wave with
    | none => s
    | some w => match w.blocked with
      | .nap n => if w.susp = .none ∧ (s.teamOf w).life = .resident ∧ w.iss.blockedAt + n ≤ s.cycle then wake s wave else s
      | _ => s)

end Sys2Proof.Machine
end

