-- ==== Sys2Proof/WellFormed.lean ====
section
/-! DEFINITION. A well-formed instruction passes the decode checks of R263 that no machine state enters. The
checks themselves stand in Machine/WordRules.lean. -/

namespace Sys2Proof

/-- The instruction passes every decode check of its entry. -/
def WellFormed (i : Instr) : Prop := wordOk i = true

end Sys2Proof
end

