-- ==== Sys2Proof/Decode.lean ====
section
/-! DEFINITION. Decoding and encoding of the 96-bit words of waves and of the Roller (spec/12 to spec/18) and of
the 32-bit policy words (spec/21). A decoder reads the fields of the word's opcode and accepts the word when the
encoder gives it back whole, so that every reserved bit is checked in one place, and when `wordOk` holds. -/

namespace Sys2Proof

/-! ## The word -/

/-- Three little-endian 32-bit words as one 96-bit word (R246), from the twelve bytes at the lowest address. -/
def word96OfBytes (bs : List Byte) : Word96 := bs.take 12 |>.reverse.foldl (fun acc b => acc <<< 8 ||| b.setWidth 96) 0

/-- The twelve bytes of a word, from the lowest address (R246). -/
def bytesOfWord96 (w : Word96) : List Byte := (List.range 12).map fun i => (w >>> (8 * i)).setWidth 8

/-- The four bytes of a 32-bit word, from the lowest address. -/
def bytesOfWord (w : Word) : List Byte := (List.range 4).map fun i => (w >>> (8 * i)).setWidth 8

/-- A 32-bit word from its bytes, the lowest address first. -/
def wordOfBytes (bs : List Byte) : Word := bs.take 4 |>.reverse.foldl (fun acc b => acc <<< 8 ||| b.setWidth 32) 0

/-- The fields of Table 12-1 joined. -/
def Raw.pack (r : Raw) : Word96 := r.op ++ (r.g ++ (r.h ++ (r.d ++ (r.a ++ (r.b ++ (r.m ++ r.x))))))

/-- The fields of Table 12-1. -/
def Raw.unpack (w : Word96) : Raw :=
  { op := w.extractLsb' 88 8, g := w.extractLsb' 84 4, h := w.extractLsb' 72 12, d := w.extractLsb' 62 10,
    a := w.extractLsb' 52 10, b := w.extractLsb' 42 10, m := w.extractLsb' 32 10, x := w.extractLsb' 0 32 }

/-- Bit k of a field. -/
def fbit {n : Nat} (x : BitVec n) (k : Nat) : Bool := x.getLsbD k

/-- One bit as a field. -/
def b1 (b : Bool) : BitVec 1 := BitVec.ofBool b

/-! ## Codes of the operand fields -/

/-- Guard, G (R248). -/
def Guard.enc (g : Guard) : BitVec 4 := b1 g.neg ++ g.p
/-- Guard, G (R248). -/
def Guard.dec (x : BitVec 4) : Guard := ⟨fbit x 3, x.extractLsb' 0 3⟩

/-- SET codes 0 to 4 of Table 12-2. -/
def encSet : Option (BitVec 2) → BitVec 3
  | none => 4
  | some i => 0#1 ++ i
/-- SET codes 0 to 4 of Table 12-2. -/
def decSet (x : BitVec 3) : Option (Option (BitVec 2)) :=
  if x == 4 then some none else if fbit x 2 then none else some (some (x.extractLsb' 0 2))

/-- The hint field (Table 12-2). -/
def Hints.enc (h : Hints) : BitVec 12 := h.stall ++ (b1 h.yld ++ (encSet h.set ++ h.wait))
/-- The hint field (Table 12-2). -/
def Hints.dec (x : BitVec 12) : Option Hints :=
  (decSet (x.extractLsb' 4 3)).map fun s => ⟨x.extractLsb' 8 4, fbit x 7, s, x.extractLsb' 0 4⟩

/-- Guard and hints of a word. -/
def Hdr.dec (r : Raw) : Option Hdr := (Hints.dec r.h).map fun h => ⟨Guard.dec r.g, h⟩

/-- The number of a special register less 448 (Table 9-2). -/
def Special.code : Special → BitVec 5
  | .lane => 0 | .tidX => 1 | .tidY => 2 | .tidZ => 3 | .ntidX => 4 | .ntidY => 5 | .ntidZ => 6 | .waveId => 7
  | .nwave => 8 | .stage => 9 | .stageWave => 10 | .stageNwave => 11 | .teamSlot => 12 | .gangNteam => 13
  | .gangX => 14 | .gangY => 15 | .gangZ => 16 | .ngangX => 17 | .ngangY => 18 | .ngangZ => 19
  | .gangIssue => 20 | .gridId => 21 | .coreId => 22

/-- The special registers in the order of their numbers (Table 9-2). -/
def Special.ofCode (n : BitVec 5) : Option Special :=
  match n.toNat with
  | 0 => some .lane | 1 => some .tidX | 2 => some .tidY | 3 => some .tidZ | 4 => some .ntidX | 5 => some .ntidY
  | 6 => some .ntidZ | 7 => some .waveId | 8 => some .nwave | 9 => some .stage | 10 => some .stageWave
  | 11 => some .stageNwave | 12 => some .teamSlot | 13 => some .gangNteam | 14 => some .gangX | 15 => some .gangY
  | 16 => some .gangZ | 17 => some .ngangX | 18 => some .ngangY | 19 => some .ngangZ | 20 => some .gangIssue
  | 21 => some .gridId | 22 => some .coreId | _ => none

/-- A source field (Tables 12-3 and 12-4). -/
def Src.enc : Src → BitVec 10
  | .v n => 0#2 ++ n
  | .w n => 2#3 ++ n
  | .sp r => 14#5 ++ r.code
  | .zero => 511
  | .latch n => 128#8 ++ n

/-- A source field (Tables 12-3 and 12-4). -/
def Src.dec (x : BitVec 10) : Option Src :=
  if fbit x 9 then (if x.extractLsb' 2 7 == 0 then some (.latch (x.extractLsb' 0 2)) else none)
  else if !fbit x 8 then some (.v (x.extractLsb' 0 8))
  else if !fbit x 7 then some (.w (x.extractLsb' 0 7))
  else if x == 511 then some .zero
  else if x.extractLsb' 5 2 == 2 then (Special.ofCode (x.extractLsb' 0 5)).map .sp
  else none

/-- A destination number without its NW bit (Table 12-3). -/
def DReg.enc9 : DReg → BitVec 9
  | .v n => 0#1 ++ n
  | .w n => 2#2 ++ n
  | .zero => 511

/-- A destination number without its NW bit (Table 12-3). -/
def DReg.dec9 (x : BitVec 9) : Option DReg :=
  if !fbit x 8 then some (.v (x.extractLsb' 0 8))
  else if !fbit x 7 then some (.w (x.extractLsb' 0 7))
  else if x == 511 then some .zero else none

/-- A D field with NW = 0 (R55). -/
def DReg.enc (d : DReg) : BitVec 10 := 0#1 ++ d.enc9
/-- A D field with NW = 0 (R55). -/
def DReg.dec (x : BitVec 10) : Option DReg := DReg.dec9 (x.extractLsb' 0 9)
/-- A D field (Table 12-4). -/
def Dst.enc (d : Dst) : BitVec 10 := b1 d.nw ++ d.r.enc9
/-- A D field (Table 12-4). -/
def Dst.dec (x : BitVec 10) : Option Dst := (DReg.dec9 (x.extractLsb' 0 9)).map fun r => ⟨fbit x 9, r⟩
/-- A predicate source, number 384 to 391 (Table 12-3). -/
def encPred (p : Pred) : BitVec 10 := 48#7 ++ p
/-- A predicate source, number 384 to 391 (Table 12-3). -/
def decPred (x : BitVec 10) : Pred := x.extractLsb' 0 3
/-- A predicate destination (Tables 12-3 and 12-4). -/
def PDst.enc (d : PDst) : BitVec 10 := b1 d.nw ++ (48#6 ++ d.p)
/-- A predicate destination (Tables 12-3 and 12-4). -/
def PDst.dec (x : BitVec 10) : PDst := ⟨fbit x 9, x.extractLsb' 0 3⟩
/-- A uniform register as a 10-bit number. -/
def encW (n : BitVec 7) : BitVec 10 := 2#3 ++ n
/-- A uniform register as a 10-bit number. -/
def decW (x : BitVec 10) : BitVec 7 := x.extractLsb' 0 7
/-- A vector register as a 10-bit number. -/
def encV (n : BitVec 8) : BitVec 10 := 0#2 ++ n

/-- Table 12-8. -/
def Ty.code : Ty → BitVec 5
  | .i8 => 0 | .i16 => 1 | .i32 => 2 | .i64 => 3 | .n8 => 4 | .n16 => 5 | .n32 => 6 | .n64 => 7 | .b32 => 8
  | .b64 => 9 | .f16 => 10 | .bf16 => 11 | .f32 => 12 | .f64 => 13 | .fmt => 14 | .f16x2 => 15 | .bf16x2 => 16
/-- Table 12-8. -/
def Ty.ofCode (x : BitVec 5) : Option Ty :=
  match x.toNat with
  | 0 => some .i8 | 1 => some .i16 | 2 => some .i32 | 3 => some .i64 | 4 => some .n8 | 5 => some .n16
  | 6 => some .n32 | 7 => some .n64 | 8 => some .b32 | 9 => some .b64 | 10 => some .f16 | 11 => some .bf16
  | 12 => some .f32 | 13 => some .f64 | 14 => some .fmt | 15 => some .f16x2 | 16 => some .bf16x2 | _ => none

/-- Table 11-2. -/
def Rm.code : Rm → BitVec 2
  | .rn => 0 | .rz => 1 | .rd => 2 | .ru => 3
/-- Table 11-2. -/
def Rm.ofCode (x : BitVec 2) : Rm :=
  if x == 0 then .rn else if x == 1 then .rz else if x == 2 then .rd else .ru

/-- CMP codes of R280. -/
def Cmp.code : Cmp → BitVec 3
  | .eq => 0 | .ne => 1 | .lt => 2 | .le => 3 | .gt => 4 | .ge => 5
/-- CMP codes of R280. -/
def Cmp.ofCode (x : BitVec 3) : Option Cmp :=
  match x.toNat with
  | 0 => some .eq | 1 => some .ne | 2 => some .lt | 3 => some .le | 4 => some .gt | 5 => some .ge | _ => none

/-- BOP codes of R280. -/
def Bop.code : Bop → BitVec 2
  | .and => 0 | .or => 1 | .xor => 2
/-- BOP codes of R280. -/
def Bop.ofCode (x : BitVec 2) : Option Bop :=
  match x.toNat with
  | 0 => some .and | 1 => some .or | 2 => some .xor | _ => none

/-- Table 14-3. -/
def FCmp.code : FCmp → BitVec 4
  | .eq => 0 | .ne => 1 | .lt => 2 | .le => 3 | .gt => 4 | .ge => 5 | .num => 6 | .nan => 7 | .equ => 8 | .neu => 9
  | .ltu => 10 | .leu => 11 | .gtu => 12 | .geu => 13
/-- Table 14-3. -/
def FCmp.ofCode (x : BitVec 4) : Option FCmp :=
  match x.toNat with
  | 0 => some .eq | 1 => some .ne | 2 => some .lt | 3 => some .le | 4 => some .gt | 5 => some .ge | 6 => some .num
  | 7 => some .nan | 8 => some .equ | 9 => some .neu | 10 => some .ltu | 11 => some .leu | 12 => some .gtu
  | 13 => some .geu | _ => none

/-- The mask field in X: a uniform register, or ALL (R274). -/
def MaskSrc.encX : MaskSrc → Word
  | .all => 0x400
  | .w n => 0#22 ++ encW n
/-- The mask field in X (R274). -/
def MaskSrc.decX (x : Word) : MaskSrc := if fbit x 10 then .all else .w (x.extractLsb' 0 7)

/-- SHFL modes (R292). -/
def ShflMode.code : ShflMode → BitVec 3
  | .abs => 0 | .lo => 1 | .hi => 2 | .xor => 3 | .rot => 4
/-- SHFL modes (R292). -/
def ShflMode.ofCode (x : BitVec 3) : Option ShflMode :=
  match x.toNat with
  | 0 => some .abs | 1 => some .lo | 2 => some .hi | 3 => some .xor | 4 => some .rot | _ => none

/-- VOTE modes (R293). -/
def VoteMode.code : VoteMode → BitVec 2
  | .all => 0 | .any => 1 | .uni => 2
/-- VOTE modes (R293). -/
def VoteMode.ofCode (x : BitVec 2) : Option VoteMode :=
  match x.toNat with
  | 0 => some .all | 1 => some .any | 2 => some .uni | _ => none

/-- REDUX operations (R294). -/
def ReduxOp.code : ReduxOp → BitVec 3
  | .add => 0 | .min => 1 | .max => 2 | .and => 3 | .or => 4 | .xor => 5
/-- REDUX operations (R294). -/
def ReduxOp.ofCode (x : BitVec 3) : Option ReduxOp :=
  match x.toNat with
  | 0 => some .add | 1 => some .min | 2 => some .max | 3 => some .and | 4 => some .or | 5 => some .xor | _ => none

/-- Q and TYPE of the sized accesses (R324). -/
def MemTy.code : MemTy → BitVec 6
  | .i8 => 0 | .i16 => 1 | .n8 => 4 | .n16 => 5 | .b32 => 8 | .b64 => 9 | .b128 => 40
/-- Q and TYPE of the sized accesses (R324). -/
def MemTy.ofCode (x : BitVec 6) : Option MemTy :=
  match x.toNat with
  | 0 => some .i8 | 1 => some .i16 | 4 => some .n8 | 5 => some .n16 | 8 => some .b32 | 9 => some .b64
  | 40 => some .b128 | _ => none

/-- AOP codes, Table 15-4. -/
def Aop.code : Aop → BitVec 4
  | .add => 0 | .min => 1 | .max => 2 | .and => 3 | .or => 4 | .xor => 5 | .exch => 6 | .cas => 7
/-- AOP codes, Table 15-4. -/
def Aop.ofCode (x : BitVec 4) : Option Aop :=
  match x.toNat with
  | 0 => some .add | 1 => some .min | 2 => some .max | 3 => some .and | 4 => some .or | 5 => some .xor
  | 6 => some .exch | 7 => some .cas | _ => none

/-- OP codes of ACC (Table 15-2). -/
def AccOp.code : AccOp → BitVec 2
  | .add => 0 | .min => 1 | .max => 2
/-- OP codes of ACC (Table 15-2). -/
def AccOp.ofCode (x : BitVec 2) : Option AccOp :=
  match x.toNat with
  | 0 => some .add | 1 => some .min | 2 => some .max | _ => none

/-- AGENT codes, Table 7-4. -/
def Agent.code : Agent → BitVec 2
  | .wave => 0 | .team => 1 | .gang => 2 | .partition => 3
/-- AGENT codes, Table 7-4. -/
def Agent.ofCode (x : BitVec 2) : Agent :=
  if x == 0 then .wave else if x == 1 then .team else if x == 2 then .gang else .partition

/-- DIR of the graph instructions (Table 16-1). -/
def Dir.bit : Dir → Bool
  | .out => false | .inn => true
/-- DIR of the graph instructions (Table 16-1). -/
def Dir.ofBit (b : Bool) : Dir := if b then .inn else .out

/-- Copy directions (R361). -/
def CpyDir.code : CpyDir → BitVec 2
  | .g2l => 0 | .l2g => 1 | .g2g => 2 | .l2l => 3
/-- Copy directions (R361). -/
def CpyDir.ofCode (x : BitVec 2) : CpyDir :=
  if x == 0 then .g2l else if x == 1 then .l2g else if x == 2 then .g2g else .l2l

/-- Participant groups (R361). -/
def Grp.code : Grp → BitVec 2
  | .wave => 0 | .stage => 1 | .team => 2
/-- Participant groups (R361). -/
def Grp.ofCode (x : BitVec 2) : Option Grp :=
  match x.toNat with
  | 0 => some .wave | 1 => some .stage | 2 => some .team | _ => none

/-- Gather modes (R361). -/
def GMode.code : GMode → BitVec 2
  | .edge => 0 | .vpay => 1 | .block => 2
/-- Gather modes (R361). -/
def GMode.ofCode (x : BitVec 2) : Option GMode :=
  match x.toNat with
  | 0 => some .edge | 1 => some .vpay | 2 => some .block | _ => none

/-- Completion classes (R361). -/
def Cls.code : Cls → BitVec 2
  | .copy => 0 | .gather => 1 | .acc => 2
/-- Completion classes (R361). -/
def Cls.ofCode (x : BitVec 2) : Option Cls :=
  match x.toNat with
  | 0 => some .copy | 1 => some .gather | 2 => some .acc | _ => none

/-- BSCALE modes (R320). -/
def BsMode.code : BsMode → BitVec 2
  | .derive => 0 | .apply => 1 | .unscale => 2
/-- BSCALE modes (R320). -/
def BsMode.ofCode (x : BitVec 2) : Option BsMode :=
  match x.toNat with
  | 0 => some .derive | 1 => some .apply | 2 => some .unscale | _ => none

/-- TYPE codes of the Roller (Table 17-5). -/
def RTy.code : RTy → BitVec 3
  | .bf16 => 0 | .f16 => 1 | .f32 => 2 | .f64 => 3 | .narrow => 4
/-- TYPE codes of the Roller (Table 17-5). -/
def RTy.ofCode (x : BitVec 3) : Option RTy :=
  match x.toNat with
  | 0 => some .bf16 | 1 => some .f16 | 2 => some .f32 | 3 => some .f64 | 4 => some .narrow | _ => none

/-- RM, FTZ, NA, NL and TYPE, Table 14-1. -/
def FMod.encM (f : FMod) (t : Ty) : BitVec 10 := f.rm.code ++ (b1 f.ftz ++ (b1 f.na ++ (b1 f.nl ++ t.code)))
/-- RM, FTZ, NA and NL, Table 14-1. -/
def FMod.decM (m : BitVec 10) : FMod := ⟨Rm.ofCode (m.extractLsb' 8 2), fbit m 7, fbit m 6, fbit m 5⟩

/-- Offset and hints of an FM word (R260, Table 12-7). -/
def encFM (off : BitVec 24) (c : CHint) : Word := off ++ (c.l1 ++ (c.home ++ 0#4))
/-- Offset of an FM word (R260). -/
def decOff (x : Word) : BitVec 24 := x.extractLsb' 8 24
/-- Hints of an FM word (Table 12-7). -/
def decHint (x : Word) : CHint := ⟨x.extractLsb' 6 2, x.extractLsb' 4 2⟩

/-- The gid and C of an FG word (R260). -/
def encFG (g : GidSrc) (c : BitVec 10) : Word :=
  match g with
  | .imm n => n ++ (0#6 ++ c)
  | .w n => 0#9 ++ (n ++ (32#6 ++ c))
/-- The gid of an FG word (R260). -/
def decGid (x : Word) : GidSrc := if fbit x 15 then .w (x.extractLsb' 16 7) else .imm (x.extractLsb' 16 16)

/-- The M field of the graph instructions, Table 16-1. -/
def encGM (pd : Pred) (dir opb : Bool) (low : BitVec 5) : BitVec 10 := pd ++ (b1 dir ++ (b1 opb ++ low))
/-- PD of Table 16-1. -/
def decPD (m : BitVec 10) : Pred := m.extractLsb' 7 3
/-- DIR of Table 16-1. -/
def decDir (m : BitVec 10) : Dir := Dir.ofBit (fbit m 6)
/-- CUR of Table 16-1. -/
def decCur (m : BitVec 10) : BitVec 2 := m.extractLsb' 0 2

/-! ## The encoder -/

/-- A wave word from its fields. -/
def mkRaw (op : BitVec 8) (hd : Hdr) (d a b m : BitVec 10) (x : Word) : Raw := ⟨op, hd.g.enc, hd.h.enc, d, a, b, m, x⟩

/-- A Roller word from its fields: G = 0b0111 and H = 0x040 (R372). -/
def mkRoller (op : BitVec 8) (d a b m : BitVec 10) (x : Word) : Raw := ⟨op, 7, 0x040, d, a, b, m, x⟩

/-- M with a TYPE only. -/
def mT (t : Ty) : BitVec 10 := 0#5 ++ t.code
/-- M with bit 37 and a TYPE. -/
def mBT (b : Bool) (t : Ty) : BitVec 10 := 0#4 ++ (b1 b ++ t.code)
/-- X with a C source (R260). -/
def xC (c : Src) : Word := 0#22 ++ c.enc
/-- X with a predicate as C. -/
def xP (p : Pred) : Word := 0#22 ++ encPred p
/-- X with a low field of twelve bits (format FS). -/
def xS (n : BitVec 12) : Word := 0#20 ++ n

/-- The fields of a wave or Roller word, from Tables 13-2, 14-2, 15-2, 16-2, 17-1, 17-5 and 18-1. A step of another
agent and a policy word have none, and answer the empty word. -/
def encodeRaw : Instr → Raw
  | .iadd hd d a b sat ty => mkRaw 0x00 hd d.enc a.enc b.enc (mBT sat ty) 0
  | .iaddImm hd d a imm sat ty => mkRaw 0x10 hd d.enc a.enc 0 (mBT sat ty) imm
  | .isub hd d a b sat ty => mkRaw 0x01 hd d.enc a.enc b.enc (mBT sat ty) 0
  | .imad hd d a b c wide ty => mkRaw 0x02 hd d.enc a.enc b.enc (mBT wide ty) (xC c)
  | .imadImm hd d a imm ty => mkRaw 0x12 hd d.enc a.enc 0 (mT ty) imm
  | .imulh hd d a b ty => mkRaw 0x03 hd d.enc a.enc b.enc (mT ty) 0
  | .iadd64 hd d a b => mkRaw 0x04 hd d.enc a.enc b.enc 0 0
  | .iadd64Imm hd d a imm => mkRaw 0x14 hd d.enc a.enc 0 0 imm
  | .lea hd d a b sh ty => mkRaw 0x05 hd d.enc a.enc b.enc (sh ++ (0#1 ++ ty.code)) 0
  | .leaImm hd d a imm sh ty => mkRaw 0x15 hd d.enc a.enc 0 (sh ++ (0#1 ++ ty.code)) imm
  | .imin hd d a b ty => mkRaw 0x06 hd d.enc a.enc b.enc (mT ty) 0
  | .imax hd d a b ty => mkRaw 0x07 hd d.enc a.enc b.enc (mT ty) 0
  | .iminImm hd d a imm ty => mkRaw 0x16 hd d.enc a.enc 0 (mT ty) imm
  | .imaxImm hd d a imm ty => mkRaw 0x17 hd d.enc a.enc 0 (mT ty) imm
  | .iabs hd d a sat ty => mkRaw 0x08 hd d.enc a.enc 0 (mBT sat ty) 0
  | .isetp hd pd a b pc cmp bop ty => mkRaw 0x09 hd pd.enc a.enc b.enc (bop.code ++ (cmp.code ++ ty.code)) (xP pc)
  | .isetpImm hd pd a imm cmp ty => mkRaw 0x19 hd pd.enc a.enc 0 (0#2 ++ (cmp.code ++ ty.code)) imm
  | .isel hd d a b pneg pr ty => mkRaw 0x0A hd d.enc a.enc b.enc (b1 pneg ++ (pr ++ (0#1 ++ ty.code))) 0
  | .iselImm hd d a imm pneg pr ty => mkRaw 0x1A hd d.enc a.enc 0 (b1 pneg ++ (pr ++ (0#1 ++ ty.code))) imm
  | .shl hd d a b ty => mkRaw 0x20 hd d.enc a.enc b.enc (mT ty) 0
  | .shr hd d a b ty => mkRaw 0x21 hd d.enc a.enc b.enc (mT ty) 0
  | .sar hd d a b ty => mkRaw 0x22 hd d.enc a.enc b.enc (mT ty) 0
  | .shlImm hd d a amt ty => mkRaw 0x2C hd d.enc a.enc 0 (mT ty) (0#26 ++ amt)
  | .shrImm hd d a amt ty => mkRaw 0x2D hd d.enc a.enc 0 (mT ty) (0#26 ++ amt)
  | .sarImm hd d a amt ty => mkRaw 0x2E hd d.enc a.enc 0 (mT ty) (0#26 ++ amt)
  | .rot hd d a b right ty => mkRaw 0x23 hd d.enc a.enc b.enc (mBT right ty) 0
  | .bool3 hd d a b c w64 fn => mkRaw 0x24 hd d.enc a.enc b.enc (0#1 ++ (b1 w64 ++ fn)) (xC c)
  | .bool3Imm hd d a imm fn => mkRaw 0x2F hd d.enc a.enc 0 (0#2 ++ fn) imm
  | .popc hd d a ty => mkRaw 0x25 hd d.enc a.enc 0 (mT ty) 0
  | .clz hd d a ty => mkRaw 0x26 hd d.enc a.enc 0 (mT ty) 0
  | .brev hd d a ty => mkRaw 0x27 hd d.enc a.enc 0 (mT ty) 0
  | .bfe hd d a b ty => mkRaw 0x28 hd d.enc a.enc b.enc (mT ty) 0
  | .bfi hd d a b c => mkRaw 0x29 hd d.enc a.enc b.enc 0 (xC c)
  | .bsel hd d a b c => mkRaw 0x2A hd d.enc a.enc b.enc 0 (xC c)
  | .mov hd d a ty => mkRaw 0x30 hd d.enc a.enc 0 (mT ty) 0
  | .movi hd d imm ty => mkRaw 0x31 hd d.enc 0 0 (mT ty) imm
  | .movw hd d a ln => mkRaw 0x32 hd d.enc a.enc 0 0 (0#27 ++ ln)
  | .shfl hd d a b m mode => mkRaw 0x33 hd d.enc a.enc b.enc (0#7 ++ mode.code) m.encX
  | .vote hd pd pa m mode => mkRaw 0x34 hd pd.enc (encPred pa) 0 (0#8 ++ mode.code) m.encX
  | .ballot hd d pa m => mkRaw 0x35 hd d.enc (encPred pa) 0 0 m.encX
  | .matchv hd d a m all ty => mkRaw 0x36 hd d.enc a.enc 0 (mBT all ty) m.encX
  | .redux hd d a m rop ty => mkRaw 0x37 hd d.enc a.enc 0 (0#2 ++ (rop.code ++ ty.code)) m.encX
  | .s2v hd d wa => mkRaw 0x38 hd d.enc (encW wa) 0 0 0
  | .psetp hd pd a b pc z bop ty =>
    mkRaw 0x39 hd pd.enc a.enc b.enc (bop.code ++ (0#2 ++ (b1 z ++ ty.code))) (xP pc)
  | .plop hd pd pa pb pc fn => mkRaw 0x3A hd pd.enc (encPred pa) (encPred pb) (0#2 ++ fn) (xP pc)
  | .fadd hd d a b fm ty => mkRaw 0x40 hd d.enc a.enc b.enc (fm.encM ty) 0
  | .fmul hd d a b fm ty => mkRaw 0x41 hd d.enc a.enc b.enc (fm.encM ty) 0
  | .ffma hd d a b c fm ty => mkRaw 0x42 hd d.enc a.enc b.enc (fm.encM ty) (xC c)
  | .fmin hd d a b ftz na nl ty => mkRaw 0x43 hd d.enc a.enc b.enc (FMod.encM ⟨.rn, ftz, na, nl⟩ ty) 0
  | .fmax hd d a b ftz na nl ty => mkRaw 0x44 hd d.enc a.enc b.enc (FMod.encM ⟨.rn, ftz, na, nl⟩ ty) 0
  | .fsetp hd pd a b pc bop ftz cmp ty =>
    mkRaw 0x45 hd pd.enc a.enc b.enc (b1 ftz ++ (cmp.code ++ ty.code)) (0#20 ++ (bop.code ++ encPred pc))
  | .fclass hd d a ty => mkRaw 0x46 hd d.enc a.enc 0 (mT ty) 0
  | .frcp hd d a rm ftz => mkRaw 0x47 hd d.enc a.enc 0 (rm.code ++ (b1 ftz ++ 0#7)) 0
  | .frsq hd d a ftz => mkRaw 0x47 hd d.enc a.enc 0 (0#2 ++ (b1 ftz ++ 1#7)) 0
  | .fsqrt hd d a rm ftz => mkRaw 0x47 hd d.enc a.enc 0 (rm.code ++ (b1 ftz ++ 2#7)) 0
  | .fex2 hd d a ftz => mkRaw 0x47 hd d.enc a.enc 0 (0#2 ++ (b1 ftz ++ 3#7)) 0
  | .flg2 hd d a ftz => mkRaw 0x47 hd d.enc a.enc 0 (0#2 ++ (b1 ftz ++ 4#7)) 0
  | .fsin hd d a ftz => mkRaw 0x47 hd d.enc a.enc 0 (0#2 ++ (b1 ftz ++ 5#7)) 0
  | .fcos hd d a ftz => mkRaw 0x47 hd d.enc a.enc 0 (0#2 ++ (b1 ftz ++ 6#7)) 0
  | .hadd2 hd d a b fm ty => mkRaw 0x48 hd d.enc a.enc b.enc (fm.encM ty) 0
  | .hfma2 hd d a b c fm ty => mkRaw 0x49 hd d.enc a.enc b.enc (fm.encM ty) (xC c)
  | .dot4 hd d a b c sat ty => mkRaw 0x4A hd d.enc a.enc b.enc (0#2 ++ (b1 sat ++ (0#2 ++ ty.code))) (xC c)
  | .dot2 hd d a b c rm ty => mkRaw 0x4B hd d.enc a.enc b.enc (rm.code ++ (0#3 ++ ty.code)) (xC c)
  | .faddImm hd d a imm rm ftz na ty => mkRaw 0x4C hd d.enc a.enc 0 (FMod.encM ⟨rm, ftz, na, false⟩ ty) imm
  | .fmulImm hd d a imm rm ftz na ty => mkRaw 0x4D hd d.enc a.enc 0 (FMod.encM ⟨rm, ftz, na, false⟩ ty) imm
  | .ffmaImm hd d a imm rm ftz na ty => mkRaw 0x4E hd d.enc a.enc 0 (FMod.encM ⟨rm, ftz, na, false⟩ ty) imm
  | .dadd hd d a b rm na nl => mkRaw 0x50 hd d.enc a.enc b.enc (FMod.encM ⟨rm, false, na, nl⟩ .f64) 0
  | .dmul hd d a b rm na nl => mkRaw 0x51 hd d.enc a.enc b.enc (FMod.encM ⟨rm, false, na, nl⟩ .f64) 0
  | .dfma hd d a b c rm na nl => mkRaw 0x52 hd d.enc a.enc b.enc (FMod.encM ⟨rm, false, na, nl⟩ .f64) (xC c)
  | .dsetp hd pd a b pc bop cmp =>
    mkRaw 0x53 hd pd.enc a.enc b.enc (0#1 ++ (cmp.code ++ Ty.f64.code)) (0#20 ++ (bop.code ++ encPred pc))
  | .cvt hd d a rm ftz sat sty ty =>
    mkRaw 0x60 hd d.enc a.enc 0 (sty.code ++ ty.code) (0#18 ++ (b1 sat ++ (b1 ftz ++ (rm.code ++ 0#10))))
  | .cvtn hd d a elem rm freg fromN ty =>
    mkRaw 0x61 hd d.enc a.enc 0 (freg ++ (b1 fromN ++ (0#1 ++ ty.code))) (0#17 ++ (elem ++ (rm.code ++ 0#10)))
  | .cvtef hd d a r elem freg ty =>
    mkRaw 0x62 hd d.enc a.enc (encV r) (freg ++ (0#2 ++ ty.code)) (0#17 ++ (elem ++ 0#12))
  | .cvtw hd d a elem rm freg ty =>
    mkRaw 0x63 hd d.enc a.enc 0 (freg ++ (0#2 ++ ty.code)) (0#17 ++ (elem ++ (rm.code ++ 0#10)))
  | .pack hd d a b rm ftz ty => mkRaw 0x64 hd d.enc a.enc b.enc (mT ty) (0#19 ++ (b1 ftz ++ (rm.code ++ 0#10)))
  | .unpack hd d a ftz ty => mkRaw 0x65 hd d.enc a.enc 0 (mT ty) (0#19 ++ (b1 ftz ++ 0#12))
  | .bscale hd d a b freg mode => mkRaw 0x66 hd d.enc a.enc b.enc (freg ++ (mode.code ++ Ty.f32.code)) 0
  | .ld hd d a off ch mt => mkRaw 0x70 hd d.enc a.enc 0 (0#4 ++ mt.code) (encFM off ch)
  | .st hd a off b ch mt => mkRaw 0x71 hd 0 a.enc b.enc (0#4 ++ mt.code) (encFM off ch)
  | .ldl hd d a off mt => mkRaw 0x72 hd d.enc a.enc 0 (0#4 ++ mt.code) (off ++ 0#8)
  | .stl hd a off b mt => mkRaw 0x73 hd 0 a.enc b.enc (0#4 ++ mt.code) (off ++ 0#8)
  | .ldw hd d a off ch ty => mkRaw 0x74 hd (encW d) (encW a) 0 (mT ty) (encFM off ch)
  | .pref hd a off ch => mkRaw 0x75 hd 0 a.enc 0 0 (encFM off ch)
  | .cctlUse hd a off b ch => mkRaw 0x76 hd 0 a.enc b.enc 0 (encFM off ch)
  | .cctlL1drop hd a off ch => mkRaw 0x76 hd 0 a.enc 0 0x20 (encFM off ch)
  | .cctlWb hd a off ch => mkRaw 0x76 hd 0 a.enc 0 0x40 (encFM off ch)
  | .atom hd d a off b ch aop ty => mkRaw 0x80 hd d.enc a.enc b.enc (0#1 ++ (aop.code ++ ty.code)) (encFM off ch)
  | .atomLocal hd d a off b aop ty => mkRaw 0x81 hd d.enc a.enc b.enc (0#1 ++ (aop.code ++ ty.code)) (off ++ 0#8)
  | .acc hd a off b ch aop ty => mkRaw 0x82 hd 0 a.enc b.enc (0#3 ++ (aop.code ++ ty.code)) (encFM off ch)
  | .flushres hd => mkRaw 0x83 hd 0 0 0 0 0
  | .fence hd agent sp =>
    mkRaw 0x84 hd 0 0 0 (0#4 ++ (b1 sp.host ++ (b1 sp.graph ++ (b1 sp.glob ++ (b1 sp.loc ++ agent.code))))) 0
  | .bar hd bn stages arrive => mkRaw 0x90 hd 0 0 0 0 (0#23 ++ (b1 arrive ++ (stages ++ bn)))
  | .gbar hd bn stages arrive => mkRaw 0x91 hd 0 0 0 0 (0#23 ++ (b1 arrive ++ (stages ++ (0#2 ++ bn))))
  | .mwait hd d a off b ch cmp ty => mkRaw 0x92 hd d.enc a.enc b.enc (0#2 ++ (cmp.code ++ ty.code)) (encFM off ch)
  | .claim hd n => mkRaw 0x93 hd 0 0 0 0 (0#27 ++ n)
  | .release hd n => mkRaw 0x94 hd 0 0 0 0 (0#27 ++ n)
  | .nap hd n => mkRaw 0x95 hd 0 0 0 0 (xS n)
  | .gnewg hd pd d a => mkRaw 0xA0 hd d.enc a.enc 0 (encGM pd false false 0) 0
  | .gnewv hd pd d g a => mkRaw 0xA1 hd d.enc a.enc 0 (encGM pd false false 0) (encFG g 0)
  | .gfreev hd pd d g a => mkRaw 0xA2 hd d.enc a.enc 0 (encGM pd false false 0) (encFG g 0)
  | .gadd hd pd d g a b c =>
    mkRaw 0xA3 hd d.enc a.enc b.enc (encGM pd false c.isSome 0) (encFG g ((c.map Src.enc).getD 0))
  | .gdel hd pd d g a b dir byEnd => mkRaw 0xA4 hd d.enc a.enc b.enc (encGM pd dir.bit byEnd 0) (encFG g 0)
  | .gswap hd pd d g a b c dir => mkRaw 0xA5 hd d.enc a.enc b.enc (encGM pd dir.bit false 0) (encFG g c.enc)
  | .gswapShared hd pd d g a b c dir => mkRaw 0xA5 hd d.enc a.enc b.enc (encGM pd dir.bit true 0) (encFG g c.enc)
  | .glde hd pd d g a b dir => mkRaw 0xA6 hd d.enc a.enc b.enc (encGM pd dir.bit false 0) (encFG g 0)
  | .gdeg hd pd d g a dir => mkRaw 0xA7 hd d.enc a.enc 0 (encGM pd dir.bit false 0) (encFG g 0)
  | .gldv hd pd d g a sz off => mkRaw 0xA8 hd d.enc a.enc 0 (encGM pd false sz off) (encFG g 0)
  | .gstv hd pd d g a b sz off => mkRaw 0xA9 hd d.enc a.enc b.enc (encGM pd false sz off) (encFG g 0)
  | .gopen hd pd d g a dir cur => mkRaw 0xAA hd d.enc a.enc 0 (encGM pd dir.bit false (0#3 ++ cur)) (encFG g 0)
  | .gnext hd pd d cur => mkRaw 0xAB hd d.enc 0 0 (encGM pd false false (0#3 ++ cur)) 0
  | .gseek hd pd d b cur => mkRaw 0xAC hd d.enc 0 b.enc (encGM pd false false (0#3 ++ cur)) 0
  | .gclose hd pd d cur => mkRaw 0xAD hd d.enc 0 0 (encGM pd false false (0#3 ++ cur)) 0
  | .gwaitlow hd pd d g a => mkRaw 0xAE hd d.enc a.enc 0 (encGM pd false false 0) (encFG g 0)
  | .cpy hd a b len hnd hen rcnt dir grp =>
    mkRaw 0xB0 hd 0 a.enc b.enc (0#6 ++ (dir.code ++ grp.code)) (len ++ (hnd ++ (b1 hen ++ (rcnt ++ 0#12))))
  | .ggath hd d g a b c mode loc dir =>
    mkRaw 0xB1 hd (encW d) a.enc b.enc (mode.code ++ (b1 loc ++ (b1 dir.bit ++ 0#6))) (encFG g c.enc)
  | .waitc hd cls n => mkRaw 0xB2 hd 0 0 0 0 (0#24 ++ (cls.code ++ n))
  | .hwaitFull hd d hnd => mkRaw 0xB3 hd d.enc 0 0 0 (0#26 ++ hnd)
  | .hwaitFree hd hnd => mkRaw 0xB3 hd 511 0 0 0 (1#26 ++ hnd)
  | .hrel hd hnd => mkRaw 0xB4 hd 0 0 0 0 (0#26 ++ hnd)
  | .mstart hd a b count mask => mkRaw 0xB5 hd 0 a.enc b.enc (0#2 ++ count) (mask ++ 0#16)
  | .mstop hd => mkRaw 0xB6 hd 0 0 0 0 0
  | .bra hd off => mkRaw 0xC0 hd 0 0 0 0 off
  | .brx hd a => mkRaw 0xC1 hd 0 a.enc 0 0 0
  | .call hd off => mkRaw 0xC2 hd 0 0 0 0 off
  | .ret hd => mkRaw 0xC3 hd 0 0 0 0 0
  | .exit hd => mkRaw 0xC4 hd 0 0 0 0 0
  | .conv hd m => (match m with
    | .all => mkRaw 0xC5 hd 0 0 0 0 0x1000
    | .w n => mkRaw 0xC5 hd 0 (encW n) 0 0 0)
  | .yield hd => mkRaw 0xC6 hd 0 0 0 0 0
  | .nop hd => mkRaw 0xC7 hd 0 0 0 0 0
  | .bkpt hd tag => mkRaw 0xC8 hd 0 0 0 0 (xS tag)
  | .trap hd code => mkRaw 0xD0 hd 0 0 0 0 (xS code)
  | .eret hd next => mkRaw 0xD1 hd 0 0 0 0 (0#19 ++ (b1 next ++ 0#12))
  | .rdsys hd d idx => mkRaw 0xD2 hd d.enc 0 0 0 (xS idx)
  | .wrsys hd idx a => mkRaw 0xD3 hd 0 a.enc 0 0 (xS idx)
  | .rdts hd d => mkRaw 0xD4 hd d.enc 0 0 0 0
  | .rdclk hd d => mkRaw 0xD5 hd d.enc 0 0 0 0
  | .setprio hd n => mkRaw 0xD6 hd 0 0 0 0 (0#28 ++ n)
  | .mma tile dA dB kn ty =>
    mkRoller 0xE0 (0#6 ++ tile) (0#2 ++ dA) (0#2 ++ dB) (0#6 ++ (b1 kn ++ ty.code)) 0
  | .mzero tile => mkRoller 0xE1 (0#6 ++ tile) 0 0 0 0
  | .mstore dA tile rm ty => mkRoller 0xE2 (0#6 ++ tile) (0#2 ++ dA) 0 (rm.code ++ (0#5 ++ ty.code)) 0
  | .mscale tile f64 imm => mkRoller 0xE3 (0#6 ++ tile) 0 0 (1#9 ++ b1 f64) imm
  | .mbar bn => mkRoller 0xE4 0 0 0 0 (0#28 ++ bn)
  | .mloop step body count => mkRoller 0xE5 0 0 0 0 (step ++ (body ++ count))
  | .mend => mkRoller 0xE6 0 0 0 0 0
  | .mfmt freg imm => mkRoller 0xE7 0 0 0 (0#7 ++ freg) (0#6 ++ imm)
  | .unassignedEncoding raw => raw
  | .rollerUnassignedWord raw => raw
  | _ => ⟨0, 0, 0, 0, 0, 0, 0, 0⟩

/-! ## The wave decoder -/

/-- The TYPE of a word, M bits 36:32. -/
def rTy (r : Raw) : Option Ty := Ty.ofCode (r.m.extractLsb' 0 5)
/-- The C source of a word, X bits 9:0. -/
def rC (r : Raw) : Option Src := Src.dec (r.x.extractLsb' 0 10)
/-- The predicate in X bits 9:0. -/
def rPC (r : Raw) : Pred := r.x.extractLsb' 0 3
/-- The FN field. -/
def rFn (r : Raw) : BitVec 8 := r.m.extractLsb' 0 8
/-- The rounding field of M. -/
def rRm (r : Raw) : Rm := Rm.ofCode (r.m.extractLsb' 8 2)
/-- The rounding field of X. -/
def xRm (r : Raw) : Rm := Rm.ofCode (r.x.extractLsb' 10 2)
/-- The FREG field. -/
def rFreg (r : Raw) : BitVec 3 := r.m.extractLsb' 7 3
/-- The ELEM field. -/
def rElem (r : Raw) : BitVec 3 := r.x.extractLsb' 12 3

/-- The fields of a special-function word (R269). -/
def fieldsSfu (r : Raw) (hd : Hdr) : Option Instr := do
  let d ← DReg.dec r.d
  let a ← Src.dec r.a
  let ftz := fbit r.m 7
  match (r.m.extractLsb' 0 3).toNat with
  | 0 => some (.frcp hd d a (rRm r) ftz)
  | 1 => some (.frsq hd d a ftz)
  | 2 => some (.fsqrt hd d a (rRm r) ftz)
  | 3 => some (.fex2 hd d a ftz)
  | 4 => some (.flg2 hd d a ftz)
  | 5 => some (.fsin hd d a ftz)
  | 6 => some (.fcos hd d a ftz)
  | _ => none

/-- The fields of a word of nibbles 0x0 to 0x2 (Table 13-2). -/
def fieldsInt (r : Raw) (hd : Hdr) : Option Instr :=
  match r.op.toNat with
  | 0x00 => do some (.iadd hd (← Dst.dec r.d) (← Src.dec r.a) (← Src.dec r.b) (fbit r.m 5) (← rTy r))
  | 0x01 => do some (.isub hd (← Dst.dec r.d) (← Src.dec r.a) (← Src.dec r.b) (fbit r.m 5) (← rTy r))
  | 0x02 => do some (.imad hd (← Dst.dec r.d) (← Src.dec r.a) (← Src.dec r.b) (← rC r) (fbit r.m 5) (← rTy r))
  | 0x03 => do some (.imulh hd (← Dst.dec r.d) (← Src.dec r.a) (← Src.dec r.b) (← rTy r))
  | 0x04 => do some (.iadd64 hd (← Dst.dec r.d) (← Src.dec r.a) (← Src.dec r.b))
  | 0x05 => do some (.lea hd (← Dst.dec r.d) (← Src.dec r.a) (← Src.dec r.b) (r.m.extractLsb' 6 4) (← rTy r))
  | 0x06 => do some (.imin hd (← Dst.dec r.d) (← Src.dec r.a) (← Src.dec r.b) (← rTy r))
  | 0x07 => do some (.imax hd (← Dst.dec r.d) (← Src.dec r.a) (← Src.dec r.b) (← rTy r))
  | 0x08 => do some (.iabs hd (← Dst.dec r.d) (← Src.dec r.a) (fbit r.m 5) (← rTy r))
  | 0x09 => do some (.isetp hd (PDst.dec r.d) (← Src.dec r.a) (← Src.dec r.b) (rPC r)
      (← Cmp.ofCode (r.m.extractLsb' 5 3)) (← Bop.ofCode (r.m.extractLsb' 8 2)) (← rTy r))
  | 0x0A => do some (.isel hd (← Dst.dec r.d) (← Src.dec r.a) (← Src.dec r.b) (fbit r.m 9) (r.m.extractLsb' 6 3)
      (← rTy r))
  | 0x10 => do some (.iaddImm hd (← Dst.dec r.d) (← Src.dec r.a) r.x (fbit r.m 5) (← rTy r))
  | 0x12 => do some (.imadImm hd (← Dst.dec r.d) (← Src.dec r.a) r.x (← rTy r))
  | 0x14 => do some (.iadd64Imm hd (← Dst.dec r.d) (← Src.dec r.a) r.x)
  | 0x15 => do some (.leaImm hd (← Dst.dec r.d) (← Src.dec r.a) r.x (r.m.extractLsb' 6 4) (← rTy r))
  | 0x16 => do some (.iminImm hd (← Dst.dec r.d) (← Src.dec r.a) r.x (← rTy r))
  | 0x17 => do some (.imaxImm hd (← Dst.dec r.d) (← Src.dec r.a) r.x (← rTy r))
  | 0x19 => do some (.isetpImm hd (PDst.dec r.d) (← Src.dec r.a) r.x (← Cmp.ofCode (r.m.extractLsb' 5 3)) (← rTy r))
  | 0x1A => do some (.iselImm hd (← Dst.dec r.d) (← Src.dec r.a) r.x (fbit r.m 9) (r.m.extractLsb' 6 3) (← rTy r))
  | 0x20 => do some (.shl hd (← Dst.dec r.d) (← Src.dec r.a) (← Src.dec r.b) (← rTy r))
  | 0x21 => do some (.shr hd (← Dst.dec r.d) (← Src.dec r.a) (← Src.dec r.b) (← rTy r))
  | 0x22 => do some (.sar hd (← Dst.dec r.d) (← Src.dec r.a) (← Src.dec r.b) (← rTy r))
  | 0x23 => do some (.rot hd (← Dst.dec r.d) (← Src.dec r.a) (← Src.dec r.b) (fbit r.m 5) (← rTy r))
  | 0x24 => do some (.bool3 hd (← Dst.dec r.d) (← Src.dec r.a) (← Src.dec r.b) (← rC r) (fbit r.m 8) (rFn r))
  | 0x25 => do some (.popc hd (← Dst.dec r.d) (← Src.dec r.a) (← rTy r))
  | 0x26 => do some (.clz hd (← Dst.dec r.d) (← Src.dec r.a) (← rTy r))
  | 0x27 => do some (.brev hd (← Dst.dec r.d) (← Src.dec r.a) (← rTy r))
  | 0x28 => do some (.bfe hd (← Dst.dec r.d) (← Src.dec r.a) (← Src.dec r.b) (← rTy r))
  | 0x29 => do some (.bfi hd (← Dst.dec r.d) (← Src.dec r.a) (← Src.dec r.b) (← rC r))
  | 0x2A => do some (.bsel hd (← Dst.dec r.d) (← Src.dec r.a) (← Src.dec r.b) (← rC r))
  | 0x2C => do some (.shlImm hd (← Dst.dec r.d) (← Src.dec r.a) (r.x.extractLsb' 0 6) (← rTy r))
  | 0x2D => do some (.shrImm hd (← Dst.dec r.d) (← Src.dec r.a) (r.x.extractLsb' 0 6) (← rTy r))
  | 0x2E => do some (.sarImm hd (← Dst.dec r.d) (← Src.dec r.a) (r.x.extractLsb' 0 6) (← rTy r))
  | 0x2F => do some (.bool3Imm hd (← Dst.dec r.d) (← Src.dec r.a) r.x (rFn r))
  | _ => none

/-- The fields of a word of nibble 0x3 (Table 13-2). -/
def fieldsMove (r : Raw) (hd : Hdr) : Option Instr :=
  match r.op.toNat with
  | 0x30 => do some (.mov hd (← Dst.dec r.d) (← Src.dec r.a) (← rTy r))
  | 0x31 => do some (.movi hd (← Dst.dec r.d) r.x (← rTy r))
  | 0x32 => do some (.movw hd (← Dst.dec r.d) (← Src.dec r.a) (r.x.extractLsb' 0 5))
  | 0x33 => do some (.shfl hd (← Dst.dec r.d) (← Src.dec r.a) (← Src.dec r.b) (MaskSrc.decX r.x)
      (← ShflMode.ofCode (r.m.extractLsb' 0 3)))
  | 0x34 => do some (.vote hd (PDst.dec r.d) (decPred r.a) (MaskSrc.decX r.x) (← VoteMode.ofCode (r.m.extractLsb' 0 2)))
  | 0x35 => do some (.ballot hd (← Dst.dec r.d) (decPred r.a) (MaskSrc.decX r.x))
  | 0x36 => do some (.matchv hd (← Dst.dec r.d) (← Src.dec r.a) (MaskSrc.decX r.x) (fbit r.m 5) (← rTy r))
  | 0x37 => do some (.redux hd (← Dst.dec r.d) (← Src.dec r.a) (MaskSrc.decX r.x)
      (← ReduxOp.ofCode (r.m.extractLsb' 5 3)) (← rTy r))
  | 0x38 => do some (.s2v hd (← Dst.dec r.d) (decW r.a))
  | 0x39 => do some (.psetp hd (PDst.dec r.d) (← Src.dec r.a) (← Src.dec r.b) (rPC r) (fbit r.m 5)
      (← Bop.ofCode (r.m.extractLsb' 8 2)) (← rTy r))
  | 0x3A => some (.plop hd (PDst.dec r.d) (decPred r.a) (decPred r.b) (rPC r) (rFn r))
  | _ => none

/-- The fields of a word of nibbles 0x4 to 0x6 (Table 14-2). -/
def fieldsFloat (r : Raw) (hd : Hdr) : Option Instr :=
  match r.op.toNat with
  | 0x40 => do some (.fadd hd (← Dst.dec r.d) (← Src.dec r.a) (← Src.dec r.b) (FMod.decM r.m) (← rTy r))
  | 0x41 => do some (.fmul hd (← Dst.dec r.d) (← Src.dec r.a) (← Src.dec r.b) (FMod.decM r.m) (← rTy r))
  | 0x42 => do some (.ffma hd (← Dst.dec r.d) (← Src.dec r.a) (← Src.dec r.b) (← rC r) (FMod.decM r.m) (← rTy r))
  | 0x43 => do some (.fmin hd (← Dst.dec r.d) (← Src.dec r.a) (← Src.dec r.b) (fbit r.m 7) (fbit r.m 6) (fbit r.m 5)
      (← rTy r))
  | 0x44 => do some (.fmax hd (← Dst.dec r.d) (← Src.dec r.a) (← Src.dec r.b) (fbit r.m 7) (fbit r.m 6) (fbit r.m 5)
      (← rTy r))
  | 0x45 => do some (.fsetp hd (PDst.dec r.d) (← Src.dec r.a) (← Src.dec r.b) (rPC r)
      (← Bop.ofCode (r.x.extractLsb' 10 2)) (fbit r.m 9) (← FCmp.ofCode (r.m.extractLsb' 5 4)) (← rTy r))
  | 0x46 => do some (.fclass hd (← Dst.dec r.d) (← Src.dec r.a) (← rTy r))
  | 0x47 => fieldsSfu r hd
  | 0x48 => do some (.hadd2 hd (← Dst.dec r.d) (← Src.dec r.a) (← Src.dec r.b) (FMod.decM r.m) (← rTy r))
  | 0x49 => do some (.hfma2 hd (← Dst.dec r.d) (← Src.dec r.a) (← Src.dec r.b) (← rC r) (FMod.decM r.m) (← rTy r))
  | 0x4A => do some (.dot4 hd (← Dst.dec r.d) (← Src.dec r.a) (← Src.dec r.b) (← rC r) (fbit r.m 7) (← rTy r))
  | 0x4B => do some (.dot2 hd (← Dst.dec r.d) (← Src.dec r.a) (← Src.dec r.b) (← rC r) (rRm r) (← rTy r))
  | 0x4C => do some (.faddImm hd (← Dst.dec r.d) (← Src.dec r.a) r.x (rRm r) (fbit r.m 7) (fbit r.m 6) (← rTy r))
  | 0x4D => do some (.fmulImm hd (← Dst.dec r.d) (← Src.dec r.a) r.x (rRm r) (fbit r.m 7) (fbit r.m 6) (← rTy r))
  | 0x4E => do some (.ffmaImm hd (← Dst.dec r.d) (← Src.dec r.a) r.x (rRm r) (fbit r.m 7) (fbit r.m 6) (← rTy r))
  | 0x50 => do some (.dadd hd (← Dst.dec r.d) (← Src.dec r.a) (← Src.dec r.b) (rRm r) (fbit r.m 6) (fbit r.m 5))
  | 0x51 => do some (.dmul hd (← Dst.dec r.d) (← Src.dec r.a) (← Src.dec r.b) (rRm r) (fbit r.m 6) (fbit r.m 5))
  | 0x52 => do some (.dfma hd (← Dst.dec r.d) (← Src.dec r.a) (← Src.dec r.b) (← rC r) (rRm r) (fbit r.m 6) (fbit r.m 5))
  | 0x53 => do some (.dsetp hd (PDst.dec r.d) (← Src.dec r.a) (← Src.dec r.b) (rPC r)
      (← Bop.ofCode (r.x.extractLsb' 10 2)) (← FCmp.ofCode (r.m.extractLsb' 5 4)))
  | 0x60 => do some (.cvt hd (← Dst.dec r.d) (← Src.dec r.a) (xRm r) (fbit r.x 12) (fbit r.x 13)
      (← Ty.ofCode (r.m.extractLsb' 5 5)) (← rTy r))
  | 0x61 => do some (.cvtn hd (← Dst.dec r.d) (← Src.dec r.a) (rElem r) (xRm r) (rFreg r) (fbit r.m 6) (← rTy r))
  | 0x62 => do some (.cvtef hd (← Dst.dec r.d) (← Src.dec r.a) (r.b.extractLsb' 0 8) (rElem r) (rFreg r) (← rTy r))
  | 0x63 => do some (.cvtw hd (← Dst.dec r.d) (← Src.dec r.a) (rElem r) (xRm r) (rFreg r) (← rTy r))
  | 0x64 => do some (.pack hd (← Dst.dec r.d) (← Src.dec r.a) (← Src.dec r.b) (xRm r) (fbit r.x 12) (← rTy r))
  | 0x65 => do some (.unpack hd (← Dst.dec r.d) (← Src.dec r.a) (fbit r.x 12) (← rTy r))
  | 0x66 => do some (.bscale hd (← Dst.dec r.d) (← Src.dec r.a) (← Src.dec r.b) (rFreg r)
      (← BsMode.ofCode (r.m.extractLsb' 5 2)))
  | _ => none

/-- The fields of a word of nibbles 0x7 to 0x9 (Table 15-2). -/
def fieldsMem (r : Raw) (hd : Hdr) : Option Instr :=
  let off := decOff r.x
  let ch := decHint r.x
  let mt := MemTy.ofCode (r.m.extractLsb' 0 6)
  match r.op.toNat with
  | 0x70 => do some (.ld hd (← DReg.dec r.d) (← Src.dec r.a) off ch (← mt))
  | 0x71 => do some (.st hd (← Src.dec r.a) off (← Src.dec r.b) ch (← mt))
  | 0x72 => do some (.ldl hd (← DReg.dec r.d) (← Src.dec r.a) off (← mt))
  | 0x73 => do some (.stl hd (← Src.dec r.a) off (← Src.dec r.b) (← mt))
  | 0x74 => do some (.ldw hd (decW r.d) (decW r.a) off ch (← rTy r))
  | 0x75 => do some (.pref hd (← Src.dec r.a) off ch)
  | 0x76 => do
    match (r.m.extractLsb' 5 2).toNat with
    | 0 => some (.cctlUse hd (← Src.dec r.a) off (← Src.dec r.b) ch)
    | 1 => some (.cctlL1drop hd (← Src.dec r.a) off ch)
    | 2 => some (.cctlWb hd (← Src.dec r.a) off ch)
    | _ => none
  | 0x80 => do some (.atom hd (← DReg.dec r.d) (← Src.dec r.a) off (← Src.dec r.b) ch
      (← Aop.ofCode (r.m.extractLsb' 5 4)) (← rTy r))
  | 0x81 => do some (.atomLocal hd (← DReg.dec r.d) (← Src.dec r.a) off (← Src.dec r.b)
      (← Aop.ofCode (r.m.extractLsb' 5 4)) (← rTy r))
  | 0x82 => do some (.acc hd (← Src.dec r.a) off (← Src.dec r.b) ch (← AccOp.ofCode (r.m.extractLsb' 5 2)) (← rTy r))
  | 0x83 => some (.flushres hd)
  | 0x84 => some (.fence hd (Agent.ofCode (r.m.extractLsb' 0 2)) ⟨fbit r.m 5, fbit r.m 4, fbit r.m 3, fbit r.m 2⟩)
  | 0x90 => some (.bar hd (r.x.extractLsb' 0 4) (r.x.extractLsb' 4 4) (fbit r.x 8))
  | 0x91 => some (.gbar hd (r.x.extractLsb' 0 2) (r.x.extractLsb' 4 4) (fbit r.x 8))
  | 0x92 => do some (.mwait hd (← DReg.dec r.d) (← Src.dec r.a) off (← Src.dec r.b) ch
      (← Cmp.ofCode (r.m.extractLsb' 5 3)) (← rTy r))
  | 0x93 => some (.claim hd (r.x.extractLsb' 0 5))
  | 0x94 => some (.release hd (r.x.extractLsb' 0 5))
  | 0x95 => some (.nap hd (r.x.extractLsb' 0 12))
  | _ => none

/-- The fields of a word of nibble 0xA (Table 16-2). -/
def fieldsGraph (r : Raw) (hd : Hdr) : Option Instr :=
  let pd := decPD r.m
  let g := decGid r.x
  let dir := decDir r.m
  let cur := decCur r.m
  match r.op.toNat with
  | 0xA0 => do some (.gnewg hd pd (← DReg.dec r.d) (← Src.dec r.a))
  | 0xA1 => do some (.gnewv hd pd (← DReg.dec r.d) g (← Src.dec r.a))
  | 0xA2 => do some (.gfreev hd pd (← DReg.dec r.d) g (← Src.dec r.a))
  | 0xA3 => do
    let c ← if fbit r.m 5 then (rC r).map some else some none
    some (.gadd hd pd (← DReg.dec r.d) g (← Src.dec r.a) (← Src.dec r.b) c)
  | 0xA4 => do some (.gdel hd pd (← DReg.dec r.d) g (← Src.dec r.a) (← Src.dec r.b) dir (fbit r.m 5))
  | 0xA5 => do
    let d ← DReg.dec r.d
    let a ← Src.dec r.a
    let b ← Src.dec r.b
    let c ← rC r
    if fbit r.m 5 then some (.gswapShared hd pd d g a b c dir) else some (.gswap hd pd d g a b c dir)
  | 0xA6 => do some (.glde hd pd (← DReg.dec r.d) g (← Src.dec r.a) (← Src.dec r.b) dir)
  | 0xA7 => do some (.gdeg hd pd (← DReg.dec r.d) g (← Src.dec r.a) dir)
  | 0xA8 => do some (.gldv hd pd (← DReg.dec r.d) g (← Src.dec r.a) (fbit r.m 5) (r.m.extractLsb' 0 5))
  | 0xA9 => do some (.gstv hd pd (← DReg.dec r.d) g (← Src.dec r.a) (← Src.dec r.b) (fbit r.m 5) (r.m.extractLsb' 0 5))
  | 0xAA => do some (.gopen hd pd (← DReg.dec r.d) g (← Src.dec r.a) dir cur)
  | 0xAB => do some (.gnext hd pd (← DReg.dec r.d) cur)
  | 0xAC => do some (.gseek hd pd (← DReg.dec r.d) (← Src.dec r.b) cur)
  | 0xAD => do some (.gclose hd pd (← DReg.dec r.d) cur)
  | 0xAE => do some (.gwaitlow hd pd (← DReg.dec r.d) g (← Src.dec r.a))
  | _ => none

/-- The fields of a word of nibbles 0xB to 0xD (Tables 13-2, 17-1 and 18-1). -/
def fieldsCtl (r : Raw) (hd : Hdr) : Option Instr :=
  match r.op.toNat with
  | 0xB0 => do some (.cpy hd (← Src.dec r.a) (← Src.dec r.b) (r.x.extractLsb' 24 8) (r.x.extractLsb' 18 6) (fbit r.x 17)
      (r.x.extractLsb' 12 5) (CpyDir.ofCode (r.m.extractLsb' 2 2)) (← Grp.ofCode (r.m.extractLsb' 0 2)))
  | 0xB1 => do some (.ggath hd (decW r.d) (decGid r.x) (← Src.dec r.a) (← Src.dec r.b) (← rC r)
      (← GMode.ofCode (r.m.extractLsb' 8 2)) (fbit r.m 7) (decDir r.m))
  | 0xB2 => do some (.waitc hd (← Cls.ofCode (r.x.extractLsb' 6 2)) (r.x.extractLsb' 0 6))
  | 0xB3 => do
    if fbit r.x 6 then some (.hwaitFree hd (r.x.extractLsb' 0 6))
    else some (.hwaitFull hd (← DReg.dec r.d) (r.x.extractLsb' 0 6))
  | 0xB4 => some (.hrel hd (r.x.extractLsb' 0 6))
  | 0xB5 => do some (.mstart hd (← Src.dec r.a) (← Src.dec r.b) (r.m.extractLsb' 0 8) (r.x.extractLsb' 16 16))
  | 0xB6 => some (.mstop hd)
  | 0xC0 => some (.bra hd r.x)
  | 0xC1 => do some (.brx hd (← Src.dec r.a))
  | 0xC2 => some (.call hd r.x)
  | 0xC3 => some (.ret hd)
  | 0xC4 => some (.exit hd)
  | 0xC5 => some (.conv hd (if fbit r.x 12 then .all else .w (decW r.a)))
  | 0xC6 => some (.yield hd)
  | 0xC7 => some (.nop hd)
  | 0xC8 => some (.bkpt hd (r.x.extractLsb' 0 12))
  | 0xD0 => some (.trap hd (r.x.extractLsb' 0 12))
  | 0xD1 => some (.eret hd (fbit r.x 12))
  | 0xD2 => do some (.rdsys hd (← DReg.dec r.d) (r.x.extractLsb' 0 12))
  | 0xD3 => do some (.wrsys hd (r.x.extractLsb' 0 12) (← Src.dec r.a))
  | 0xD4 => do some (.rdts hd (← DReg.dec r.d))
  | 0xD5 => do some (.rdclk hd (← DReg.dec r.d))
  | 0xD6 => some (.setprio hd (r.x.extractLsb' 0 4))
  | _ => none

/-- The fields of a wave word by the nibble of its opcode (R268). -/
def fieldsWave (r : Raw) : Option Instr := do
  let hd ← Hdr.dec r
  match r.op.toNat / 16 with
  | 0 | 1 | 2 => fieldsInt r hd
  | 3 => fieldsMove r hd
  | 4 | 5 | 6 => fieldsFloat r hd
  | 7 | 8 | 9 => fieldsMem r hd
  | 10 => fieldsGraph r hd
  | 11 | 12 | 13 => fieldsCtl r hd
  | _ => none

/-- The fields of a Roller word (Table 17-5). -/
def fieldsRoller (r : Raw) : Option Instr :=
  let tile : BitVec 4 := r.d.extractLsb' 0 4
  let dA : BitVec 8 := r.a.extractLsb' 0 8
  match r.op.toNat with
  | 0xE0 => do some (.mma tile dA (r.b.extractLsb' 0 8) (fbit r.m 3) (← RTy.ofCode (r.m.extractLsb' 0 3)))
  | 0xE1 => some (.mzero tile)
  | 0xE2 => do some (.mstore dA tile (rRm r) (← RTy.ofCode (r.m.extractLsb' 0 3)))
  | 0xE3 => some (.mscale tile (fbit r.m 0) r.x)
  | 0xE4 => some (.mbar (r.x.extractLsb' 0 4))
  | 0xE5 => some (.mloop (r.x.extractLsb' 24 8) (r.x.extractLsb' 16 8) (r.x.extractLsb' 0 16))
  | 0xE6 => some .mend
  | 0xE7 => some (.mfmt (r.m.extractLsb' 0 3) (r.x.extractLsb' 0 26))
  | _ => none

/-- Why a word is no instruction of the engine that reads it (R263, R264, Table 18-7). -/
inductive Reject where
  /-- An opcode of nibble 0xE issued by a wave. -/
  | wrongEngine
  /-- An empty cell of Table 12-10, or a field code that its table reserves. -/
  | unassigned
  /-- A nonzero reserved bit. -/
  | reservedBits
  /-- A register class, pair, SET rule or combination that the entry does not allow. -/
  | malformed
  deriving DecidableEq, Repr

/-- The answer of a decoder. -/
inductive Decoded where
  | ok (i : Instr)
  | reject (why : Reject)
  deriving DecidableEq, Repr

/-- Accept the fields read from a word: the encoder must give the word back whole, and the entry's checks hold. -/
def accept (r : Raw) : Option Instr → Decoded
  | none => .reject .unassigned
  | some i => if encodeRaw i ≠ r then .reject .reservedBits else if wordOk i then .ok i else .reject .malformed

/-- The instruction a wave reads from a word (R263). -/
def decodeWave (r : Raw) : Decoded :=
  if r.op.toNat / 16 = 14 then .reject .wrongEngine else accept r (fieldsWave r)

/-- The instruction the Roller reads from a word (R372, R373). -/
def decodeRoller (r : Raw) : Decoded := accept r (fieldsRoller r)

/-- What a wave performs for a word: the instruction, or the step of an unassigned encoding (R396). -/
def waveInstr (r : Raw) : Instr :=
  match decodeWave r with
  | .ok i => i
  | .reject _ => .unassignedEncoding r

/-- What the Roller performs for a word: the instruction, or the step of an unassigned word (R373). -/
def rollerInstr (r : Raw) : Instr :=
  match decodeRoller r with
  | .ok i => i
  | .reject _ => .rollerUnassignedWord r

/-- The word of a wave or Roller instruction. -/
def encode (i : Instr) : Word96 := (encodeRaw i).pack

/-! ## Policy words -/

/-- A policy word from its fields (Table 21-1). -/
def mkPol (op : BitVec 6) (d a b : BitVec 4) (i : BitVec 14) : Word := op ++ (d ++ (a ++ (b ++ i)))

/-- The policy words, Tables 21-2 and 21-4. -/
def encodePolicy : Instr → Option Word
  | .policyLi d i => some (mkPol 0x01 d 0 0 i)
  | .policyLui d i => some (mkPol 0x02 d 0 0 i)
  | .policyAddi d a i => some (mkPol 0x03 d a 0 i)
  | .policyAdd d a b => some (mkPol 0x04 d a b 0)
  | .policySub d a b => some (mkPol 0x05 d a b 0)
  | .policyAnd d a b => some (mkPol 0x06 d a b 0)
  | .policyOr d a b => some (mkPol 0x07 d a b 0)
  | .policyXor d a b => some (mkPol 0x08 d a b 0)
  | .policyShl d a b => some (mkPol 0x09 d a b 0)
  | .policyShr d a b => some (mkPol 0x0A d a b 0)
  | .policyMinu d a b => some (mkPol 0x0B d a b 0)
  | .policyMaxu d a b => some (mkPol 0x0C d a b 0)
  | .policySltu d a b => some (mkPol 0x0D d a b 0)
  | .policyVq d a f => some (mkPol 0x10 d a 0 (0#10 ++ f))
  | .policyVs d a f => some (mkPol 0x11 d a 0 (0#10 ++ f))
  | .policyVp d a f => some (mkPol 0x12 d a 0 (0#10 ++ f))
  | .policyVf d f => some (mkPol 0x13 d 0 0 (0#10 ++ f))
  | .policyVg d f => some (mkPol 0x14 d 0 0 (0#10 ++ f))
  | .policyFit d a b => some (mkPol 0x18 d a b 0)
  | .policyFind d a b => some (mkPol 0x19 d a b 0)
  | .policyBeq a b i => some (mkPol 0x20 0 a b i)
  | .policyBne a b i => some (mkPol 0x21 0 a b i)
  | .policyBltu a b i => some (mkPol 0x22 0 a b i)
  | .policyBgeu a b i => some (mkPol 0x23 0 a b i)
  | .policyBra i => some (mkPol 0x24 0 0 0 i)
  | .qloop d n => some (mkPol 0x28 d 0 0 n)
  | .policyEndNone => some (mkPol 0x30 0 0 0 0)
  | .policyEndPlace a b => some (mkPol 0x30 0 a b 1)
  | .policyEndPreempt a => some (mkPol 0x30 0 a 0 2)
  | .policyEndResume => some (mkPol 0x30 0 0 0 3)
  | .policyEndSuspend => some (mkPol 0x30 0 0 0 4)
  | .policyEndKillteam => some (mkPol 0x30 0 0 0 5)
  | .policyEndKillgrid => some (mkPol 0x30 0 0 0 6)
  | .policyEndEscalate => some (mkPol 0x30 0 0 0 7)
  | _ => none

/-- The fields of a policy word by its opcode (Table 21-2). -/
def fieldsPolicy (w : Word) : Option Instr :=
  let d : BitVec 4 := w.extractLsb' 22 4
  let a : BitVec 4 := w.extractLsb' 18 4
  let b : BitVec 4 := w.extractLsb' 14 4
  let i : BitVec 14 := w.extractLsb' 0 14
  let f : BitVec 4 := w.extractLsb' 0 4
  match (w.extractLsb' 26 6).toNat with
  | 0x01 => some (.policyLi d i)
  | 0x02 => some (.policyLui d i)
  | 0x03 => some (.policyAddi d a i)
  | 0x04 => some (.policyAdd d a b)
  | 0x05 => some (.policySub d a b)
  | 0x06 => some (.policyAnd d a b)
  | 0x07 => some (.policyOr d a b)
  | 0x08 => some (.policyXor d a b)
  | 0x09 => some (.policyShl d a b)
  | 0x0A => some (.policyShr d a b)
  | 0x0B => some (.policyMinu d a b)
  | 0x0C => some (.policyMaxu d a b)
  | 0x0D => some (.policySltu d a b)
  | 0x10 => some (.policyVq d a f)
  | 0x11 => some (.policyVs d a f)
  | 0x12 => some (.policyVp d a f)
  | 0x13 => some (.policyVf d f)
  | 0x14 => some (.policyVg d f)
  | 0x18 => some (.policyFit d a b)
  | 0x19 => some (.policyFind d a b)
  | 0x20 => some (.policyBeq a b i)
  | 0x21 => some (.policyBne a b i)
  | 0x22 => some (.policyBltu a b i)
  | 0x23 => some (.policyBgeu a b i)
  | 0x24 => some (.policyBra i)
  | 0x28 => some (.qloop d i)
  | 0x30 => (match f.toNat with
    | 0 => some .policyEndNone
    | 1 => some (.policyEndPlace a b)
    | 2 => some (.policyEndPreempt a)
    | 3 => some .policyEndResume
    | 4 => some .policyEndSuspend
    | 5 => some .policyEndKillteam
    | 6 => some .policyEndKillgrid
    | 7 => some .policyEndEscalate
    | _ => none)
  | _ => none

/-- The instruction that the Trowel reads from a policy word (R419, R421). The bound on QLOOP's count belongs to the
checks of a commit (R427). -/
def decodePolicy (w : Word) : Decoded :=
  match fieldsPolicy w with
  | none => .reject .unassigned
  | some i =>
    if encodePolicy i ≠ some w then .reject .reservedBits else if wordOk i then .ok i else .reject .malformed

/-- The host's question: the instruction read from the low nbits of w. A row of at most 32 bits is a policy word; a
longer one is a word of a wave or of the Roller. -/
def decodeTableWord (nbits w : Nat) : Option Instr :=
  let d := if nbits ≤ 32 then decodePolicy (wordOfBytes (bytesOfWord (BitVec.ofNat 32 w)))
    else
      let r := Raw.unpack (word96OfBytes (bytesOfWord96 (BitVec.ofNat 96 w)))
      if r.op.toNat / 16 = 14 then decodeRoller r else decodeWave r
  match d with
  | .ok i => some i
  | .reject _ => none

end Sys2Proof
end

