-- ==== Sys2Proof/Machine/System.lean ====
section
/-! DEFINITION. System registers, clocks, priority, traps and words that are no instruction (spec/18, R50, R263). -/

namespace Sys2Proof.Machine

/-! ## System registers (Table 18-2) -/

/-- DIE_GEN (Table 5-4). -/
def dieGen (s : State) : Nat :=
  (s.die 0).gen % 256 + 2 ^ 8 * ((s.die 1).gen % 256) + 2 ^ 16 * ((s.die 2).gen % 256) + 2 ^ 24 * ((s.die 3).gen % 256)

/-- The requested and the effective floor of a resource (Table 23-3). -/
def floorReg (r : PRegs) (n : Nat) : Nat := (tget r.floors n).getD 0 + 2 ^ 16 * (tget r.effs n).getD 0

/-- The registers of the device and of a partition, by index; none where Table 18-2 assigns none. -/
def partReg (s : State) (part idx : Nat) : Option DWord :=
  let r := (s.part part).regs
  let n := fun x : Nat => some (BitVec.ofNat 64 x)
  match idx with
  | 0x200 => n r.lease
  | 0x201 => n s.ceil
  | 0x202 => n (dieGen s)
  | 0x210 => n r.accQuota
  | 0x211 => n (r.accRef % 2 ^ 32 + 2 ^ 32 * (r.accForced % 2 ^ 32))
  | 0x220 => n (r.thrLimit + 256 * r.thrEn.toNat)
  | 0x230 => n (r.wdPeriod + 2 ^ 62 * r.wdExt.toNat + 2 ^ 63 * r.wdFired.toNat)
  | 0x400 => n 0
  | 0x401 => some r.polSrc
  | 0x402 => n (2 ^ 32 * r.polVer.toNat + 2 ^ 24 * r.polErrW + 2 ^ 8 * r.polErr + 2 * r.loaded.toNat + r.busy.toNat)
  | 0x403 => n (2 ^ 16 * r.quantum + r.forceFb.toNat)
  | 0x404 => n (2 ^ 32 * (r.overrun % 2 ^ 32) + 2 ^ 16 * (r.invalid % 2 ^ 16) + r.lost % 2 ^ 16)
  | 0x405 => some r.decRing
  | 0x406 => n (2 ^ 32 * r.decTail + r.decHead)
  | 0x600 => some r.pasidTab
  | 0x601 => n 0
  | 0x602 => n (2 * r.tlbErr.toNat + r.tlbBusy.toNat)
  | 0x603 => some r.faultRing
  | 0x604 => n (2 ^ 32 * r.fTail + r.fHead)
  | 0x605 => some r.trapRing
  | _ => if 0x500 ≤ idx ∧ idx ≤ 0x50F then n (if idx ≤ 0x505 then floorReg r (idx - 0x500) else 0) else none

/-- A system register as a wave reads it (R382 to R384). -/
def readSys (s : State) (w : Wave) (idx : Nat) : Option DWord :=
  let t := s.teamOf w
  match idx with
  | 0x000 => some (w.fstatus.setWidth 64)
  | 0x001 => some (BitVec.ofNat 64 (w.trap.code.toNat + 256 * w.trap.inn.toNat))
  | 0x002 => some w.trap.pc
  | 0x003 => some (w.trap.lanes.setWidth 64)
  | 0x004 => some w.trap.info
  | 0x110 => some t.trapVec
  | 0x120 => some (BitVec.ofNat 64 (s.gangOf w).runPrio)
  | _ => if 0x100 ≤ idx ∧ idx ≤ 0x107 then some (fmtVal w.fmts (idx - 0x100)) else partReg s (s.partNo w) idx

/-- The writable bits of a format register (Table 11-6) and of TRAP_VEC (Table 18-3). -/
def fmtMask : DWord := 0x3FFC07F
def vecMask : DWord := ~~~(2 : DWord)

/-- Write the registers that waves may write; writes to reserved and RO fields are ignored (R6, R382). -/
def writeSys (s : State) (id : Nat) (idx : Nat) (x : DWord) : State :=
  let w := s.wave id
  match idx with
  | 0x000 => s.updWave id fun w => { w with fstatus := x.setWidth 5 }
  | 0x001 => s.updWave id fun w => { w with trap := { w.trap with code := x.setWidth 8 } }
  | 0x002 => s.updWave id fun w => { w with trap := { w.trap with pc := x } }
  | 0x003 => s.updWave id fun w => { w with trap := { w.trap with lanes := x.setWidth 32 } }
  | 0x004 => s.updWave id fun w => { w with trap := { w.trap with info := x } }
  | 0x110 => s.updTeam w.team fun t => { t with trapVec := x &&& vecMask }
  | _ =>
    let (i, s) := s.newId
    s.updWave id fun w => { w with fmts := fmtPut w.fmts (idx - 0x100) i (x &&& fmtMask) }

/-- Whether waves may write a register (Table 18-2). -/
def waveWrites (idx : Nat) : Bool := idx ≤ 4 || (0x100 ≤ idx && idx ≤ 0x107) || idx == 0x110

/-- The info of TRAP_ILLEGAL: bits 95:32 of the word (Table 18-4). -/
def wordInfo (i : Instr) : Nat := ((encode i).extractLsb' 32 64).toNat

/-- A 64-bit result of the wave's system reads, for every lane of E or a uniform pair (R255, R382): it is read at issue, and
stands in flight until it is written (log entry 17). -/
def systemResult (s : State) (c : Ctx) (hd : Hdr) (d : DReg) (x : DWord) : State :=
  keepResults (s.setWave c.id c.w) c hd (dregs d 2) 2 d fun _ => [loWord x, hiWord x]

/-- RDSYS (R382). -/
def execRdsys (hd : Hdr) (d : DReg) (idx : BitVec 12) (s : State) : Out :=
  .next (issue s hd (useOf (.rdsys hd d idx)) fun c =>
    if c.E = 0 then finishNext s c hd c.w
    else match readSys s c.w idx.toNat with
      | none => trapCtx s c 1 (wordInfo (.rdsys hd d idx))
      | some x => systemResult s c hd d x)

/-- WRSYS: the value of the lowest lane of E (R382). -/
def execWrsys (hd : Hdr) (idx : BitVec 12) (a : Src) (s : State) : Out :=
  .next (issue s hd (useOf (.wrsys hd idx a)) fun c =>
    if c.E = 0 then finishNext s c hd c.w
    else match readSys s c.w idx.toNat with
      | none => trapCtx s c 1 (wordInfo (.wrsys hd idx a))
      | some _ =>
        if waveWrites idx.toNat then
          let s := writeSys s c.id idx.toNat (rd64 s c.w (firstLane c.E) a)
          finishNext s c hd (s.wave c.id)
        else trapCtx s c 8 idx.toNat)

/-- Whether some access of the lanes has no reply yet, or one whose reply is not applied (R385). -/
def lanesAwait (s : State) (id : Nat) (m : LaneSet) : Bool :=
  lanesBusy s id m || s.reps.any fun e =>
    liveReq s e.2.req && !e.2.req.kind.isPref && e.2.req.wave == id && e.2.req.lanes &&& m != 0

/-- RDTS: reads pts after every earlier ordinary access of the active threads has been applied to it (R385). -/
def execRdts (hd : Hdr) (d : DReg) (s : State) : Out :=
  .next (issue s hd (useOf (.rdts hd d)) fun c =>
    if c.E = 0 then finishNext s c hd c.w
    else if lanesAwait s c.id c.path then s
    else systemResult s c hd d (BitVec.ofNat 64 (s.core c.w.core).pts))

/-- RDCLK: the core's cycles since its die's last reset (R386). -/
def execRdclk (hd : Hdr) (d : DReg) (s : State) : Out :=
  .next (issue s hd (useOf (.rdclk hd d)) fun c =>
    systemResult s c hd d (BitVec.ofNat 64 (s.cycle - (s.die (coreDie c.w.core)).clk)))

/-- SETPRIO (R387). -/
def execSetprio (hd : Hdr) (n : BitVec 4) (s : State) : Out :=
  .next (issue s hd (useOf (.setprio hd n)) fun c =>
    if c.E = 0 then finishNext s c hd c.w
    else finishNext (s.updGang (s.teamOf c.w).gang fun g => { g with runPrio := min n.toNat (s.gridOf c.w).queue }) c hd c.w)

/-! ## Traps -/

/-- TRAP: TRAP_USER in the lanes of E (R393). -/
def execTrap (hd : Hdr) (code : BitVec 12) (s : State) : Out :=
  .next (issue s hd (useOf (.trap hd code)) fun c =>
    if c.E = 0 then finishNext s c hd c.w else trapCtx s c 19 code.toNat)

/-- BKPT: TRAP_BREAK in the lanes of E (R393). -/
def execBkpt (hd : Hdr) (tag : BitVec 12) (s : State) : Out :=
  .next (issue s hd (useOf (.bkpt hd tag)) fun c =>
    if c.E = 0 then finishNext s c hd c.w else trapCtx s c 20 tag.toNat)

/-- ERET (R246, R392). -/
def execEret (hd : Hdr) (next : Bool) (s : State) : Out :=
  .next (issueWide s hd (useOf (.eret hd next)) (uses []) false (fun w => w.trap.lanes) fun c s =>
    if c.E = 0 then finishNext s c hd c.w
    else if ¬ c.w.trap.inn then trapCtx s c 1 (wordInfo (.eret hd next))
    else
      let t := if next then nextPc c.w.trap.pc else c.w.trap.pc
      if t.toNat % 4 ≠ 0 then trapCtx s c 3 t.toNat
      else
        let mask := match c.w.gatherAt c.pc with
          | none => c.w.trap.lanes
          | some g => g.mask
        s.setWave c.id (trapReturn { c.w with iss := issueNote c.w.iss s.cycle hd.h } c.pc c.path mask next))

/-- Guard and hints that hold nothing back: a word that is no instruction is decoded before anything else (R263). -/
def plainHdr : Hdr := { g := { neg := false, p := 7 }, h := { stall := 0, yld := false, set := none, wait := 0 } }

/-- A word that is no instruction: TRAP_WRONG_ENGINE for the Roller's opcodes, TRAP_ILLEGAL for the rest (R263, R396). -/
def execUnassignedEncoding (raw : Raw) (s : State) : Out :=
  .next (match s.ctx plainHdr with
    | none => s
    | some c =>
      if raw.op.toNat / 16 = 14 then trapCtx s c 2 raw.op.toNat
      else trapCtx s c 1 (raw.pack.extractLsb' 32 64).toNat)

end Sys2Proof.Machine
end

