-- ==== Sys2Proof/Machine/Hod.lean ====
section
/-! DEFINITION. The Hods: copies and gathers, their parts and their completion (R41, R201 to R211, R361 to R366). -/

namespace Sys2Proof.Machine

/-! ## Configuration of an operation (R202, R361) -/

/-- Whether the source, and the destination, of a copy is global. -/
def cpySrcGlob : CpyDir → Bool
  | .g2l | .g2g => true
  | .l2g | .l2l => false
def cpyDstGlob : CpyDir → Bool
  | .l2g | .g2g => true
  | .g2l | .l2l => false

def grpCode : Grp → Nat
  | .wave => 0
  | .stage => 1
  | .team => 2

/-- How many copies of a participant group a wave has supplied (R363). -/
def Team.copies (t : Team) (wave : Nat) (g : Grp) : Nat := (tget t.joined (4 * wave + grpCode g)).getD 0

/-- The waves of a participant group (R202). -/
def grpWaves (s : State) (id : Nat) (w : Wave) (g : Grp) : List Nat :=
  match g with
  | .wave => [id]
  | .stage => (s.teamWaves w.team).filter fun i => (s.wave i).stage == w.stage
  | .team => s.teamWaves w.team

/-- The operation that a wave's next copy of a group joins, if another wave has begun it. -/
def joinOp (s : State) (id : Nat) (w : Wave) (g : Grp) : Option (Nat × HodOp) :=
  s.hops.find? fun o => o.2.team == w.team && o.2.gather.isNone && o.2.grp == g &&
    o.2.seq == (s.team w.team).copies id g && o.2.expect.contains id

/-- Operations that a cluster's Hod holds (R201): those of a saved team stand in its context image (R210). -/
def hodCount (s : State) (cluster : Nat) : Nat :=
  (s.hops.filter fun o => o.2.cluster == cluster && (s.team o.2.team).life != .saved).length

/-- The first use of a handle by an operation (Table 10-2). -/
def fillHandle (s : State) (team : Nat) (h : Option Nat) (readers op : Nat) : State :=
  match h with
  | none => s
  | some n =>
    let x : Handle := { st := .filling, readers := readers, releases := 0, status := 0, t := 0, op := op }
    s.updTeam team fun t => { t with handles := tput t.handles n x }

/-! ## Parts (R204, R364) -/

/-- The parts of a segment. -/
def segParts (dir : CpyDir) (len : Nat) (x : Seg) : List HPart :=
  (List.range (len / 16)).map fun i =>
    { wave := x.wave, lane := x.lane, src := some (x.src + 16 * i), dst := x.dst + 16 * i, srcLoc := !cpySrcGlob dir,
      dstLoc := !cpyDstGlob dir, bytes := [], waits := none }

/-- Number a list from `n`. -/
def numbered {α : Type} : Nat → List α → Tbl α
  | _, [] => []
  | n, x :: xs => (n, x) :: numbered (n + 1) xs

/-- The partition and PASID of an operation. -/
def hodSpace (s : State) (o : HodOp) : Nat × Nat :=
  let g := s.gang (s.team o.team).gang
  (g.part, (s.grid (gridKey g.part g.vertex)).pasid)

/-- The status of an operation: that of its lowest failing lane (R206). -/
def hodStatus (o : HodOp) : Nat :=
  match o.gather with
  | none => 0
  | some k => match leastBy (·.1) k.fails with
    | none => 0
    | some f => f.2

/-- An operation is complete: its registration ends, its handle is FULL, and its waves count it as done (R153, R206, R208). -/
def hodEnd (s : State) (op : Nat) (o : HodOp) : State :=
  let s1 := { s with hops := tdel s.hops op }
  let s2 := match o.gather with
    | none => s1
    | some k => snapDrop s1 (hodSpace s o).1 k.slot
  let s3 := match o.handle with
    | none => s2
    | some n => s2.updTeam o.team fun t =>
        { t with handles := tput t.handles n { handleOf t n with st := .full, status := hodStatus o, t := o.t } }
  recheckHandles (completeOp s3 op o.t) o.team

/-- Whether an operation has nothing left to do. -/
def HodOp.empty (o : HodOp) : Bool :=
  o.started && o.parts == [] && (match o.gather with
    | none => true
    | some k => k.todo == [])

/-- An operation that has nothing to do from its start completes there (R363, R366). -/
def hodNone (s : State) (op : Nat) : State :=
  match tget s.hops op with
  | none => s
  | some o => if o.empty then hodEnd s op o else s

/-- HOD_OPERATION_START: with no slice expected any more, a copy is divided into its parts (R204). -/
def hodStart (s : State) (op : Nat) : State :=
  match tget s.hops op with
  | none => s
  | some o =>
    if o.started ∨ o.expect ≠ [] then s
    else
      let o := { o with started := true, parts := numbered 0 (o.segs.flatMap (segParts o.dir o.len)) }
      hodNone { s with hops := tput s.hops op o } op

/-- A wave that retires is expected no more (R204). -/
def hodLeave (s : State) (wave : Nat) : State :=
  (tkeys s.hops).foldl (fun s i => hodStart { s with hops := tupd s.hops i fun o =>
    { o with expect := o.expect.filter (· != wave) } } i) s

/-! ## CPY (R202, R203, R362, R363) -/

/-- The first local address of a list whose bytes are not all in the gang's local memory: engines do not reach the
residual window (R362). -/
def hodRange (size len : Nat) (xs : List (Bool × Nat)) : Option Nat :=
  (xs.find? fun x => x.1 && decide (size < x.2 + len)).map (·.2)

/-- The checks 2 to 6 of R362 on a slice, in order: a trap code and its info. -/
def cpyCheck (s : State) (c : Ctx) (dir : CpyDir) (len : Nat) (h : Option Nat) (readers : Nat) (g : Grp)
    (segs : List Seg) : Option (Nat × Nat) :=
  let size := localSize s (s.teamOf c.w).gang
  let range := match h with
    | none => none
    | some n => if (s.gridOf c.w).handles ≤ n then some n else none
  match range with
  | some n => some (13, n)
  | none =>
    match (segs.flatMap fun x => [x.src, x.dst]).find? fun a => a % 16 != 0 with
    | some a => some (3, a)
    | none =>
      match hodRange size len (segs.flatMap fun x => [(!cpySrcGlob dir, x.src), (!cpyDstGlob dir, x.dst)]) with
      | some a => some (4, a)
      | none =>
        match joinOp s c.id c.w g with
        | some (_, o) =>
          if o.dir = dir ∧ o.len = len ∧ o.handle = h ∧ (h.isNone ∨ o.readers = readers) then none
          else some (15, h.getD 0xFF)
        | none => match h with
          | none => none
          | some n =>
            let x := handleOf (s.teamOf c.w) n
            if x.st = .free then none else some (14, n + 256 * hstateCode x.st)

/-- The slice joins its operation, or begins it (R202). -/
def cpySupply (s : State) (c : Ctx) (dir : CpyDir) (len : Nat) (h : Option Nat) (readers : Nat) (g : Grp)
    (segs : List Seg) : Nat × State :=
  let pts := segs.foldl (fun m x => max m (lanePts s c.w.core c.id x.lane)) (s.core c.w.core).pts
  let s1 := s.updTeam c.w.team fun t =>
    { t with joined := tput t.joined (4 * c.id + grpCode g) ((s.team c.w.team).copies c.id g + 1) }
  match joinOp s c.id c.w g with
  | some (i, o) =>
    (i, { s1 with hops := tput s1.hops i { o with segs := o.segs ++ segs, expect := o.expect.filter (· != c.id),
                                                  pts := max o.pts pts } })
  | none =>
    let (i, s1) := s1.newId
    let o : HodOp :=
      { cluster := coreCluster c.w.core, team := c.w.team, grp := g, seq := (s.team c.w.team).copies c.id g, dir := dir,
        len := len, handle := h, readers := readers, segs := segs,
        expect := (grpWaves s c.id c.w g).filter (· != c.id), started := false, parts := [], gather := none, status := 0,
        t := 0, pts := pts }
    (i, fillHandle { s1 with hops := tput s1.hops i o } c.w.team h readers i)

/-- CPY (R361 to R363). A slice stalls while the Hod holds 64 operations, also one that joins an operation (R363). -/
def execCpy (hd : Hdr) (a b : Src) (len : BitVec 8) (hnd : BitVec 6) (hen : Bool) (rcnt : BitVec 5) (dir : CpyDir)
    (grp : Grp) (s : State) : Out :=
  .next (issueWide s hd (useOf (.cpy hd a b len hnd hen rcnt dir grp)) (uses []) false (fun _ => BitVec.allOnes 32) fun c s =>
    let addr := fun (glob : Bool) (x : Src) (l : Nat) =>
      if glob then (rd64 s c.w l x).toNat else (rd32 s c.w l x).toNat
    let segs := (lanesOf c.E).map fun l =>
      { wave := c.id, lane := l, src := addr (cpySrcGlob dir) a l, dst := addr (cpyDstGlob dir) b l : Seg }
    let L := 16 * (len.toNat + 1)
    let h := if hen then some hnd.toNat else none
    let R := rcnt.toNat + 1
    match cpyCheck s c dir L h R grp segs with
    | some (code, info) => trapCtx s c code info
    | none =>
      if lanesBusy s c.id c.E ∨ peerBusy s c.id c.E ∨ 63 ≤ classCount c.w .copy ∨ 64 ≤ hodCount s (coreCluster c.w.core) then s
      else
        let r := cpySupply s c dir L h R grp segs
        let t : Touch :=
          { loc := !cpySrcGlob dir || !cpyDstGlob dir, glob := cpySrcGlob dir || cpyDstGlob dir, grph := false }
        hodStart (finishNext r.2 c hd (addOp c.w c r.1 .copy t [])) r.1)

/-! ## GGATH (R205, R206, R365, R366) -/

/-- Parts that write given bytes at a destination. -/
def bytesParts (wave lane dst : Nat) (loc : Bool) (bs : List Byte) : List HPart :=
  (List.range ((bs.length + 15) / 16)).map fun i =>
    { wave := wave, lane := lane, src := none, dst := dst + 16 * i, srcLoc := false, dstLoc := loc,
      bytes := (bs.drop (16 * i)).take 16, waits := none }

/-- What a lane that failed writes (R206): P is zero for a graph that is not live. -/
def failBytes (mode : GMode) (psize len : Nat) : List Byte :=
  match mode with
  | .edge => natBytes 0xFFFFFFFF 16
  | .vpay => natBytes 0 psize
  | .block => natBytes 0 len

/-- Bytes that a mode writes at each destination (Table 10-1). -/
def modeLen (mode : GMode) (psize len : Nat) : Nat :=
  match mode with
  | .edge => 16
  | .vpay => psize
  | .block => len

/-- The checks of R362 on a gather. -/
def ggathCheck (s : State) (c : Ctx) (h : Option Nat) (loc : Bool) (n : Nat) (dsts : List Nat) : Option (Nat × Nat) :=
  let range := match h with
    | none => none
    | some n => if (s.gridOf c.w).handles ≤ n then some n else none
  match range with
  | some n => some (13, n)
  | none =>
    match dsts.find? fun a => a % 16 != 0 with
    | some a => some (3, a)
    | none =>
      match hodRange (localSize s (s.teamOf c.w).gang) n (dsts.map fun a => (loc && (n ≠ 0 || windowBase ≤ a), a)) with
      | some a => some (4, a)
      | none => match h with
        | none => none
        | some n =>
          let x := handleOf (s.teamOf c.w) n
          if x.st = .free then none else some (14, n + 256 * hstateCode x.st)

/-- The snapshot of a gather on a live graph, registered (R92): the slot, its S and the state, or none when the table is
full. -/
def gatherSnap (s : State) (part gid pts : Nat) (g : Graph) : Option (Nat × Nat × State) :=
  let snap := max pts g.h
  match snapAdd (s.part part).snaps gid snap with
  | none => none
  | some (slot, snaps) => some (slot, snap, s.updPart part fun p => { p with snaps := snaps })

/-- GGATH. A graph that is not live, which is a read of the graph table's entry at S (R349), or a full snapshot table leaves no
rank to resolve. -/
def execGgath (hd : Hdr) (d : BitVec 7) (g : GidSrc) (a b c : Src) (mode : GMode) (loc : Bool) (dir : Dir) (s : State) : Out :=
  .next (issue s hd (useOf (.ggath hd d g a b c mode loc dir)) fun x =>
    let pw := (x.w.wget d.toNat).toNat
    let len := 16 * (bits pw 31 24 + 1)
    let h := if pw.testBit 18 then some (bits pw 17 12) else none
    let lanes := (lanesOf x.E).map fun l =>
      { lane := l, waits := none, u := (rd32 s x.w l a).toNat, n := (rd32 s x.w l b).toNat,
        dst := if loc then (rd32 s x.w l c).toNat else (rd64 s x.w l c).toNat : GLane }
    let p := s.partNo x.w
    let gid := gidVal x.w g
    let gr := tget (s.part p).graphs gid
    let psize := match gr with
      | none => 0
      | some q => q.psize
    if x.E = 0 then finishNext s x hd x.w
    else match ggathCheck s x h loc (modeLen mode psize len) (lanes.map (·.dst)) with
    | some (code, info) => trapCtx s x code info
    | none =>
      let cl := coreCluster x.w.core
      if lanesBusy s x.id x.E ∨ peerBusy s x.id x.E ∨ 63 ≤ classCount x.w .gather ∨ 64 ≤ hodCount s cl then s
      else
        let pts := lanes.foldl (fun m l => max m (lanePts s x.w.core x.id l.lane)) (s.core x.w.core).pts
        let o : HodOp :=
          { cluster := cl, team := x.w.team, grp := .wave, seq := 0, dir := .g2g, len := len, handle := h,
            readers := bits pw 11 7 + 1, segs := [], expect := [], started := true, parts := [], gather := none, status := 0,
            t := 0, pts := pts }
        let t : Touch := { loc := loc, glob := !loc || mode == .block, grph := true }
        let dead := match gr with
          | none => true
          | some q => !q.liveAt (max pts q.h)
        let (i, s) := s.newId
        let go := fun (s : State) (o : HodOp) =>
          hodNone (finishNext (fillHandle { s with hops := tput s.hops i o } x.w.team h o.readers i) x hd
            (addOp x.w x i .gather t [])) i
        let no : GatherSt :=
          { wave := x.id, gid := gid, dir := dir, mode := mode, loc := loc, snap := 0, slot := 16384, off := 8 * bits pw 23 19,
            todo := [], fails := [] }
        match dead, gr with
        | false, some q =>
          match gatherSnap s p gid pts q with
          | none => go s { o with gather := some { no with fails := [(0, 10)] } }
          | some (slot, snap, s) =>
            go s { o with pts := snap, gather := some { no with snap := snap, slot := slot, todo := lanes } }
        | _, _ =>
          let parts := lanes.flatMap fun l => bytesParts x.id l.lane l.dst loc (failBytes mode 0 len)
          let at_ := max pts ((gr.map (·.h)).getD 0)
          go (if gid < 65536 then gtabRead s p gid at_ else s) { o with parts := numbered 0 parts, gather := some { no with fails := lanes.map fun l => (l.lane, 1) } })

/-- Put parts behind those that an operation has. -/
def addParts (o : HodOp) (ps : List HPart) : HodOp :=
  { o with parts := o.parts ++ numbered (match o.parts.getLast? with
      | none => 0
      | some e => e.1 + 1) ps }

/-- Resolve one lane: its parts, the status of its failure, the greatest timestamp of its reads, and the graph with
their timestamps (R89, R205, R206, R366). A vertex that is free at S is found so by a read of its list, and the allocator is
not read: the manual does not say (DESIGN CHOICE, log entry 63). -/
def resolveLane (g : Graph) (o : HodOp) (k : GatherSt) (l : GLane) : List HPart × Option Nat × Nat × Graph :=
  let lst := g.list l.u k.dir
  let g1 := if l.u < g.vcap then g.setList l.u k.dir { lst with rts := max lst.rts k.snap } else g
  let out := fun bs => bytesParts k.wave l.lane l.dst k.loc bs
  let bad := fun (st : Nat) (g : Graph) (t : Nat) => (out (failBytes k.mode g.psize o.len), some st, t, g)
  match (lst.asOf k.snap)[l.n]? with
  | none => bad (if (g.vtx l.u).allocAt k.snap then 4 else 2) g1 k.snap
  | some e =>
    match k.mode with
    | .edge => (out (natBytes e.other 4 ++ natBytes e.flags.toNat 4 ++ natBytes e.pay.toNat 8), none, k.snap, g1)
    | .vpay =>
      if g.psize = 0 then ([], none, k.snap, g1)
      else
        let r := gLdPay g1 k.snap e.other
        (out ((g.vtx e.other).rdPay 0 g.psize), none, r.1, r.2)
    | .block =>
      if g.psize < k.off + 8 then bad 8 g1 k.snap
      else
        let r := gLdPay g1 k.snap e.other
        let A := bytesNat ((g.vtx e.other).rdPay k.off 8)
        if A % 16 ≠ 0 then bad 8 r.2 r.1
        else
          ((List.range (o.len / 16)).map fun i =>
            { wave := k.wave, lane := l.lane, src := some (A + 16 * i), dst := l.dst + 16 * i, srcLoc := false,
              dstLoc := k.loc, bytes := [], waits := none }, none, r.1, r.2)
where
  /-- The read of a payload at or above a snapshot (R206). -/
  gLdPay (g : Graph) (pts v : Nat) : Nat × Graph :=
    let x := g.vtx v
    let t := max pts x.pwts
    (t, g.setVtx v { x with prts := max x.prts t })

/-- Whether an operation goes on: its team is resident (R210, R211). -/
def hodRuns (s : State) (o : HodOp) : Bool :=
  o.started && (s.team o.team).life == .resident && !(s.team o.team).stopped

/-! ## Faults of an operation (R41, R442) -/

/-- An operation in a wave's classes, and the program counter and the active lanes of its instruction there (R38). -/
def opOf (s : State) (wave op : Nat) : Option AOp := (s.wave wave).ops.find? (·.id == op)
def opPc (s : State) (wave op : Nat) : DWord := ((opOf s wave op).map (·.pc)).getD 0
def opLanes (s : State) (wave op : Nat) : LaneSet := ((opOf s wave op).map (·.lanes)).getD 0

/-- Whether some part, or some lane to resolve, of a wave waits for a page already. -/
def hodKnown (o : HodOp) (wave key : Nat) : Bool :=
  (o.parts.any fun e => e.2.wave == wave && e.2.waits == some key) || (match o.gather with
    | none => false
    | some k => k.todo.any fun l => l.waits == some key)

/-- The record of a page that faults, against the wave that supplied it: once for each page of one wave and operation. -/
def hodRecord (s : State) (op : Nat) (o : HodOp) (wave key : Nat) (word : DWord) : State :=
  if hodKnown o wave key then s
  else recordFault s (clusterDie o.cluster)
    { waveRec s wave (s.wave wave) (opPc s wave op) (opLanes s wave op) with pages := [word], hod := some op } [key]

/-- A translation fault of a part (R41), which waits. `va` is the address that faults. -/
def hodFault (s : State) (op idx : Nat) (o : HodOp) (p : HPart) (va : Nat) (word : DWord) : State :=
  let key := pageKey (va / 65536) word
  hodRecord { s with hops := tput s.hops op { o with parts := tput o.parts idx { p with waits := some key } } } op o p.wave key word

/-- A lane of a gather whose rank stands at an engine that is offline waits too (R360, R442). -/
def laneFault (s : State) (op : Nat) (o : HodOp) (k : GatherSt) (l : GLane) (va code : Nat) : State :=
  let word := pageWord va code 8 .read
  let key := pageKey (va / 65536) word
  let todo := k.todo.map fun x => if x.lane == l.lane then { x with waits := some key } else x
  hodRecord { s with hops := tput s.hops op { o with gather := some { k with todo := todo } } } op o k.wave key word

/-- Whether the page of a word is the one for which something waits. -/
def freesKey (word : DWord) (key : Nat) : Bool :=
  (word.toNat / 2 ^ 10 % 16 == 4) == decide (2 ^ 40 ≤ key) && wordCovers word (key % 2 ^ 40)

/-- The parts and lanes of an operation that wait for pages go on (R41). -/
def hodRelease (s : State) (op : Nat) (words : List DWord) : State :=
  let free := fun w : Option Nat => w.filter fun k => !(words.any fun x => freesKey x k)
  { s with hops := tupd s.hops op fun o =>
      { o with parts := tmap o.parts fun _ p => { p with waits := free p.waits },
               gather := o.gather.map fun k => { k with todo := k.todo.map fun l => { l with waits := free l.waits } } } }

/-! ## GATHER_RANK_RESOLVE -/

/-- The engines that a lane needs, with the page of what each owns: those of the list and, where the mode reads one, of the
payload of its end. -/
def rankOwners (g : Graph) (k : GatherSt) (l : GLane) : List (Nat × Nat × Nat) :=
  if g.vcap ≤ l.u then []
  else g.place (some l.u) :: (match ((g.list l.u k.dir).asOf k.snap)[l.n]? with
    | none => []
    | some e => if k.mode = .edge then [] else [g.place (some e.other)])

/-- GATHER_RANK_RESOLVE (R205, R366). -/
def execGatherRankResolve (op ln : Nat) (s : State) : Out :=
  .next (match tget s.hops op with
    | none => s
    | some o => match o.gather with
      | none => s
      | some k =>
        match k.todo.find? fun l => l.lane == ln && l.waits.isNone, hodRuns s o with
        | some l, true =>
          let p := (s.gang (s.team o.team).gang).part
          match tget (s.part p).graphs k.gid with
          | none => s
          | some g =>
            match (rankOwners g k l).find? fun x => homeOffline s x.1 with
            | some x => laneFault s op o k l x.2.1 x.2.2
            | none =>
              let r := resolveLane g o k l
              if s.ceil < r.2.2.1 then s
              else
                let k := { k with todo := k.todo.filter (·.lane != ln),
                                  fails := match r.2.1 with
                                    | none => k.fails
                                    | some st => k.fails ++ [(ln, st)] }
                let o := addParts { o with gather := some k, t := max o.t r.2.2.1 } r.1
                setGraph { s with hops := tput s.hops op o } p k.gid r.2.2.2
        | _, _ => s)

/-! ## Translation of a part (R27, R30, R41, R201) -/

/-- The check of a leaf for a part: a gather may reach graph-backing pages of HBM that are no memory-side pages, where R, W and
X are not checked (R27, R48). -/
def hodAccess (o : HodOp) (e : TlbEnt) (a : Access) : Option Nat :=
  if e.gb ∧ o.gather.isSome then (if e.tier = 0 ∧ ¬ e.ms then none else some 5) else accessFault e a

/-- Translate one address of a part through the cluster TLB and the last level; a miss joins the walks. -/
def hodXlat (s : State) (op idx : Nat) (o : HodOp) (va : Nat) (a : Access) : State × Xlat :=
  let core := (s.team o.team).core
  let (part, pasid) := hodSpace s o
  if va / 2 ^ 56 ≠ 0 then (s, .fault (pageWord va 3 4 a))
  else
    let p := fun e : TlbEnt => e.hits part pasid va
    let hit := match (s.cluster o.cluster).tlb.find? p with
      | some e => some e
      | none => (s.die (clusterDie o.cluster)).tlb.find? p
    let ask := fun s => if clusterMisses s core < 32 then (queueMiss s core part pasid va (.hod op idx, a), Xlat.miss) else (s, .miss)
    match hit with
    | none => ask s
    | some e =>
      if (hodAccess o e a).isNone then (fillOuter s o.cluster e, .ok (e.pa + (va - e.va)) e) else ask (dropEnt s core e)

/-! ## Performing a part (R146, R204, R364) -/

/-- A local access of an engine, which does not move the core's pts at once (R109, R143). -/
def hodLocal (s : State) (gang o pts : Nat) : State × Nat :=
  let g := s.gang gang
  let t := max pts (g.ltOf (o / 256))
  (s.setGang gang { g with lt := tput g.lt (o / 256) t }, t)

/-- What a part's read gives. -/
inductive HRead where
  | ok (s : State) (bs : List Byte) (t : Nat)
  | bad (pa : Nat)
  | wait
  deriving DecidableEq, Repr

/-- Read sixteen bytes at a home. A graph-backing page reads as free values (log entry 2). -/
def hodRead (s : State) (o : HodOp) (pa : Nat) (e : TlbEnt) : HRead :=
  match homeReadAt s (homeOf pa e.ms) pa 16 o.pts (some (s.part e.part).regs.lease) none 0 with
  | .error _ => .wait
  | .ok (s, r) =>
    if r.bad then .bad pa
    else if e.gb then
      let (a, s) := s.free
      let (b, s) := s.free
      .ok s (natBytes a.toNat 8 ++ natBytes b.toNat 8) r.t
    else .ok s r.data r.t

/-- The partition of an operation. -/
def hodPart (s : State) (op : Nat) : Nat :=
  match tget s.hops op with
  | none => 0
  | some o => (s.gang (s.team o.team).gang).part

/-- A part has been performed at a timestamp. -/
def partDone (s : State) (op idx t : Nat) : State :=
  (s.updHop op fun o => { o with parts := tdel o.parts idx, t := max o.t t }).stir (hodPart s op)

/-- The write of a part's bytes, after its read at `t`. -/
def hodWrite (s : State) (op idx : Nat) (o : HodOp) (p : HPart) (dst : Option (Nat × TlbEnt)) (bs : List Byte) (t : Nat) :
    Option State :=
  match dst with
  | none =>
    let gang := (s.team o.team).gang
    let r := hodLocal s gang p.dst o.pts
    let g := r.1.gang gang
    some (partDone (r.1.setGang gang { g with loc := locPutAll g.loc p.dst bs, badLoc := g.unmark p.dst bs.length }) op idx
      (max t r.2))
  | some (pa, e) =>
    let home := homeOf pa e.ms
    if writeWaits s home pa then none
    else match homeWriteAt s home pa o.pts bs none 0 with
      | .error _ => none
      | .ok (s, t2) => some (partDone s op idx (max t t2))

/-- A request of a part to a peer (R124, R151): its reply is the peer's acknowledgement, and its serial numbers are those
of the operation and the part. -/
def hodPeer (s : State) (op idx : Nat) (o : HodOp) (kind : ReqKind) (pa va : Nat) : State :=
  if s.reqs.any fun e => e.2.flight == op && e.2.lane == idx then s
  else
    sendReq s { kind := kind, core := (s.team o.team).core, wave := op, part := (hodSpace s o).1, gen := 0,
                agen := (s.die (clusterDie o.cluster)).gen, lane := idx, flight := op, pa := pa, va := va, size := 16, home := homeOf pa false, l1 := 0, hhint := 0,
                token := none, orphan := true, armed := false, held := none, low := 0, acks := 0, got := [] } false

/-- The write of a part whose destination lies in a peer, which becomes a request to it. -/
def hodToPeer (s : State) (op idx : Nat) (o : HodOp) (p : HPart) (dst : Option (Nat × TlbEnt)) (bs : List Byte) (t : Nat) :
    Option State :=
  match dst with
  | none => none
  | some (pa, e) =>
    if 1024 ≤ homeOf pa e.ms then
      some (hodPeer (s.updHop op fun o =>
        { o with parts := tupd o.parts idx fun p => { p with src := none, bytes := bs }, t := max o.t t }) op idx o
        (.write bs) pa p.dst)
    else none

/-- The write of a part whose bytes have been read, in state `s0` where it waits. -/
def hodPut (s0 s : State) (op idx : Nat) (o : HodOp) (p : HPart) (dst : Option (Nat × TlbEnt)) (bs : List Byte) (t : Nat) :
    State :=
  match hodToPeer s op idx o p dst bs t with
  | some s => s
  | none => match hodWrite s op idx o p dst bs t with
    | some s => s
    | none => s0

/-- A part whose addresses are translated: read, then write, at the operation's pts. Data that holds an uncorrectable error is
consumed by the team (R443). -/
def hodMove (s : State) (op idx : Nat) (o : HodOp) (p : HPart) (src dst : Option (Nat × TlbEnt)) : State :=
  match p.src, src with
  | none, _ => hodPut s s op idx o p dst p.bytes 0
  | some a, none =>
    let gang := (s.team o.team).gang
    if (s.gang gang).badAt a 16 then coreTrap s p.wave 3
    else
      let r := hodLocal s gang a o.pts
      hodPut s r.1 op idx o p dst ((s.gang gang).rdLoc a 16) r.2
  | some a, some (pa, e) =>
    if 1024 ≤ homeOf pa e.ms then hodPeer s op idx o (.read none) pa a
    else match hodRead s o pa e with
      | .wait => s
      | .bad pa => storageTrap s p.wave pa
      | .ok s1 bs t => hodPut s s1 op idx o p dst bs t

/-- HOD_PART: one part of an operation (R204, R364). Its global addresses are translated; a fault, or an offline home,
is recorded and the part waits. -/
def execHodPart (op idx : Nat) (s : State) : Out :=
  .next (match tget s.hops op with
    | none => s
    | some o =>
      match tget o.parts idx, hodRuns s o with
      | some p, true =>
        if p.waits.isSome then s
        else
          let src := match p.src with
            | none => none
            | some a => if p.srcLoc then none else some a
          let one := fun (s : State) (va : Option Nat) (a : Access) => match va with
            | none => (s, (none : Option Xlat))
            | some v => let r := hodXlat s op idx o v a; (r.1, some r.2)
          let r1 := one s src .read
          let r2 := one r1.1 (if p.dstLoc then none else some p.dst) .write
          let word := fun (x : Option Xlat) (va : Nat) (a : Access) => match x with
            | some (.fault w) => some w
            | some (.ok pa e) => if homeOffline s (homeOf pa e.ms) then some (pageWord va e.code 8 a) else none
            | _ => none
          let leaf := fun x : Option Xlat => match x with
            | some (.ok pa e) => some (pa, e)
            | _ => none
          match word r1.2 (src.getD 0) .read, word r2.2 p.dst .write with
          | some w, _ => hodFault s op idx o p (src.getD 0) w
          | none, some w => hodFault s op idx o p p.dst w
          | none, none =>
            if r1.2 = some .miss ∨ r2.2 = some .miss then r2.1
            else hodMove s op idx o p (leaf r1.2) (leaf r2.2)
      | _, _ => s)

/-! ## Completion (R153, R204, R206, R208) -/

/-- HOD_OPERATION_COMPLETE: every part has been performed and every rank resolved. -/
def execHodOperationComplete (op : Nat) (s : State) : Out :=
  .next (match tget s.hops op with
    | none => s
    | some o => if hodRuns s o && o.empty then hodEnd s op o else s)

end Sys2Proof.Machine
end

