-- ==== Sys2Proof/Machine/Walks.lean ====
section
/-! DEFINITION. Page walks, invalidations and the fault ring's pointers (R25 to R42). -/

namespace Sys2Proof.Machine

/-! ## PAGE_WALK (R25, R30 to R38) -/

/-- The waiters of a page whose walk has ended: one whose access fails takes the page word of its cause (R33, R35). -/
def walkEnd (r : Walk) (va : Nat) (fails : TlbEnt → Option Nat) (a : Access) : Option DWord :=
  match r with
  | .fault cause size => some (pageWord va size cause a)
  | .leaf e => (fails e).map fun cause => pageWord va e.code cause a

/-- A wave whose page has faulted notes the page word of it. -/
def noteWord (s : State) (id va : Nat) (word : DWord) : State :=
  s.updWave id fun w =>
    { w with xfault := if w.xfault.any (·.1 == va / 65536) then w.xfault else w.xfault ++ [(va / 65536, word)] }

/-- A wave that waited for a walk finds its leaf in the TLBs, or notes the fault. -/
def walkWave (r : Walk) (va : Nat) (s : State) (id : Nat) (a : Access) : State :=
  let s := match r with
    | .leaf e => if (tget s.waves id).isSome then fillTlbs s (s.wave id).core e else s
    | .fault .. => s
  match walkEnd r va (fun e => accessFault e a) a with
  | none => s
  | some word => noteWord s id va word

/-- One waiter. -/
def walkWaiter (r : Walk) (va : Nat) (s : State) (x : Waiter × Access) : State :=
  match x.1 with
  | .wave id => walkWave r va s id x.2
  | .pref id => walkWave r va s id x.2
  | .hod op idx =>
    match tget s.hops op with
    | none => s
    | some o =>
      let s := match r with
        | .leaf e => fillOuter s o.cluster e
        | .fault .. => s
      match walkEnd r va (fun e => hodAccess o e x.2) x.2, tget o.parts idx with
      | some word, some p => hodFault s op idx o p va word
      | _, _ => s

/-- The waves among the waiters whose last walk this was are suspended if a page of theirs has faulted (R35, R36). -/
def walkFaults (xs : List (Waiter × Access)) (s : State) : State :=
  xs.foldl (fun s x => match x.1 with
    | .wave id => if (tget s.waves id).isSome ∧ (s.wave id).susp = .none then faultIfDone s id else s
    | .pref _ => s
    | .hod .. => s) s

/-- PAGE_WALK: a walker of a die ends the walk of the page at this place of the queue; the first 64 are being walked. -/
def execPageWalk (die idx : Nat) (s : State) : Out :=
  .next (
    let d := s.die die
    match d.queue[idx]? with
    | none => s
    | some m =>
      if 64 ≤ idx then s
      else
        let r := walk s die m.part m.pasid m.va
        let s := r.1.updDie die fun d =>
          { d with queue := d.queue.eraseIdx idx, walks := (r.2.2 ++ d.walks.filter fun e => !r.2.2.contains e).take 256 }
        walkFaults m.waiters (m.waiters.foldl (walkWaiter r.2.1 m.va) s))

/-! ## Invalidation (R34) -/

/-- A command to TLB_INV: refused while one runs. -/
def tlbInv (s : State) (part scope pasid vpn : Nat) : State :=
  let p := s.part part
  if (tget s.parts part).isNone then s
  else if p.regs.tlbBusy then s.setPart part { p with regs := { p.regs with tlbErr := true } }
  else s.setPart part { p with regs := { p.regs with tlbBusy := true }, inval := some (scope, pasid, vpn) }

/-- TLB_INV of one page: a write of the host, as the two below, which the watchdog counts as progress (R444). -/
def execTlbInvPage (part : Nat) (pasid : BitVec 20) (vpn : BitVec 40) (s : State) : Out :=
  .next (tlbInv (s.stir part) part 0 pasid.toNat vpn.toNat)

/-- TLB_INV of one PASID. -/
def execTlbInvPasid (part : Nat) (pasid : BitVec 20) (s : State) : Out := .next (tlbInv (s.stir part) part 1 pasid.toNat 0)

/-- TLB_INV of the whole partition. -/
def execTlbInvPartition (part : Nat) (s : State) : Out := .next (tlbInv (s.stir part) part 2 0 0)

/-- Whether an address lies in the scope of an invalidation: for one page, in that page or in a cached larger one that
holds it. -/
def invHits (s : State) (part scope pasid vpn p va : Nat) : Bool :=
  let shared := fun t : List TlbEnt => t.any fun e => invMatch e part scope pasid vpn && e.hits part p va
  scope == 2 || (p == pasid && (scope == 1 || va / 65536 == vpn || s.cores.any (fun c => shared c.2.tlb) ||
    s.clusters.any (fun c => shared c.2.tlb) || s.dies.any fun d => shared d.2.tlb))

/-- Whether an access that may have used a matching translation is still to be performed. A lane's request shows its
address, and so does a saved packet, which keeps the frame that it found (R435); accumulates and requests of engines count whatever page they reached. -/
def invPending (s : State) (part scope pasid vpn : Nat) : Bool :=
  let p := fun w => (s.gridOf (s.wave w)).pasid
  (s.reqs.any fun r => r.2.part == part &&
      ((tget s.waves r.2.wave).isNone || invHits s part scope pasid vpn (p r.2.wave) r.2.va)) ||
    (s.waves.any fun w => s.partNo w.2 == part &&
      w.2.packets.any fun k => invHits s part scope pasid vpn (p w.1) k.req.va) ||
    (s.clusters.any fun c => (c.2.comb.any fun e => e.2.key.part == part) || c.2.resid.any fun e => e.2.key.part == part) ||
    s.areqs.any fun a => a.2.key.part == part

/-- TLB_INV_COMPLETE: no access that used a matching translation is left, the translations go, BUSY reads 0. -/
def execTlbInvComplete (part : Nat) (s : State) : Out :=
  .next (match (s.part part).inval with
    | none => s
    | some (scope, pasid, vpn) =>
      if invPending s part scope pasid vpn then s
      else
        let s := invalidate s part scope pasid vpn
        s.updPart part fun p => { p with regs := { p.regs with tlbBusy := false }, inval := none })

/-! ## FAULT_PTRS (R40) -/

/-- A write to FAULT_PTRS: TAIL takes bits 63:32, and held records are written as ring entries free. -/
def faultPtrs (s : State) (part : Nat) (value : DWord) : State :=
  if (tget s.parts part).isNone then s
  else
    let s := s.updPart part fun p => { p with regs := { p.regs with fTail := value.toNat / 2 ^ 32 } }
    drainHeld part ((s.part part).heldF.length + 1) s

end Sys2Proof.Machine
end

