-- ==== Sys2Proof/Machine/Roller.lean ====
section
/-! DEFINITION. The Rollers: streams, descriptors, tiles and the Roller words (R212 to R220, R243, R244, R369 to R380). -/

namespace Sys2Proof.Machine

/-! ## Starting and ending a stream (R213, R218, R369, R370) -/

/-- The oldest waiting MSTART of a team begins to fetch when no stream runs and none is fetched. -/
def nextStream (s : State) (t : Nat) : State :=
  let x := s.team t
  match x.stream, x.mfetch, x.mqueue with
  | none, none, f :: fs => (s.updTeam t fun x => { x with mfetch := some f, mqueue := fs }).updWave f.wave fun w => { w with blocked := .mfetch }
  | _, _, _ => s

/-- A stream ends: the Roller is expected at no barrier any more, and the next MSTART goes on. -/
def endStream (s : State) (t : Nat) : State :=
  nextStream (recheckBars (s.updTeam t fun x => { x with stream := none }) t) t

/-- MSTART (R213, R361, R362, R369): its operands are those of the lowest lane of E. -/
def execMstart (hd : Hdr) (a b : Src) (count : BitVec 8) (mask : BitVec 16) (s : State) : Out :=
  .next (issue s hd (useOf (.mstart hd a b count mask)) fun c =>
    let l := firstLane c.E
    let addr := rd64 s c.w l a
    let table := (rd32 s c.w l b).toNat
    if c.E = 0 then finishNext s c hd c.w
    else if ¬ (s.gridOf c.w).mat then trapCtx s c 2 0xB5
    else if addr.toNat % 4 ≠ 0 then trapCtx s c 3 addr.toNat
    else if table % 16 ≠ 0 then trapCtx s c 3 table
    else
      let f : MFetch := { addr := addr, wave := c.id, count := count.toNat + 1, table := table, mask := mask }
      let s := block s c hd c.w .mstart
      nextStream (s.updTeam c.w.team fun x => { x with mqueue := x.mqueue ++ [f] }) c.w.team)

/-- MSTOP (R370): a word is one step, so the stream stands at a boundary and ends at once. -/
def execMstop (hd : Hdr) (s : State) : Out :=
  .next (issue s hd (useOf (.mstop hd)) fun c =>
    if c.E = 0 then finishNext s c hd c.w
    else if ¬ (s.gridOf c.w).mat then trapCtx s c 2 0xB6
    else
      let s1 := finishNext s c hd c.w
      match (s.team c.w.team).stream with
      | none => s1
      | some st => raisePts (endStream s1 c.w.team) c.w.core st.t)

/-! ## Fetching an instruction's bytes (R24, R58, R64, R147) -/

/-- Why a fetch gives no bytes now: the ceiling holds it, its home is offline, the L1's copy holds an error, or memory does. -/
inductive NoFetch where
  | held
  | offline
  | copy
  | line (pa : Nat)
  deriving DecidableEq, Repr

/-- A run of bytes of one page that is fetched: its virtual and physical address, its length and its leaf. -/
structure FRun where
  va : Nat
  pa : Nat
  n  : Nat
  e  : TlbEnt
  deriving DecidableEq, Repr

/-- Bytes that a peer holds: the next free values (log entry 35). -/
def freeBytes (s : State) (n : Nat) : List Byte := (List.range n).map fun i => (Config.freeValue (s.freeCtr + i)).setWidth 8

/-- The fetch of bytes of one line: a valid copy serves it, and otherwise the home reads the line under a lease and the L1 keeps
the copy (R58, R64). It moves no pts (R147). -/
def fetchLine (s : State) (core wave part pa n : Nat) (ms : Bool) : State × Except NoFetch (List Byte) :=
  let home := homeOf pa ms
  let line := pa / 128
  let pts := (s.core core).pts
  if 1024 ≤ home then ({ s with freeCtr := s.freeCtr + n }, .ok (freeBytes s n))
  else match l1Hit s core line pts with
  | some (cp, _) =>
    let (i, s) := s.newId
    if cp.bad then (s, .error .copy)
    else (s.updCore core fun k => { k with l1 := tput k.l1 line { cp with last := i } }, .ok ((cp.data.drop (pa % 128)).take n))
  | none =>
    if homeOffline s home then (s, .error .offline)
    else
      let s := victimHit s core line
      let renew := (tget (s.core core).l1 line).map (·.wts)
      match homeReadAt s home pa n pts (some (s.part part).regs.lease) renew 0 with
      | .error _ => (s, .error .held)
      | .ok (s, o) =>
        if o.bad then (s, .error (.line pa))
        else if o.line = [] then (s, .ok o.data)
        else
          let (i, s) := s.newId
          (l1Fill s core wave line { bad := false, wts := o.wts, rts := o.rts, data := o.line, pref := false, last := i, hint := 0 },
            .ok o.data)

/-- The fetch of bytes of one page, line by line. -/
def fetchRun (core wave part : Nat) (ms : Bool) : Nat → Nat → Nat → State → State × Except NoFetch (List Byte)
  | 0, _, _, s => (s, .ok [])
  | fuel + 1, pa, n, s =>
    let k := min n (128 - pa % 128)
    match fetchLine s core wave part pa k ms with
    | (s, .error x) => (s, .error x)
    | (s, .ok bs) =>
      if n ≤ k then (s, .ok bs)
      else match fetchRun core wave part ms fuel (pa + k) (n - k) s with
        | (s, .ok cs) => (s, .ok (bs ++ cs))
        | r => r

/-- The fetch of the bytes of some runs. -/
def fetchRuns (core wave part : Nat) : List FRun → State → State × Except NoFetch (List Byte)
  | [], s => (s, .ok [])
  | x :: xs, s =>
    match fetchRun core wave part x.e.ms (x.n / 128 + 2) x.pa x.n s with
    | (s, .error x) => (s, .error x)
    | (s, .ok bs) => match fetchRuns core wave part xs s with
      | (s, .ok cs) => (s, .ok (bs ++ cs))
      | r => r

/-- The faults of runs whose homes are offline (R442). -/
def offlineRuns (s : State) (xs : List FRun) : List (Nat × DWord) :=
  (xs.filter fun x => homeOffline s (homeOf x.pa x.e.ms)).map fun x => (x.va / 65536, pageWord x.va x.e.code 8 .fetch)

/-- A fetch that gives no bytes: a held one is tried again from the state before it, an offline home suspends the wave at the
instruction, and an error in the bytes traps its team (R443). -/
def noFetch (s0 s : State) (id : Nat) (w : Wave) (pc : DWord) (xs : List FRun) : NoFetch → State
  | .held => s0
  | .offline => faultWave s0 id pc (w.pathAt pc) (offlineRuns s0 xs)
  | .copy => coreTrap s id 2
  | .line pa => storageTrap s id pa

/-- The 96-bit words of a byte list. -/
def bytesWords96 : Nat → List Byte → List Word96
  | 0, _ => []
  | n + 1, bs => BitVec.ofNat 96 (bytesNat (bs.take 12)) :: bytesWords96 n (bs.drop 12)

/-- The team that a core's Roller serves: the one that asked for matrix use (R212). -/
def rollerTeam (s : State) (core : Nat) : Option (Nat × Team) :=
  s.teams.find? fun t =>
    t.2.core == core && t.2.life == .resident && !t.2.stopped && (s.grid (gridKey (s.gang t.2.gang).part (s.gang t.2.gang).vertex)).mat

/-- The runs of a stream of so many bytes: one for each page. -/
def streamRuns (va n : Nat) : List (Nat × Nat) :=
  let k := min n (65536 - va % 65536)
  if k < n then [(va, k), ((va + k) % 2 ^ 64, n - k)] else [(va, n)]

/-- A stream starts: its Roller sees the format registers whose writes a barrier has ordered before the MSTART (R242). -/
def startStream (s : State) (t : Nat) (f : MFetch) (bs : List Byte) : State :=
  let w := s.wave f.wave
  let st : Stream :=
    { addr := f.addr, wave := f.wave, slot := 16 * w.quarter + w.slot, gen := w.gen, words := bytesWords96 f.count bs, pc := 0,
      loops := [], table := f.table, mask := f.mask, waiting := none, t := 0 }
  let s := s.updWave f.wave fun w => { w with xpages := [], xfault := [] }
  wake (s.updTeam t fun x =>
    { x with mfetch := none, stream := some st, fmts := joinFmts x.fmts (w.fmts.filter fun e => !e.2.own) }) f.wave

/-- ROLLER_STREAM_FETCHED (R213): the whole stream is fetched and starts; a fault suspends the wave at its MSTART. -/
def execRollerStreamFetched (core : Nat) (s : State) : Out :=
  .next (match rollerTeam s core with
    | none => s
    | some (t, x) =>
      match x.mfetch with
      | none => s
      | some f =>
        let w := s.wave f.wave
        let runs := streamRuns f.addr.toNat (12 * f.count)
        let vas := runs.map fun r => (r.1, Access.fetch)
        let r := xlatAll (.wave f.wave) w vas s
        let faults := xlatFaults vas r.2
        if r.2.any fun x => x == .miss then noteXlat r.1 f.wave vas r.2
        else
          let pc := (w.iss.runPc).getD 0
          if faults ≠ [] then faultWave r.1 f.wave pc (w.pathAt pc) faults
          else
            let xs := (runs.zip (r.2.filterMap Xlat.found?)).map fun y => ({ va := y.1.1, pa := y.2.1, n := y.1.2, e := y.2.2 } : FRun)
            match fetchRuns core f.wave (s.partNo w) xs r.1 with
            | (s1, .error x) => noFetch r.1 s1 f.wave w pc xs x
            | (s1, .ok bs) => startStream s1 t f bs)

/-! ## The frame of a Roller word (R372, R373) -/

/-- The team and stream in focus, when the stream may begin a word. -/
def State.roll (s : State) : Option (Nat × Stream) :=
  match s.focus with
  | .roller core =>
    match rollerTeam s core with
    | none => none
    | some (t, x) =>
      match x.stream with
      | none => none
      | some st => if st.waiting.isNone then some (t, st) else none
  | _ => none

/-- A Roller trap: imprecise, for the team; the stream stops before the word (R215, R373). Its record names the wave of the
MSTART, with its present place and tag while it is there. -/
def rollTrap (s : State) (t : Nat) (st : Stream) (code : Nat) (info : DWord) : State :=
  let x := s.team t
  let g := s.gang x.gang
  let w := s.wave st.wave
  let here := (tget s.waves st.wave).isSome
  let r := { waveRec s st.wave w (st.addr + BitVec.ofNat 64 (12 * st.pc)) 0 with
    core := x.core, wave := if here then 16 * w.quarter + w.slot else st.slot, gen := if here then w.gen else st.gen, part := g.part, grid := g.vertex,
    pasid := (s.grid (gridKey g.part g.vertex)).pasid, pts := (s.core x.core).pts, code := code, kind := 2, info := info, team := t }
  teamTrapRec s t r

/-- TRAP_MATRIX_DESC, and TRAP_STORAGE of a unit of the core: 3 local memory, 4 accumulator memory (R215, R443). -/
def rollDesc (s : State) (t : Nat) (st : Stream) (i : Nat) : State := rollTrap s t st 17 (BitVec.ofNat 64 i)
def rollStorage (s : State) (t : Nat) (st : Stream) (unit : Nat) : State := rollTrap s t st 18 (BitVec.ofNat 64 (2 ^ 63 + unit))

/-- A word that is performed, and the stream goes on behind it. -/
def rollGo (s : State) (t : Nat) (st : Stream) : State := s.updTeam t fun x => { x with stream := some st.next }

/-- A word with its effect on the team and stream in focus. -/
def rollOp (s : State) (f : Nat → Stream → State) : State :=
  match s.roll with
  | none => s
  | some (t, st) => f t st

/-- The info of TRAP_ILLEGAL for the word at the Roller PC. -/
def rollInfo (st : Stream) : DWord := (st.words.getD st.pc 0).extractLsb' 32 64

/-- A word that is no Roller instruction (R373). -/
def execRollerUnassignedWord (raw : Raw) (s : State) : Out :=
  .next (rollOp s fun t st => rollTrap s t st 1 (raw.pack.extractLsb' 32 64))

/-! ## Descriptors (R214, R215, R378) -/

/-- A tile descriptor (Table 10-4). -/
structure Desc where
  base   : Nat
  stride : Nat
  cols   : Bool
  fmt    : Nat
  freg   : Nat
  scale  : Nat
  ok     : Bool
  deriving DecidableEq, Repr

/-- The fields of a descriptor's sixteen bytes; `ok` when no reserved field is set and BASE and STRIDE keep their limits. -/
def descOf (x : Nat) : Desc :=
  { base := bits x 31 0, stride := bits x 47 32, cols := x.testBit 60, fmt := bits x 67 64, freg := bits x 70 68,
    scale := bits x 127 96,
    ok := bits x 59 48 == 0 && bits x 63 61 == 0 && !x.testBit 71 && bits x 95 72 == 0 && bits x 31 0 % 16 == 0 &&
      bits x 47 32 % 16 == 0 && bits x 47 32 != 0 }

/-- The effective index of a descriptor: the written one plus t times STEP of every loop entry (R378). -/
def effIndex (st : Stream) (i : Nat) : Nat := i + (st.loops.map fun e => e.iter * e.step).foldl (· + ·) 0

/-- Width of an element in bits, 4 for narrow formats of four bits or fewer. -/
def elemBits (ty : RTy) (f : NFmt) : Nat :=
  match ty with
  | .bf16 | .f16 => 16
  | .f32 => 32
  | .f64 => 64
  | .narrow => if f.nibble then 4 else 8

/-- The format register that a descriptor names. -/
def descFmt (x : Team) (d : Desc) : NFmt := NFmt.ofReg (fmtVal x.fmts d.freg)

/-- Whether a tile of so many lines and elements, and its scales, lie in local memory. -/
def descFits (size : Nat) (d : Desc) (lines elems ebits scales : Nat) : Bool :=
  let (l, e) := if d.cols then (elems, lines) else (lines, elems)
  decide (d.base + (l - 1) * d.stride + e * ebits / 8 ≤ size) && (scales == 0 || decide (d.scale + scales ≤ size))

/-- Read a descriptor as one local access at the core's pts (R215): none where it traps, with the state after the trap. -/
def readDescr (s : State) (t i : Nat) (st : Stream) (ty : RTy) (good : Team → Desc → Bool) : State × Option Desc :=
  let x := s.team t
  let off := st.table + 16 * i
  if 255 < i ∨ localSize s x.gang < off + 16 then (rollDesc s t st i, none)
  else if (s.gang x.gang).badAt off 16 then (rollStorage s t st 3, none)
  else
    let d := descOf (bytesNat ((s.gang x.gang).rdLoc off 16))
    let s := (localTouch s x.gang x.core off (s.core x.core).pts).1
    if d.ok && d.fmt == ty.code.toNat && good x d then (s, some d) else (rollDesc s t st i, none)

/-- An operand descriptor of MMA, of so many lines along K: format, class and range (R236, R241, R374). -/
def operandOk (size : Nat) (ty : RTy) (kn : Bool) (m k : Nat) (x : Team) (d : Desc) : Bool :=
  let f := descFmt x d
  let narrow := ty == .narrow
  (!narrow || (f.valid && f.nibble == kn)) &&
    descFits size d m k (elemBits ty f) (if narrow && f.bsen then m * (k / 32) else 0)

/-! ## Tiles (R49, R374, R375) -/

/-- A word of a tile, and a tile from its words; words not listed are zero. -/
def tileGet (x : Team) (a k : Nat) : Nat := ((tget ((tget x.tiles a).getD []) k).getD 0).toNat
def mkTile (f : Nat → Nat) : Tbl Word :=
  (List.range 4096).filterMap fun k => if f k % 2 ^ 32 = 0 then none else some (k, BitVec.ofNat 32 (f k))

/-- A tile element by element: f32 elements at 64 i + j, f64 elements in the slots of R375. -/
def tileMap (x : Team) (a : Nat) (wide : Bool) (f : Nat → Nat → Nat → Nat) : Tbl Word :=
  mkTile fun k =>
    let i := k / 64
    let j := k % 64
    if wide then
      if i < 32 then
        let v := f i (j / 2) (tileGet x a (64 * i + j / 2 * 2) + 2 ^ 32 * tileGet x a (64 * i + j / 2 * 2 + 1))
        if j % 2 = 0 then v % 2 ^ 32 else v / 2 ^ 32
      else tileGet x a k
    else f i j (tileGet x a k)

/-- Put a whole tile, which holds no error then (R443). -/
def putTile (s : State) (t a : Nat) (v : Tbl Word) : State :=
  s.updTeam t fun x => { x with tiles := tput x.tiles a v, badTiles := x.badTiles.filter (· != a) }

/-! ## Operands (R215, R238, R374) -/

/-- Read a run of local bytes in aligned parts of sixteen, each an access of its own (R143). -/
def readParts (s : State) (gang core o n : Nat) : State :=
  (List.range ((n + 15) / 16)).foldl (fun s i => (localTouch s gang core (o + 16 * i) (s.core core).pts).1) s

/-- The bytes of a tile's lines, with the accesses that read them. -/
def readLines (s : State) (t : Nat) (d : Desc) (lines len : Nat) : State × List (List Byte) :=
  let x := s.team t
  let g := s.gang x.gang
  ((List.range lines).foldl (fun s l => readParts s x.gang x.core (d.base + l * d.stride) len) s,
    (List.range lines).map fun l => g.rdLoc (d.base + l * d.stride) len)

/-- Bytes of local memory of the lines and scales of an operand. -/
def operandRuns (x : Team) (d : Desc) (ty : RTy) (m k : Nat) : List (Nat × Nat) :=
  let f := descFmt x d
  let (lines, elems) := if d.cols then (k, m) else (m, k)
  ((List.range lines).map fun l => (d.base + l * d.stride, elems * elemBits ty f / 8)) ++
    (if ty == .narrow && f.bsen then [(d.scale, m * (k / 32))] else [])

/-- Whether local memory holds an uncorrectable error in an operand (R215). -/
def operandBad (s : State) (t : Nat) (d : Desc) (ty : RTy) (m k : Nat) : Bool :=
  let x := s.team t
  (operandRuns x d ty m k).any fun r => (s.gang x.gang).badAt r.1 r.2

/-- An element of a line. -/
def lineElem (ty : RTy) (f : NFmt) (line : List Byte) (e : Nat) : FVal :=
  match ty with
  | .bf16 => bf16.val (bytesNat ((line.drop (2 * e)).take 2))
  | .f16 => f16.val (bytesNat ((line.drop (2 * e)).take 2))
  | .f32 => f32.val (bytesNat ((line.drop (4 * e)).take 4))
  | .f64 => f64.val (bytesNat ((line.drop (8 * e)).take 8))
  | .narrow =>
    if f.nibble then f.decode (((line.getD (e / 2) 0).toNat / 16 ^ (e % 2)) % 16) else f.decode (line.getD e 0).toNat

/-- An operand: element (i, kk), rows of A or columns of B, with its block scale (R241). -/
def readOperand (s : State) (t : Nat) (d : Desc) (ty : RTy) (m k : Nat) : State × (Nat → Nat → FVal) :=
  let x := s.team t
  let f := descFmt x d
  let (lines, elems) := if d.cols then (k, m) else (m, k)
  let r := readLines s t d lines (elems * elemBits ty f / 8)
  let nb := k / 32
  let on := ty == .narrow && f.bsen
  let sc := (s.gang x.gang).rdLoc d.scale (m * nb)
  let s := if on then readParts r.1 x.gang x.core d.scale (m * nb) else r.1
  (s, fun i kk =>
    let v := if d.cols then lineElem ty f (r.2.getD kk []) i else lineElem ty f (r.2.getD i []) kk
    scaled v (if on then some (sc.getD (i * nb + kk / 32) 0).toNat else none))

/-! ## The words -/

/-- The shape of an MMA: rows and columns, and K, which is also the group (Table 11-9, R374). -/
def mmaShape (ty : RTy) (kn : Bool) : Nat × Nat :=
  match ty with
  | .bf16 | .f16 => (64, 16)
  | .f32 => (64, 4)
  | .f64 => (32, 4)
  | .narrow => (64, if kn then 64 else 32)

/-- A word that reads an accumulator tile; one that holds an uncorrectable error traps (R215). -/
def withTile (s : State) (t : Nat) (st : Stream) (a : Nat) (k : State → State) : State :=
  if (s.team t).badTiles.contains a then rollStorage s t st 4 else k s

/-- MMA (R374, R375): both descriptors, then the operands' storage, then the product. -/
def execMma (tile : BitVec 4) (dA dB : BitVec 8) (kn : Bool) (ty : RTy) (s : State) : Out :=
  .next (rollOp s fun t st =>
    let ia := effIndex st dA.toNat
    let ib := effIndex st dB.toNat
    let (m, k) := mmaShape ty kn
    let size := localSize s (s.team t).gang
    if 255 < ia then rollDesc s t st ia
    else if 255 < ib then rollDesc s t st ib
    else match readDescr s t ia st ty (operandOk size ty kn m k) with
    | (s, none) => s
    | (s, some da) => match readDescr s t ib st ty (operandOk size ty kn m k) with
      | (s, none) => s
      | (s, some db) =>
        if operandBad s t da ty m k || operandBad s t db ty m k then rollStorage s t st 3
        else withTile s t st tile.toNat fun s =>
          let A := readOperand s t da ty m k
          let B := readOperand A.1 t db ty m k
          let wide := ty == .f64
          let tl := tileMap (s.team t) tile.toNat wide fun i j c =>
            mmaGroup (if wide then f64 else f32) c ((List.range k).map fun kk => (A.2 i kk, B.2 j kk))
          rollGo (putTile B.1 t tile.toNat tl) t st)

/-- MZERO (R376). -/
def execMzero (tile : BitVec 4) (s : State) : Out :=
  .next (rollOp s fun t st => rollGo (putTile s t tile.toNat []) t st)

/-- MSCALE (R376). -/
def execMscale (tile : BitVec 4) (f64t : Bool) (imm : Word) (s : State) : Out :=
  .next (rollOp s fun t st =>
    let f := if f64t then f64 else f32
    let x := f32.val imm.toNat
    withTile s t st tile.toNat fun s =>
      rollGo (putTile s t tile.toNat (tileMap (s.team t) tile.toNat f64t fun _ _ c => (f.mul .rn false (f.val c) x).bits)) t st)

/-- The bytes of an element that MSTORE writes; a code of four bits stands alone (R377). -/
def storeElem (ty : RTy) (rm : Rm) (f : NFmt) (c : Nat) : Nat :=
  match ty with
  | .f32 | .f64 => c
  | .bf16 => (bf16.ofVal rm false (f32.val c)).bits
  | .f16 => (f16.ofVal rm false (f32.val c)).bits
  | .narrow => (f.encode rm (f32.val c)).code

/-- The bytes of a line from its elements. -/
def lineBytes (ebits : Nat) (es : List Nat) : List Byte :=
  if ebits = 4 then natBytes (es.reverse.foldl (fun x e => 16 * x + e % 16) 0) (es.length / 2)
  else es.flatMap fun e => natBytes e (ebits / 8)

/-- Store bytes in aligned parts of sixteen: the state and the greatest timestamp. -/
def storeParts (gang core : Nat) : Nat → Nat → List Byte → State → Nat → State × Nat
  | 0, _, _, s, t => (s, t)
  | n + 1, o, bs, s, t =>
    let s := localStore s gang core o (s.core core).pts (bs.take 16)
    storeParts gang core n (o + 16) (bs.drop 16) s (max t ((s.gang gang).ltOf (o / 256)))

/-- A destination descriptor of MSTORE: a valid format without block scales, and range (R377). -/
def destOk (size : Nat) (ty : RTy) (m : Nat) (x : Team) (d : Desc) : Bool :=
  let f := descFmt x d
  (ty != .narrow || (f.valid && !f.bsen)) && descFits size d m m (elemBits ty f) 0

/-- MSTORE (R377). -/
def execMstore (dA : BitVec 8) (tile : BitVec 4) (rm : Rm) (ty : RTy) (s : State) : Out :=
  .next (rollOp s fun t st =>
    let i := effIndex st dA.toNat
    let m := if ty = .f64 then 32 else 64
    match readDescr s t i st ty (destOk (localSize s (s.team t).gang) ty m) with
    | (s, none) => s
    | (s, some d) => withTile s t st tile.toNat fun s =>
      let x := s.team t
      let f := descFmt x d
      let eb := elemBits ty f
      let el := fun i j =>
        if ty = .f64 then tileGet x tile.toNat (64 * i + 2 * j) + 2 ^ 32 * tileGet x tile.toNat (64 * i + 2 * j + 1)
        else tileGet x tile.toNat (64 * i + j)
      let line := fun l => lineBytes eb ((List.range m).map fun e =>
        storeElem ty rm f (if d.cols then el e l else el l e))
      let q := (List.range m).foldl (fun (q : State × Nat) l =>
        storeParts x.gang x.core (m * eb / 128) (d.base + l * d.stride) (line l) q.1 q.2) (s, st.t)
      rollGo q.1 t { st with t := q.2 })

/-- MBAR (R217, R379): the Roller arrives and waits. While an arrival that an earlier stream left stands in the phase, the
word does not begin. -/
def execMbar (bn : BitVec 4) (s : State) : Out :=
  .next (rollOp s fun t st =>
    let n := bn.toNat
    if ¬ st.mask.getLsbD n then rollTrap s t st 17 (BitVec.ofNat 64 (0x100 + n))
    else
      let k := BarKey.team t n
      let p := getPhase s k
      if p.roller then s
      else
        let s := setPhase s k
          { p with roller := true, pts := max p.pts (s.core (s.team t).core).pts, fmts := joinPhase k p (s.team t).fmts }
        let s := (s.teamWaves t).foldl (fun s i => s.updWave i fun w =>
          if w.live = 0 then { w with iss := { w.iss with blockedAt := s.cycle } } else w) s
        releaseBar k 34 (s.updTeam t fun x => { x with stream := some { st with waiting := some n } }))

/-- Whether MLOOP breaks a rule of R378. -/
def loopBad (st : Stream) (body : Nat) : Bool :=
  let stop := st.pc + 1 + body
  decide (4 ≤ st.loops.length) || decide (st.words.length < stop) ||
    (match st.loops with
      | [] => false
      | e :: _ => decide (e.stop < stop)) ||
    ((st.words.drop (st.pc + 1)).take body).any fun w => (Raw.unpack w).op == 0xE6

/-- MLOOP (R378). -/
def execMloop (step : BitVec 8) (body : BitVec 8) (count : BitVec 16) (s : State) : Out :=
  .next (rollOp s fun t st =>
    if loopBad st body.toNat then rollTrap s t st 1 (rollInfo st)
    else
      let e : MLoopEnt :=
        { start := st.pc + 1, stop := st.pc + 1 + body.toNat, left := count.toNat + 1, iter := 0, step := step.toNat }
      s.updTeam t fun x => { x with stream := some { st with pc := st.pc + 1, loops := e :: st.loops } })

/-- MEND (R218); a stream that has run past its last word ends the same way (R373). -/
def execMend (s : State) : Out := .next (rollOp s fun t _ => endStream s t)

/-- MFMT (R379). -/
def execMfmt (freg : BitVec 3) (imm : BitVec 26) (s : State) : Out :=
  .next (rollOp s fun t st =>
    let (i, s) := s.newId
    rollGo (s.updTeam t fun x => { x with fmts := fmtPut x.fmts freg.toNat i (imm.setWidth 64 &&& 0x3FFC07F) }) t st)

/-- The word that a Roller performs next; past the last word, MEND (R373). -/
def rollWord (st : Stream) : Instr :=
  match st.words[st.pc]? with
  | none => .mend
  | some w => rollerInstr (Raw.unpack w)

end Sys2Proof.Machine
end

