-- ==== Sys2Proof/Machine/Halts.lean ====
section
/-! DEFINITION. How gangs come and go: placement (R180, R181, R415), halting and saving (R434 to R440), retirement
(R191 to R193), kills and fault actions (R441), and the end of a grid (R138, R155). -/

namespace Sys2Proof.Machine

/-! ## The end of a grid (R138, R155, R192) -/

/-- An operation of the model's own that stands for the end of a grid: no wave has it, so it stays with the words that it
waits for until they are accepted and performed. -/
def endMark (op : Nat) : Nat × Nat := (op, op)

/-- Every residual, combining entry and request of a partition on some clusters takes a mark, which the words keep where they are
refused (R138). -/
def markWords (s : State) (part : Nat) (cls : List Nat) (m : Nat × Nat) : State :=
  { s with
    clusters := tmap s.clusters fun i c =>
      if cls.contains i then
        { c with comb := tmap c.comb fun _ e => if e.key.part = part then { e with flush := m :: e.flush } else e,
                 resid := tmap c.resid fun _ e => if e.key.part = part then { e with waits := m :: e.waits } else e }
      else c,
    areqs := tmap s.areqs fun _ r => if r.key.part = part ∧ cls.contains r.cluster then { r with flush := m :: r.flush } else r }

/-- The last gang of a grid has gone: its clusters' residual groups become due, and what they hold now is waited for. -/
def gridEnd (s : State) (p v : Nat) : State :=
  let k := gridKey p v
  match tget s.grids k with
  | none => s
  | some g =>
    if g.drained ∨ g.retired + g.cancelled < g.gangs then s
    else
      let (op, s) := s.newId
      let s := s.setGrid k { g with drained := true, waitFor := op :: g.waitFor }
      g.clusters.foldl (fun s c => dueResid s c fun e => e.key.part == p) (markWords s p g.clusters (endMark op))

/-- GRID_COMPLETION (R155): all that the end of the grid waits for has been performed. -/
def execGridCompletion (part vertex : Nat) (s : State) : Out :=
  .next (
    let k := gridKey part vertex
    match tget s.grids k with
    | none => s
    | some g => if g.drained && !g.done && g.waitFor.all (fun op => !opHeld s op) then s.setGrid k { g with done := true } else s)

/-! ## Retirement (R191 to R193) -/

/-- A gang has no team left: its local memory, its barriers and its image's room are free. -/
def retireGang (s : State) (gid : Nat) : State :=
  match tget s.gangs gid with
  | none => s
  | some g =>
    let k := gridKey g.part g.vertex
    let s := { s with gangs := tdel s.gangs gid }
    let s := s.updPart g.part fun p => { p with reserved := tdel p.reserved gid }
    let s := s.updGrid k fun x => { x with retired := x.retired + 1, again := x.again.filter (· != gid) }
    gridEnd (askDispatch s g.part) g.part g.vertex

/-- A team has no wave left. -/
def retireTeam (s : State) (t : Nat) : State :=
  if s.teamWaves t ≠ [] then s
  else
    let gid := (s.team t).gang
    let s := { s with teams := tdel s.teams t }
    if s.gangTeams gid = [] then retireGang s gid else s

/-- Work of a grid has reached a timestamp. -/
def raiseTop (s : State) (k t : Nat) : State := s.updGrid k fun g => { g with top := max g.top t }

/-- Whether a wave's stream keeps it: the team's last live wave does not retire while its stream runs (R218). -/
def streamKeeps (s : State) (id : Nat) (w : Wave) : Bool :=
  (s.teamOf w).stream.isSome && (s.teamWaves w.team).all fun i => i == id || (s.wave i).live == 0

/-- Whether a wave counts as blocked for the watchdog (R219, R444). -/
def countsBlocked (s : State) (w : Wave) : Bool :=
  w.blocked != .none || w.susp != .none ||
    (if w.live = 0 then (s.teamOf w).stream.any fun st => st.waiting.isSome
     else w.live &&& ~~~w.parked == 0 && w.gathers.all fun g => !w.complete g)

/-- Waves leave the resident ones: where one of them runs, the time for which all are blocked starts anew (R444). -/
def stirLeft (s : State) (p : Nat) (ids : List Nat) : State :=
  if ids.any fun i => !countsBlocked s (s.wave i) then s.stir p else s

/-- The accesses of a wave that retires are still performed (R298), and the end of its grid waits for them (R170). Its tokens may
be released once they are (R437). -/
def leaveReqs (s : State) (id : Nat) (w : Wave) : State :=
  let fs := ((s.reqs.filter fun e => e.2.wave == id && !e.2.kind.isPref).map (·.2.flight) ++
    (s.reps.filter fun e => e.2.req.wave == id).map (·.2.req.flight)).eraseDups
  let s := s.updGrid (s.gridNo w) fun g => { g with waitFor := g.waitFor ++ fs }
  { s with
    reqs := tmap s.reqs fun _ r => if r.wave = id then { r with orphan := true } else r,
    reps := tmap s.reps fun _ r => if r.req.wave = id then { r with req := { r.req with orphan := true } } else r,
    tokens := tmap s.tokens fun _ t => if t.wave = some id then { t with consumed := true } else t,
    flights := tsel s.flights fun i f => f.wave != id || (f.dest == .desc && fs.contains i),
    waves := tdel s.waves id }

/-- WAVE_RETIREMENT (R191): every lane has exited and no operation is counted. -/
def execWaveRetirement (wave : Nat) (s : State) : Out :=
  .next (match tget s.waves wave with
    | none => s
    | some w =>
      if w.live ≠ 0 ∨ w.ops ≠ [] ∨ w.packets ≠ [] ∨ (s.teamOf w).life ≠ .resident ∨ streamKeeps s wave w = true then s
      else
        let s := raiseTop s (s.gridNo w) (s.core w.core).pts
        let s := s.stir (s.partNo w)
        retireTeam (hodLeave (leaveReqs s wave w) wave) w.team)

/-! ## Kills (R441) -/

/-- The requests of a killed wave: reads that watch end with their monitors, writes that wait for the host are abandoned,
the others go on as orphans; its unreleased tokens are released, and of the requests that carry one token one at most is
applied (R223, R436, R437). -/
def dropReqs (s : State) (ids : List Nat) : State :=
  let done := fun (i : Nat) (r : Req) => match r.token with
    | none => false
    | some k => (tget s.toks k).isSome || s.reqs.any fun e => e.1 < i && e.2.token == some k
  let gone := fun (i : Nat) (r : Req) => ids.contains r.wave && (r.armed || r.watching || done i r)
  let dead := tkeys (tsel s.reqs gone)
  let toks := tkeys (tsel s.tokens fun _ t => match t.wave with
    | none => false
    | some w => ids.contains w)
  { s with
    reqs := tmap (tsel s.reqs fun i r => !gone i r) fun _ r => if ids.contains r.wave then { r with orphan := true, token := none } else r,
    monitors := tsel s.monitors fun _ m => !dead.contains m.req,
    reps := tmap s.reps fun _ r => if ids.contains r.req.wave then { r with req := { r.req with orphan := true, token := none } } else r,
    flights := tsel s.flights fun _ f => !ids.contains f.wave,
    tokens := tsel s.tokens fun k _ => !toks.contains k,
    toks := tsel s.toks fun k _ => !toks.contains k }

/-- The engine operations of a team end, with their snapshots and the requests of their parts (R158, R211). -/
def dropHods (s : State) (t : Nat) : State :=
  (tsel s.hops fun _ o => o.team == t).foldl (fun s o =>
    let s1 := { s with hops := tdel s.hops o.1, reqs := tsel s.reqs fun _ r => r.flight != o.1 }
    let s2 := match o.2.gather with
      | none => s1
      | some k => snapDrop s1 (hodSpace s o.2).1 k.slot
    dropOp s2 o.1) s

/-- Waits of killed waves for walks end. -/
def dropWalks (s : State) (ids : List Nat) : State :=
  { s with dies := tmap s.dies fun _ d => { d with queue := (d.queue.map fun m =>
      { m with waiters := m.waiters.filter fun x => match x.1 with
          | .wave i => !ids.contains i
          | .pref i => !ids.contains i
          | .hod op _ => (tget s.hops op).isSome }).filter fun m => m.waiters != [] } }

/-- The registrations that GOPENs of killed waves have made and whose results no cursor has taken: they end with the kill
(R90). -/
def openSlots (s : State) (ids : List Nat) : List Nat :=
  let opens := fun r : Req => match r.kind with
    | .graph _ (.opn ..) => true
    | _ => false
  let rs := (s.reqs.map (·.2) ++ s.reps.map (·.2.req)).filter (fun r => ids.contains r.wave) ++
    ids.flatMap fun i => (s.wave i).packets.map (·.req)
  ((rs.filter opens).filterMap (·.token)).eraseDups.filterMap fun k =>
    if (tget s.tokens k).any fun t => !t.consumed then
      match tget s.toks k with
      | some e => if e.result.headD 1 = 0 then some (e.result.getD 4 0).toNat else none
      | none => none
    else none

/-- A gang's place in a queue, for one that waits again: its node holds an entry, or takes one at the head of its queue,
with its age counted from `since` (R413, R440). -/
def queueAgain (s : State) (gid since : Nat) : State :=
  let g := s.gang gid
  let s := s.updGrid (gridKey g.part g.vertex) fun x => { x with again := gid :: x.again }
  if hasEntry s g.part g.vertex then askDispatch s g.part
  else enqueue s g.part { vertex := g.vertex, since := since, reent := true }

/-- Every team of a gang is saved: its cores are free, and it waits as its goal says. -/
def gangSaved (s : State) (gid : Nat) : State :=
  let g := s.gang gid
  if g.life ≠ .halting ∨ (s.gangTeams gid).any fun t => (s.team t).life != .saved then s
  else
    let s := s.setGang gid { g with life := g.goal }
    let s := askDispatch s g.part
    if g.goal = .saved then queueAgain s gid g.haltAt else s

/-- .killteam: the team's threads end as by EXIT, its operations, monitors and registrations end, and it leaves its gang. -/
def killTeam (s : State) (t : Nat) : State :=
  match tget s.teams t with
  | none => s
  | some x =>
    let g := s.gang x.gang
    let ids := s.teamWaves t
    let s := if x.life = .resident then stirLeft s g.part ids else s
    let s := ids.foldl (fun s i => closeLanes s i (BitVec.allOnes 32)) s
    let s := (openSlots s ids).foldl (fun s k => snapDrop s g.part k) s
    let s := dropHods s t
    let s := ids.foldl (fun s i => ((s.wave i).ops.map (·.id)).foldl dropOp s) s
    let s := raiseTop (dropReqs s ids) (gridKey g.part g.vertex) (s.core x.core).pts
    let s := dropWalks { s with waves := tsel s.waves fun k _ => !ids.contains k } ids
    let s := { s with teams := tdel s.teams t }
    let s := (List.range 4).foldl (fun s n => releaseBar (.gang x.gang n) 130 s) s
    if s.gangTeams x.gang = [] then retireGang s x.gang else gangSaved s x.gang

/-- .killgrid: every gang is killed, gangs still to place are given up, and the grid ends. -/
def killGrid (s : State) (p v : Nat) : State :=
  let k := gridKey p v
  match tget s.grids k with
  | none => s
  | some g =>
    let s := s.setGrid k { g with killed := true, again := [], cancelled := g.gangs - g.placed }
    let s := dequeue s p v
    let teams := (s.gridGangs p v).flatMap fun i => s.gangTeams i
    gridEnd (teams.foldl killTeam s) p v

/-! ## Halting (R434 to R436) -/

/-- A gang is pre-empted, towards a status: `saved` to wait in its queue, `suspended` and `escalated` to wait for their
release. What only the host may release stays so (R441). -/
def haltGang (s : State) (gid : Nat) (goal : Life) : State :=
  match tget s.gangs gid with
  | none => s
  | some g =>
    match g.life with
    | .resident =>
      let s := (s.gangTeams gid).foldl (fun s t => stirLeft s g.part (s.teamWaves t)) s
      let s := s.setGang gid { g with life := .halting, goal := goal, haltAt := s.cycle }
      (s.gangTeams gid).foldl (fun s t => s.updTeam t fun x => { x with life := .halting }) s
    | .halting => if goal = .saved ∨ g.goal = .escalated then s else s.setGang gid { g with goal := goal }
    | .saved =>
      if goal = .saved then s
      else
        let s := s.setGang gid { g with life := goal }
        let s := s.updGrid (gridKey g.part g.vertex) fun x => { x with again := x.again.filter (· != gid) }
        if (s.gridOfGang g).hasNext then s else dequeue s g.part g.vertex
    | .suspended => if goal = .escalated then s.setGang gid { g with life := goal } else s
    | _ => s

/-- The requests of a halting wave as packets, oldest first: those that still await replies, behind those that have been turned
back. A RET is executed afresh (R301), and so is an MWAIT that watches (R223). -/
def wavePackets (s : State) (id : Nat) (w : Wave) : List Packet :=
  let keep := fun f : Nat => match tget s.flights f with
    | none => false
    | some f => f.dest != .ret
  let mine := fun r : Req => r.wave == id && r.gen == w.gen && !r.orphan && !r.kind.isPref && (r.kind.isAcc || keep r.flight)
  let all := (s.reqs.filter fun e => mine e.2) ++ (s.reps.filterMap fun e => if mine e.2.req then some (e.1, e.2.req) else none)
  (w.packets ++ all.map fun e => e.2.packed e.1).mergeSort fun a b => a.seq ≤ b.seq

/-- What becomes of a halted wave's requests: orphans, and writes that wait for the host are abandoned (R436). -/
def orphanReqs (s : State) (id : Nat) : State :=
  { s with
    reqs := tmap (tsel s.reqs fun _ r => !(r.wave == id && r.armed && r.home < 1024)) fun _ r =>
      if r.wave = id then { r with orphan := true } else r,
    reps := tmap s.reps fun _ r => if r.req.wave = id then { r with req := { r.req with orphan := true } } else r,
    flights := tsel s.flights fun _ f => !(f.wave == id && (f.dest == .ret)) }

/-- An MWAIT some of whose words are watched, or read again and again, is executed afresh on resumption: its monitors and those
requests go, and its reads in flight are orphans (R223, R342, R436). -/
def endMwait (s : State) (id : Nat) : State :=
  match (s.wave id).blocked with
  | .mwait f =>
    let gone := fun r : Req => r.flight == f && r.wave == id && r.armed
    let ids := tkeys (tsel s.reqs fun _ r => gone r)
    if ids = [] then s
    else
      let s := { s with reqs := tsel s.reqs fun _ r => !gone r, monitors := tsel s.monitors fun _ m => !ids.contains m.req }
      (endFlight s f).updWave id fun w => { w with blocked := .none }
  | _ => s

/-- Prefetches in flight end with the halt of their wave. -/
def endPrefs (s : State) (id : Nat) : State :=
  let fs := (s.reqs.filter fun e => e.2.wave == id && e.2.kind.isPref).map (·.2.flight) ++
    (s.reps.filter fun e => e.2.req.wave == id && e.2.req.kind.isPref).map (·.2.req.flight)
  fs.eraseDups.foldl endFlight s

/-- The results of a wave's instructions that are performed at their issue are written (R434). -/
def keptResults (s : State) (id : Nat) : State := (tkeys (tsel s.flights fun _ f => f.wave == id)).foldl deliverKept s

/-- One wave of a team halts: results are written, its requests are saved, its tag is incremented, its latches are invalid, its
wait is executed afresh on resumption, and the next thread to park at a gathering reads its mask again (R257, R291, R435). -/
def haltWave (s : State) (id : Nat) : State :=
  let s := endMwait (endPrefs (keptResults s id) id) id
  let w := s.wave id
  let s := if w.susp = .none then suspendWave s id .halted else s
  let ps := wavePackets s id (s.wave id)
  let s := orphanReqs s id
  dropWalks (s.updWave id fun w =>
    { w with gen := (w.gen + 1) % 256, packets := ps, xpages := [], xfault := [],
             gathers := w.gathers.map fun g => { g with old := true } }) [id]

/-- TEAM_HALTED (R434, R435): a halting team reaches its halt, no earlier than 2,048 cycles after its resumption; its
cluster's entries of the partition become due (R126, R134). -/
def execTeamHalted (team : Nat) (s : State) : Out :=
  .next (match tget s.teams team with
    | none => s
    | some t =>
      if t.life ≠ .halting ∨ (t.resumedAt ≠ 0 ∧ s.cycle < t.resumedAt + 2048) then s
      else
        let s := (s.teamWaves team).foldl haltWave s
        let s := s.updTeam team fun x => { x with life := .halted, savedPts := (s.core t.core).pts }
        flushCluster s (coreCluster t.core) (s.gang t.gang).part)

/-- TEAM_SAVED (R434): parts in flight have been performed, the combining entries are sent, the image is written. -/
def execTeamSaved (team : Nat) (s : State) : Out :=
  .next (match tget s.teams team with
    | none => s
    | some t =>
      let p := (s.gang t.gang).part
      let ops := tkeys (tsel s.hops fun _ o => o.team == team)
      if t.life ≠ .halted ∨ (s.reqs.any fun r => ops.contains r.2.flight) ∨
          ((s.cluster (coreCluster t.core)).comb.any fun e => e.2.key.part == p && e.2.due) then s
      else gangSaved (s.updTeam team fun x => { x with life := .saved }) t.gang)

/-! ## Placement (R180, R181, R415) -/

/-- Free slots of a quarter, by the slots in use. -/
def slotsFree (used : List (Nat × Nat)) (q : Nat) : List Nat := (List.range 16).filter fun k => !used.contains (q, k)

/-- The quarter of the first wave of a team: that with the most free slots, the lowest on a tie. -/
def firstQuarter (used : List (Nat × Nat)) : Nat :=
  (leastBy (fun q => 16 * (16 - (slotsFree used q).length) + q) (List.range 4)).getD 0

/-- The quarter of a later wave: the next one that has a free slot. -/
def nextQuarter (used : List (Nat × Nat)) (q : Nat) : Nat :=
  (((List.range 4).map fun i => (q + 1 + i) % 4).find? fun k => slotsFree used k != []).getD 0

/-- Quarter and slot for so many waves of a team. -/
def takeSlots : Nat → Option Nat → List (Nat × Nat) → List (Nat × Nat)
  | 0, _, _ => []
  | n + 1, prev, used =>
    let q := match prev with
      | none => firstQuarter used
      | some q => nextQuarter used q
    let k := (slotsFree used q).headD 0
    (q, k) :: takeSlots n (some q) ((q, k) :: used)

/-- Slots in use on a core. -/
def slotsUsed (s : State) (core : Nat) : List (Nat × Nat) := (coreWaves s core).map fun w => (w.2.quarter, w.2.slot)

/-- The stage of a wave of a team (R178). -/
def stageOf : List Nat → Nat → Nat → Nat
  | [], _, k => k
  | n :: ns, w, k => if w < n then k else stageOf ns (w - n) (k + 1)

/-- A wave of a team at its placement; its age starts at zero (R415). -/
def newWave (g : Grid) (cyc core team q j w : Nat) (at_ : Nat × Nat) : Wave :=
  let n := fun l => (q * g.nteam + j) * (32 * g.waves) + 32 * w + l
  { Wave.fresh with
    core := core, quarter := at_.1, slot := at_.2, team := team, idx := w, stage := stageOf g.stages w 0,
    pc := List.replicate 32 g.entry,
    csp := (List.range 32).map fun l => if g.stackSz = 0 then 0 else g.stack + BitVec.ofNat 64 ((n l + 1) * g.stackSz),
    blocks := g.base, iss := { IssueSt.fresh with lastIssue := cyc } }

/-- A core takes a gang's split; a new split empties its L1 (R56). -/
def takeSplit (s : State) (core split : Nat) : State :=
  s.updCore core fun c => if c.split = split then c else { c with split := split, l1 := [] }

/-- One team of a gang is placed: its core takes the split and the grid's firing timestamp, its waves their slots. -/
def placeTeam (s : State) (g : Grid) (gang core q j : Nat) : State :=
  let s := raisePts (if emptyCore s core then takeSplit s core g.split else s) core g.fired
  let slots := takeSlots g.waves none (slotsUsed s core)
  let (t, s) := s.newId
  let s := s.setTeam t { Team.fresh with gang := gang, slot := j, core := core, reserve := g.q }
  (List.range g.waves).foldl (fun s w =>
    let (i, s) := s.newId
    s.setWave i (newWave g s.cycle core t q j w (slots.getD w (0, 0)))) s

/-- The greatest pts of a gang's cores: what its blocks' timestamps start from (R143). -/
def coresPts (s : State) (core0 n : Nat) : Nat := (List.range n).foldl (fun m i => max m (s.core (core0 + i)).pts) 0

/-- GANG_PLACEMENT: the next gang of a grid is placed for the first time on cores of a cluster. With the first of them the node is
RUNNING (Table 20-2); none while that write is held. -/
def placeGang (s : State) (p v cluster j0 : Nat) : Option State :=
  let k := gridKey p v
  let g := s.grid k
  let q := g.placed
  let at_ := curveAt g q
  let core0 := 4 * cluster + j0
  let (gid, s) := s.newId
  let s := (List.range g.nteam).foldl (fun s j => placeTeam s g gid (core0 + j) q j) s
  let s := s.setGang gid { Gang.fresh with
    part := p, vertex := v, q := q, x := at_.1, y := at_.2.1, z := at_.2.2, core0 := core0, runPrio := g.queue,
    ltBase := coresPts s core0 g.nteam, placedAt := s.cycle }
  let s := s.updPart p fun x => { x with reserved := tput x.reserved gid g.image }
  let s := s.setGrid k { g with placed := q + 1, clusters := if g.clusters.contains cluster then g.clusters else g.clusters ++ [cluster] }
  if q = 0 then recWrite s p v g.fired fun r => setBits r 43 41 3 else some s

/-! ## Resumption (R440) -/

/-- Send saved requests in order, as long as the core's tracker has entries (R436). -/
def sendPackets (id : Nat) : List Packet → State → State
  | [], s => s
  | p :: ps, s =>
    let w := s.wave id
    if 4096 ≤ coreReqs s w.core then s.updWave id fun w => { w with packets := p :: ps }
    else
      let r := { p.req with core := w.core, gen := w.gen, agen := (s.die (coreDie w.core)).gen, orphan := false,
                            low := max p.req.low (laneT s id p.req.lane p.req.flight),
                            remote := remoteOf s p.req.part p.req.pa }
      sendPackets id ps { s with reqs := tput s.reqs p.seq r }

/-- The saved packets of a wave are reissued in order, under its tag and from its core. -/
def reissue (s : State) (id : Nat) : State :=
  sendPackets id (s.wave id).packets (s.updWave id fun w => { w with packets := [] })

/-- Saved packets under new numbers, in their order: the requests that they repeat may still be on their way. -/
def renumber : List Packet → State → List Packet × State
  | [], s => ([], s)
  | p :: ps, s =>
    let (i, s) := s.newId
    let r := renumber ps s
    ({ p with seq := i } :: r.1, r.2)

/-- One wave of a gang that is placed again. -/
def resumeWave (s : State) (id core : Nat) (at_ : Nat × Nat) : State :=
  let w := s.wave id
  let r := renumber w.packets s
  let w := { w.noLatch with
    core := core, quarter := at_.1, slot := at_.2, susp := if w.susp = .halted then .none else w.susp, packets := r.1,
    iss := { IssueSt.fresh with runPc := w.iss.runPc, runCount := w.iss.runCount, blockedAt := s.cycle, lastIssue := s.cycle } }
  reissue (r.2.setWave id w) id

/-- One team of a gang that is placed again. -/
def resumeTeam (s : State) (g : Grid) (t core : Nat) : State :=
  let x := s.team t
  let s := raisePts (if emptyCore s core then takeSplit s core g.split else s) core (max g.fired x.savedPts)
  let ids := (s.teamWaves t).mergeSort fun a b => (s.wave a).idx ≤ (s.wave b).idx
  let slots := takeSlots ids.length none (slotsUsed s core)
  let s := s.setTeam t { x with core := core, life := .resident, resumedAt := s.cycle }
  let s := { s with hops := tmap s.hops fun _ o =>
    if o.team = t then { o with cluster := coreCluster core, pts := max o.pts (s.core core).pts } else o }
  (ids.zip slots).foldl (fun s e => resumeWave s e.1 core e.2) s

/-- GANG_RESUMPTION: a gang is placed again. -/
def resumeGang (s : State) (gid cluster j0 : Nat) : State :=
  let x := s.gang gid
  let k := gridKey x.part x.vertex
  let g := s.grid k
  let core0 := 4 * cluster + j0
  let s := (s.gangTeams gid).foldl (fun s t => resumeTeam s g t (core0 + (s.team t).slot)) s
  let s := s.setGang gid { x with core0 := core0, life := .resident, goal := .saved, offline := none, placedAt := s.cycle, lt := [],
                                  ltBase := coresPts s core0 g.nteam }
  s.setGrid k { g with again := g.again.filter (· != gid),
                       clusters := if g.clusters.contains cluster then g.clusters else g.clusters ++ [cluster] }

/-! ## Fault actions (R37, R42, R390, R441) -/

/-- A record that no decision answers and that holds no wave: it only tells of accumulates that met an offline home
(R442). -/
def FRec.informs (r : FRec) : Bool := r.dup && r.under.isNone

/-- Whether a record still holds a wave. -/
def heldByRecord (s : State) (id : Nat) (w : Wave) : Bool :=
  (s.partOf w).faults.any fun e => e.2.hod.isNone && !e.2.informs && (if e.2.kind = 2 then e.2.team == w.team else e.2.waveId == id)

/-- A suspended wave goes on with the instruction at which it stands, or after codes 19 and 20 the path behind it, once no record
holds it; the requests that were turned back are issued again. -/
def freeWave (s : State) (id : Nat) (r : FRec) : State :=
  let w := s.wave id
  if w.susp = .none ∨ w.susp = .halted then s
  else
    let w := if (r.code = 19 ∨ r.code = 20) ∧ r.waveId = id then w.setPc (w.pathAt r.pc) fun _ => nextPc r.pc else w
    if heldByRecord s id w then s.setWave id w
    else
      let w := { w.noLatch with susp := .none, iss := { w.iss with runPc := if w.blocked = .none then none else w.iss.runPc, blockedAt := s.cycle } }
      let s := s.setWave id w
      if (s.teamOf w).life = .resident then reissue s id else s

/-- A record's waves, or the parts of its engine operation, go on. -/
def freeRec (s : State) (r : FRec) : State :=
  if r.informs then s
  else match r.hod with
  | some op => hodRelease s op r.pages
  | none =>
    if r.kind = 2 then
      (s.teamWaves r.team).foldl (fun s i => freeWave s i r) (s.updTeam r.team fun t => { t with stopped := false })
    else if (tget s.waves r.waveId).isSome then freeWave s r.waveId r
    else s

/-- The records to which a decision on a record applies: itself, and the duplicates that wait for it. -/
def recGroup (p : Part) (fid : Nat) : List Nat := tkeys (tsel p.faults fun i r => i == fid || r.under == some fid)

/-- .resume of one record: at once, or once a held record has been written (R40). -/
def resumeRec (s : State) (p fid : Nat) : State :=
  match tget (s.part p).faults fid with
  | none => s
  | some r =>
    if r.written then freeRec (s.updPart p fun x => { x with faults := tdel x.faults fid }) r
    else s.updPart p fun x => { x with faults := tput x.faults fid { r with resume := true } }

/-- Records that have been written and whose resumption had waited for it. -/
def freeWritten (s : State) (p : Nat) : State :=
  (tkeys (tsel (s.part p).faults fun _ r => r.written && r.resume)).foldl (fun s i => resumeRec s p i) s

/-- FAULT_PTRS_WRITE (R40): a write of the host, which the watchdog counts as progress (R444). -/
def execFaultPtrsWrite (part : Nat) (value : DWord) (s : State) : Out :=
  .next (freeWritten (faultPtrs (s.stir part) part value) part)

/-- The pages of a record leave the table of pending pages, and records that waited for a free entry are written (R37). -/
def freePages (s : State) (p fid : Nat) : State :=
  (tkeys s.dies).foldl (fun s d =>
    let x := s.die d
    let s := s.setDie d { x with pages := x.pages.filter fun e => !(e.part == p && e.fid == fid), unrec := [] }
    x.unrec.foldl (fun s u => recordFault s d u.1 u.2) s) s

/-- The die under reset, if one is. -/
def resetDie (s : State) : Option Nat := (s.dies.find? fun d => d.2.st != .running).map (·.1)

/-- Whether a record's cause is HOME_OFFLINE. -/
def recOffline (r : FRec) : Bool := r.code == 0 && (r.pages.headD 0).toNat / 2 ^ 10 % 16 == 8

/-- Whether a record's decision is still to be taken, or one on the record whose pages it repeats (R416). -/
def undecided (p : Part) (fid : Nat) (r : FRec) : Bool :=
  let waits := fun i => p.decReqs.contains (.fault i) || (p.dec.any fun d => d.req == .fault i)
  waits fid || r.under.any waits

/-- A gang is released: the waves that its decided records suspended will reissue their instructions, and it waits in its
queue (R441, R458). -/
def releaseGang (s : State) (gid : Nat) : State :=
  let g := s.gang gid
  let p := s.part g.part
  let ts := s.gangTeams gid
  let ids := tkeys (tsel p.faults fun i r => ts.contains r.team && !undecided p i r)
  let s := (ids.flatMap (recGroup p)).foldl (fun s i => resumeRec s g.part i) s
  match g.life with
  | .suspended | .escalated => queueAgain (s.setGang gid { s.gang gid with life := .saved, offline := none }) gid s.cycle
  | .halting => s.setGang gid { s.gang gid with goal := .saved, offline := none }
  | _ => s

/-- Records of teams that are no more: their pages are free, and duplicates of other teams reissue. A record that is
held stays until it is written (R40). -/
def sweepFaults (s : State) (p : Nat) : State :=
  (tkeys (tsel (s.part p).faults fun _ r => (tget s.teams r.team).isNone)).foldl (fun s i =>
    let s := freePages s p i
    (recGroup (s.part p) i).foldl (fun s j => resumeRec s p j) s) s

/-- A fault action on the record's team (Table 22-3). A gang suspended for a die that has been re-admitted meanwhile
waits in its queue. -/
def faultAction (s : State) (p fid : Nat) (r : FRec) (a : Action) : State :=
  let gid := (s.team r.team).gang
  let s := freePages s p fid
  match a with
  | .resume => (recGroup (s.part p) fid).foldl (fun s i => resumeRec s p i) s
  | .suspend =>
    if recOffline r then
      match resetDie s with
      | some d => (haltGang s gid .suspended).updGang gid fun g => { g with offline := some d }
      | none => haltGang ((recGroup (s.part p) fid).foldl (fun s i => resumeRec s p i) s) gid .saved
    else haltGang s gid .suspended
  | .killteam => sweepFaults (killTeam s r.team) p
  | .killgrid => sweepFaults (killGrid s p (s.gang gid).vertex) p
  | .escalate => escalation (haltGang s gid .escalated) p
  | _ => s

end Sys2Proof.Machine
end

