-- ==== Sys2Proof/Machine/Policy.lean ====
section
/-! DEFINITION. Policy programs (spec/21: R416 to R430): the views that a decision freezes, the fallback policy, and the
words of a program. -/

namespace Sys2Proof.Machine

/-! ## The snapshot (R423, Table 21-3) -/

/-- A number as a view shows it: 32 bits, saturating. -/
def sat32 (n : Nat) : Word := BitVec.ofNat 32 (min n 0xFFFFFFFF)

/-- The kind of a decision, and what its request tells. -/
def DecReq.kind : DecReq → Nat
  | .dispatch => 0
  | .preempt .. => 1
  | .fault _ => 2
def DecReq.pcause : DecReq → Nat
  | .preempt slice _ => slice.toNat
  | _ => 0
def DecReq.aq : DecReq → Nat
  | .preempt false q => q
  | _ => 0

/-- Gangs of a grid that are not resident. -/
def gangsLeft (s : State) (p v : Nat) : Nat :=
  let g := s.grid (gridKey p v)
  g.gangs - g.retired - g.cancelled - (s.gangs.filter fun e => e.2.part == p && e.2.vertex == v && e.2.holds).length

/-- The queue view of a queue. -/
def viewQ (s : State) (p q : Nat) : List Word :=
  match readyQ s p q with
  | [] => [0, 0, 0, 0, 0, 0, 0, 0, 0, 0xFFFFFFFF]
  | e :: es =>
    let g := s.grid (gridKey p e.vertex)
    [sat32 (es.length + 1), sat32 (s.cycle - e.since), sat32 g.waves, sat32 g.blocks, sat32 (g.coreLocal / 256),
      sat32 g.handles, sat32 g.nteam, BitVec.ofNat 32 (g.mat.toNat + 2 * g.split), sat32 (gangsLeft s p e.vertex),
      BitVec.ofNat 32 e.vertex]

/-- The sum of a count over the cores of a slice. -/
def sliceSum (slice : Nat) (f : Nat → Nat) : Nat := ((List.range 32).map fun i => f (32 * slice + i)).foldl (· + ·) 0

/-- The slice view of a slice. -/
def viewS (s : State) (slice : Nat) : List Word :=
  [sat32 (sliceSum slice (freeBlocks s)), sat32 (sliceSum slice (fun c => freeLocal s c (s.core c).split / 256)),
    sat32 (sliceSum slice (freeSlots s)), sat32 (sliceSum slice fun c => (!rollerHeld s c).toNat),
    sat32 (sliceSum slice fun c => (emptyCore s c).toNat),
    sat32 (s.gangs.filter fun e => e.2.holds && e.2.core0 / 32 == slice).length]

/-- The running set with the ids that the snapshot gives. -/
def gangViews (s : State) (p : Nat) : List GangView :=
  (numbered 0 (runningSet s p)).map fun e =>
    { id := e.1, gang := e.2.1, vtx := e.2.2.vertex, prio := e.2.2.runPrio, age := e.2.2.placedAt,
      clus := e.2.2.core0 / 4 - 8 * p }

/-- The most recently placed gang of a priority: of two placed in one cycle the one of the greater number. -/
def youngest (gs : List GangView) (prio : Nat) : Option GangView :=
  (gs.filter (·.prio == prio)).foldl (fun best g => match best with
    | none => some g
    | some b => if b.age ≤ g.age then some g else some b) none

/-- The priority view of a priority. The age and the cluster of a gang that is not there are free values. -/
def viewP (s : State) (gs : List GangView) (prio : Nat) : List Word :=
  match youngest gs prio with
  | none => [0, 0xFFFFFFFF, loWord (Config.freeValue (s.freeCtr + prio)), hiWord (Config.freeValue (s.freeCtr + prio))]
  | some g => [sat32 (gs.filter (·.prio == prio)).length, sat32 g.id, sat32 (s.cycle - g.age), sat32 g.clus]

/-- The fault view of a record. -/
def viewF (s : State) (r : FRec) : List Word :=
  let w := (r.pages.headD 0).toNat
  let t := s.team r.team
  [sat32 r.code, if r.code = 0 then sat32 (w / 2 ^ 10 % 16) else 0, sat32 (w / 2 ^ 8 % 4), sat32 (max 1 (min 4 r.pages.length)),
    sat32 (min r.more 63), sat32 r.core, sat32 r.grid, sat32 (min t.fcount 255), sat32 (s.gang t.gang).runPrio,
    if r.kind = 2 then 1 else 0]

/-- The views of a decision, frozen. -/
def freeze (s : State) (p : Nat) (req : DecReq) : Views :=
  let x := s.part p
  let gs := gangViews s p
  { vq := (List.range 16).map (viewQ s p)
    vs := (List.range x.size).map fun i => viewS s (p + i)
    vp := (List.range 16).map (viewP s gs)
    vf := match req with
      | .fault fid => match tget x.faults fid with
        | some r => viewF s r
        | none => []
      | _ => []
    vg := [sat32 req.kind, sat32 req.pcause, sat32 req.aq, sat32 (8 * x.size), sat32 x.size, BitVec.ofNat 32 s.cycle,
      x.regs.polVer, sat32 x.decReqs.length]
    fits := (List.range 16).map fun q => match readyQ s p q with
      | [] => []
      | e :: _ => fitList s p e.vertex
    ages := (List.range 16).map fun q => match readyQ s p q with
      | [] => 0
      | e :: _ => s.cycle - e.since
    gangs := gs
    nclus := 8 * x.size }

/-- A field of a view. -/
def field0 (xs : List Word) (f : Nat) : Word := xs.getD f 0

/-- Whether a queue has a head, and its cluster of least number, in the views. -/
def Views.head (v : Views) (q : Nat) : Bool := field0 (v.vq.getD q []) 0 != 0
def Views.low (v : Views) (q : Nat) : Option Nat := (v.fits.getD q []).head?

/-! ## The fallback policy (R429) -/

/-- The queue whose head is oldest; of equal ages the highest-numbered. -/
def oldestHead (v : Views) (qs : List Nat) : Option Nat :=
  qs.foldl (fun best q => match best with
    | none => some q
    | some b => if v.ages.getD b 0 ≤ v.ages.getD q 0 then some q else some b) none

/-- Place a queue's head where it fits lowest. -/
def placeLow (v : Views) (q : Nat) : Action :=
  match v.low q with
  | none => .none
  | some c => .place q c

/-- The fallback's dispatch rule. -/
def fallbackDispatch (v : Views) : Action :=
  let heads := (List.range 16).filter v.head
  match oldestHead v (heads.filter fun q => 2 ^ 20 ≤ v.ages.getD q 0) with
  | some q => placeLow v q
  | none => match heads.reverse.find? fun q => (v.low q).isSome with
    | some q => placeLow v q
    | none => .none

/-- The fallback's pre-emption rule. -/
def fallbackPreempt (v : Views) (slice : Bool) (aq : Nat) : Action :=
  match leastBy (·.prio) v.gangs with
  | none => .none
  | some l => match youngest v.gangs l.prio with
    | some g => if slice ∨ l.prio < aq then .preempt g.id else .none
    | none => .none

/-- What the fallback decides. -/
def fallback (v : Views) : DecReq → Action
  | .dispatch => fallbackDispatch v
  | .preempt slice aq => fallbackPreempt v slice aq
  | .fault _ => .escalate

/-! ## Running a program (R420 to R426) -/

/-- The decision that the Trowel in focus is running. -/
def curDec (s : State) : Option (Nat × Decision) :=
  match s.focus with
  | .trowel p => match (s.part p).dec with
    | none => none
    | some d => if d.action.isNone then some (p, d) else none
  | _ => none

def setDec (s : State) (p : Nat) (d : Decision) : State := s.updPart p fun x => { x with dec := some d }

/-- The fallback decides, with an outcome that is counted. -/
def overrun (s : State) (p : Nat) (d : Decision) : State :=
  (setDec s p { d with outcome := 1, action := some (fallback d.views d.req) }).updPart p fun x =>
    { x with regs := { x.regs with overrun := (x.regs.overrun + 1) % 2 ^ 32 } }
def invalidEnd (s : State) (p : Nat) (d : Decision) : State :=
  (setDec s p { d with outcome := 2, action := some (fallback d.views d.req) }).updPart p fun x =>
    { x with regs := { x.regs with invalid := (x.regs.invalid + 1) % 2 ^ 16 } }

/-- A register of the program, and a write of one. -/
def Decision.reg (d : Decision) (n : BitVec 4) : Word := d.regs.getD n.toNat 0
def Decision.put (d : Decision) (n : Nat) (x : Word) : Decision := { d with regs := d.regs.set n x }

/-- Go to a word: the word after a loop's body starts its next iteration, at a cost of one cycle, or ends the loop; a word
beyond it leaves the loop (R422). -/
def polGo (s : State) (p : Nat) (d : Decision) (k : Nat) : State :=
  match d.loop with
  | none => setDec s p { d with pc := k }
  | some l =>
    if k = l.after then
      if l.iter < 15 then
        if 1024 < d.count + 1 then overrun s p d
        else setDec s p ({ d with pc := l.first, count := d.count + 1, loop := some { l with iter := l.iter + 1 } }.put l.d
          (BitVec.ofNat 32 (l.iter + 1)))
      else setDec s p ({ d with pc := k, loop := none }.put l.d 15)
    else if l.after < k then setDec s p { d with pc := k, loop := none }
    else setDec s p { d with pc := k }

/-- A word of the program: its cost is charged first, and one that would pass the budget is not executed (R426). -/
def polWord (s : State) (cost : Decision → Nat) (eff : Nat → Decision → State → State) : State :=
  match curDec s with
  | none => s
  | some (p, d) =>
    if 1024 < d.count + cost d then overrun s p d else eff p { d with count := d.count + cost d } s

/-- A word that writes a register and goes on. -/
def polSet (s : State) (cost : Decision → Nat) (dst : BitVec 4) (f : Decision → Word) : State :=
  polWord s cost fun p d s => polGo s p (d.put dst.toNat (f d)) (d.pc + 1)

/-- LI, LUI, ADDI. -/
def execPolicyLi (d : BitVec 4) (i : BitVec 14) (s : State) : Out := .next (polSet s (fun _ => 1) d fun _ => i.setWidth 32)
def execPolicyLui (d : BitVec 4) (i : BitVec 14) (s : State) : Out :=
  .next (polSet s (fun _ => 1) d fun x => i ++ (x.reg d).setWidth 18)
def execPolicyAddi (d a : BitVec 4) (i : BitVec 14) (s : State) : Out :=
  .next (polSet s (fun _ => 1) d fun x => x.reg a + i.signExtend 32)

/-- A word of two sources. -/
def polAlu (s : State) (d a b : BitVec 4) (f : Word → Word → Word) : State :=
  polSet s (fun _ => 1) d fun x => f (x.reg a) (x.reg b)

/-- The arithmetic words. -/
def execPolicyAdd (d a b : BitVec 4) (s : State) : Out := .next (polAlu s d a b (· + ·))
def execPolicySub (d a b : BitVec 4) (s : State) : Out := .next (polAlu s d a b (· - ·))
def execPolicyAnd (d a b : BitVec 4) (s : State) : Out := .next (polAlu s d a b (· &&& ·))
def execPolicyOr (d a b : BitVec 4) (s : State) : Out := .next (polAlu s d a b (· ||| ·))
def execPolicyXor (d a b : BitVec 4) (s : State) : Out := .next (polAlu s d a b (· ^^^ ·))
def execPolicyShl (d a b : BitVec 4) (s : State) : Out := .next (polAlu s d a b fun x y => x <<< (y.toNat % 32))
def execPolicyShr (d a b : BitVec 4) (s : State) : Out := .next (polAlu s d a b fun x y => x >>> (y.toNat % 32))
def execPolicyMinu (d a b : BitVec 4) (s : State) : Out :=
  .next (polAlu s d a b fun x y => if x.toNat ≤ y.toNat then x else y)
def execPolicyMaxu (d a b : BitVec 4) (s : State) : Out :=
  .next (polAlu s d a b fun x y => if x.toNat ≤ y.toNat then y else x)
def execPolicySltu (d a b : BitVec 4) (s : State) : Out :=
  .next (polAlu s d a b fun x y => if x.toNat < y.toNat then 1 else 0)

/-- The view words. -/
def execPolicyVq (d a f : BitVec 4) (s : State) : Out :=
  .next (polSet s (fun _ => 2) d fun x => field0 (x.views.vq.getD ((x.reg a).toNat % 16) []) f.toNat)
def execPolicyVs (d a f : BitVec 4) (s : State) : Out :=
  .next (polSet s (fun _ => 4) d fun x => field0 (x.views.vs.getD (x.reg a).toNat []) f.toNat)
def execPolicyVp (d a f : BitVec 4) (s : State) : Out :=
  .next (polSet s (fun _ => 4) d fun x => field0 (x.views.vp.getD ((x.reg a).toNat % 16) []) f.toNat)
def execPolicyVf (d f : BitVec 4) (s : State) : Out := .next (polSet s (fun _ => 2) d fun x => field0 x.views.vf f.toNat)
def execPolicyVg (d f : BitVec 4) (s : State) : Out := .next (polSet s (fun _ => 2) d fun x => field0 x.views.vg f.toNat)

/-- The clusters at which the head of the queue in a register fits. -/
def Decision.fitsOf (d : Decision) (a : BitVec 4) : List Nat := d.views.fits.getD ((d.reg a).toNat % 16) []

/-- FIT and FIND (R424). -/
def execPolicyFit (d a b : BitVec 4) (s : State) : Out :=
  .next (polSet s (fun _ => 8) d fun x => if (x.fitsOf a).contains (x.reg b).toNat then 1 else 0)
def execPolicyFind (d a b : BitVec 4) (s : State) : Out :=
  .next (polSet s (fun x => 8 + (x.views.nclus + 7) / 8) d fun x =>
    match (x.fitsOf a).find? fun c => (x.reg b).toNat ≤ c with
    | some c => BitVec.ofNat 32 c
    | none => 0xFFFFFFFF)

/-- A branch: one cycle not taken, two taken (R422). -/
def polBranch (s : State) (i : BitVec 14) (taken : Decision → Bool) : State :=
  polWord s (fun d => 1 + (taken d).toNat) fun p d s => polGo s p d (if taken d then d.pc + 1 + i.toNat else d.pc + 1)

def execPolicyBeq (a b : BitVec 4) (i : BitVec 14) (s : State) : Out := .next (polBranch s i fun d => d.reg a == d.reg b)
def execPolicyBne (a b : BitVec 4) (i : BitVec 14) (s : State) : Out := .next (polBranch s i fun d => d.reg a != d.reg b)
def execPolicyBltu (a b : BitVec 4) (i : BitVec 14) (s : State) : Out :=
  .next (polBranch s i fun d => decide ((d.reg a).toNat < (d.reg b).toNat))
def execPolicyBgeu (a b : BitVec 4) (i : BitVec 14) (s : State) : Out :=
  .next (polBranch s i fun d => decide ((d.reg b).toNat ≤ (d.reg a).toNat))
def execPolicyBra (i : BitVec 14) (s : State) : Out := .next (polBranch s i fun _ => true)

/-- QLOOP (R422). -/
def execQloop (d : BitVec 4) (n : BitVec 14) (s : State) : Out :=
  .next (polWord s (fun _ => 1) fun p x s =>
    setDec s p ({ x with pc := x.pc + 1, loop := some { d := d.toNat, first := x.pc + 1, after := x.pc + 1 + n.toNat, iter := 0 } }.put
      d.toNat 0))

/-- END (R425): an action that the kind or the snapshot does not allow makes the outcome INVALID. -/
def polEnd (s : State) (act : Decision → Action) (ok : Decision → Bool) : State :=
  polWord s (fun _ => 2) fun p d s => if ok d then setDec s p { d with action := some (act d) } else invalidEnd s p d

/-- Whether a decision is about a fault. -/
def faultKind (d : Decision) : Bool := d.req.kind == 2

def execPolicyEndNone (s : State) : Out := .next (polEnd s (fun _ => .none) fun d => !faultKind d)
def execPolicyEndPlace (a b : BitVec 4) (s : State) : Out :=
  .next (polEnd s (fun d => .place ((d.reg a).toNat % 16) (d.reg b).toNat) fun d =>
    d.req.kind == 0 && (d.fitsOf a).contains (d.reg b).toNat)
def execPolicyEndPreempt (a : BitVec 4) (s : State) : Out :=
  .next (polEnd s (fun d => .preempt (d.reg a).toNat) fun d =>
    d.req.kind == 1 && d.views.gangs.any fun g => g.id == (d.reg a).toNat)
def execPolicyEndResume (s : State) : Out := .next (polEnd s (fun _ => .resume) faultKind)
def execPolicyEndSuspend (s : State) : Out := .next (polEnd s (fun _ => .suspend) faultKind)
def execPolicyEndKillteam (s : State) : Out := .next (polEnd s (fun _ => .killteam) faultKind)
def execPolicyEndKillgrid (s : State) : Out := .next (polEnd s (fun _ => .killgrid) faultKind)
def execPolicyEndEscalate (s : State) : Out := .next (polEnd s (fun _ => .escalate) faultKind)

/-- The word that a Trowel reads next. -/
def polFetch (s : State) (p : Nat) : Option Instr :=
  match (s.part p).dec with
  | none => none
  | some d => match d.image[d.pc]? with
    | none => none
    | some w => match decodePolicy w with
      | .ok i => some i
      | .reject _ => none

end Sys2Proof.Machine
end

