-- ==== Sys2Proof/Machine/Trowel.lean ====
section
/-! DEFINITION. Decisions and commits (spec/21: R416 to R418, R426 to R433; spec/22: R441). -/

namespace Sys2Proof.Machine

/-! ## Starting a decision (R416, R418, R420, R429, R430) -/

/-- Whether a decision may start: none is in progress, and no checked image waits for this boundary (R431). -/
def trowelFree (x : Part) : Bool :=
  x.dec.isNone && !(x.commit.any fun c => c.ready.isSome)

/-- The request that is taken next. -/
def nextDec (x : Part) : Option DecReq :=
  match x.decReqs.find? fun r => r.kind == 2 with
  | some r => some r
  | none => match x.decReqs.find? fun r => r.kind == 1 with
    | some r => some r
    | none => x.decReqs.head?

/-- A decision starts with its snapshot. It is the fallback's where no image is active, where FORCE_FB is set, and for a
dispatch where a head has aged; else the program is at word 0. -/
def startDec (s : State) (p : Nat) (req : DecReq) : State :=
  let s := s.updPart p fun x => { x with decReqs := x.decReqs.erase req }
  let v := freeze s p req
  let x := s.part p
  let s := { s with freeCtr := s.freeCtr + 16 }
  let aged := req == .dispatch && (List.range 16).any fun q => v.head q && decide (2 ^ 22 ≤ v.ages.getD q 0)
  let d : Decision :=
    { req := req, start := s.cycle, version := if x.active.isSome then x.regs.polVer else 0, image := x.active.getD [],
      pc := 0, regs := BitVec.ofNat 32 req.kind :: List.replicate 15 0, loop := none, count := 0, views := v, outcome := 0,
      action := none }
  setDec s p (
    if aged then { d with outcome := 4, action := some (fallbackDispatch v) }
    else if x.active.isNone ∨ x.regs.forceFb then { d with outcome := 5, action := some (fallback v req) }
    else d)

/-- Start the next decision if it is of this kind. -/
def decideKind (s : State) (p kind : Nat) : State :=
  let x := s.part p
  if ¬ trowelFree x then s
  else match nextDec x with
    | none => s
    | some req => if req.kind = kind then startDec s p req else s

/-- DISPATCH_DECISION, PREEMPTION_DECISION. -/
def execDispatchDecision (part : Nat) (s : State) : Out := .next (decideKind s part 0)
def execPreemptionDecision (part : Nat) (s : State) : Out := .next (decideKind s part 1)

/-- FAULT_DECISION: one whose team has been killed is dropped (R418). -/
def execFaultDecision (part : Nat) (s : State) : Out :=
  .next (
    let x := s.part part
    if ¬ trowelFree x then s
    else match nextDec x with
      | some (.fault fid) =>
        if (tget x.faults fid).any fun r => (tget s.teams r.team).isSome then startDec s part (.fault fid)
        else sweepFaults (s.updPart part fun x => { x with decReqs := x.decReqs.erase (.fault fid) }) part
      | _ => s)

/-- QUANTUM_EXPIRY (R417). -/
def execQuantumExpiry (part : Nat) (s : State) : Out :=
  .next (
    let x := s.part part
    let q := 1024 * x.regs.quantum
    if q = 0 ∨ s.cycle < x.quantumAt + q then s
    else s.updPart part fun x =>
      { x with quantumAt := x.quantumAt + q,
               decReqs := if queueUse s part = 0 then x.decReqs else x.decReqs ++ [.preempt true 0] })

/-! ## Applying a decision (R418, R441) -/

/-- GANG_PLACEMENT or GANG_RESUMPTION: the next gang of a vertex on a cluster, if it still fits there; a node whose last
gang is placed leaves its queue, and a new dispatch is requested (R413, R414). An error tells whether a write of the node's
record is held, and otherwise that the action is STALE. -/
def placeNext (s : State) (p v c : Nat) : Except Bool State :=
  let k := gridKey p v
  if ¬ hasEntry s p v then .error false
  else match fits s p v c with
    | none => .error false
    | some j0 =>
      match (match againGang s (s.grid k) with
        | some gid => some (resumeGang s gid (absCluster p c) j0)
        | none => placeGang s p v (absCluster p c) j0) with
      | none => .error true
      | some s =>
        let s := if (s.grid k).hasNext then s else dequeue s p v
        .ok (askDispatch s p)

/-- The vertex of a queue's head in the views. -/
def Views.vtx (v : Views) (q : Nat) : Nat := (field0 (v.vq.getD q []) 9).toNat

/-- The action against the present state: an error when it is held, and otherwise when it is STALE. -/
def applyAction (s : State) (p : Nat) (d : Decision) : Action → Except Bool State
  | .none => .ok s
  | .place q c => placeNext s p (d.views.vtx q) c
  | .preempt g =>
    match d.views.gangs.find? fun x => x.id == g with
    | none => .error false
    | some x =>
      if (s.gang x.gang).life = .resident ∧ (tget s.gangs x.gang).isSome then .ok (haltGang s x.gang .saved) else .error false
  | a =>
    match d.req with
    | .fault fid => match tget (s.part p).faults fid with
      | none => .error false
      | some r =>
        if (tget s.teams r.team).isNone then .error false
        else .ok ((faultAction s p fid r a).updTeam r.team fun t => { t with fcount := t.fcount + 1 })
    | _ => .error false

/-- The code of an action (Table 21-4). -/
def Action.code : Action → Nat
  | .none => 0
  | .place .. => 1
  | .preempt _ => 2
  | .resume => 3
  | .suspend => 4
  | .killteam => 5
  | .killgrid => 6
  | .escalate => 7

/-- SUBJECT, ARG0 and ARG1 of a decision (R433). -/
def decArgs (d : Decision) (a : Action) : Nat × Nat × Nat :=
  match d.req with
  | .dispatch => match a with
    | .place q c => (d.views.vtx q, q, c)
    | _ => (0xFFFFFFFF, 0, 0)
  | .preempt .. => match a with
    | .preempt g => match d.views.gangs.find? fun x => x.id == g with
      | some x => (x.vtx, g, d.req.pcause)
      | none => (0xFFFFFFFF, g, d.req.pcause)
    | _ => (0xFFFFFFFF, 0, d.req.pcause)
  | .fault _ => ((field0 d.views.vf 6).toNat, (field0 d.views.vf 5).toNat, (field0 d.views.vf 0).toNat)

/-- The 32 bytes of a decision record (Table 21-7). -/
def decRecord (d : Decision) (a : Action) (outcome : Nat) : List Byte :=
  let x := decArgs d a
  natBytes
    (field d.start 64 192 + field d.version.toNat 32 160 + field x.1 32 128 + field x.2.1 32 96 + field x.2.2 32 64 +
      field d.count 16 48 + field a.code 4 36 + field outcome 8 24 + field d.req.kind 2 0) 32

/-- Decision records that wait are written in their order, as far as their lines may be written (R433, log entry 7). -/
def drainDec (p : Nat) : Nat → State → State
  | 0, s => s
  | fuel + 1, s =>
    let r := (s.part p).regs
    match (s.part p).decQ with
    | [] => s
    | bs :: rest =>
      match devWrite s p (ringBase r.decRing + 32 * (r.decHead % 2 ^ (r.decRing.toNat % 16 + 6))) bs with
      | none => s
      | some s => drainDec p fuel (s.updPart p fun x =>
          { x with decQ := rest, regs := { x.regs with decHead := (x.regs.decHead + 1) % 2 ^ 32 } })

/-- DECISION_RECORD_WRITE: into the decision ring, or dropped where that is full (R433). -/
def writeDecRecord (s : State) (p : Nat) (bs : List Byte) : State :=
  let x := s.part p
  let r := x.regs
  if ¬ r.decRing.getLsbD 4 then s
  else if 2 ^ (r.decRing.toNat % 16 + 6) ≤ (r.decHead + x.decQ.length + 2 ^ 32 - r.decTail) % 2 ^ 32 then
    s.updPart p fun x => { x with regs := { x.regs with lost := (x.regs.lost + 1) % 2 ^ 16 } }
  else drainDec p (x.decQ.length + 1) (s.updPart p fun x => { x with decQ := x.decQ ++ [bs] })

/-- DECISION_APPLY: the action is checked and started, or is STALE; the record is written and the decision ends. -/
def execDecisionApply (part : Nat) (s : State) : Out :=
  .next (match (s.part part).dec with
    | none => s
    | some d => match d.action with
      | none => s
      | some a =>
        let done := fun (s : State) (outcome : Nat) =>
          writeDecRecord (s.updPart part fun x => { x with dec := none }) part (decRecord d a outcome)
        match applyAction s part d a with
        | .error true => s
        | .error false => done s 3
        | .ok s => done (s.stir part) d.outcome)

/-! ## Commits (R427, R431) -/

/-- A write to POLICY_COMMIT. While BUSY is 1 any write is ignored and sets ERR to 6 (R431). -/
def commitWrite (s : State) (p : Nat) (value : DWord) : State :=
  let x := s.part p
  if (tget s.parts p).isNone then s
  else if x.regs.busy then s.setPart p { x with regs := { x.regs with polErr := 6 } }
  else if ¬ value.getLsbD 0 then s
  else
    let src := x.regs.polSrc.toNat
    s.setPart p { x with
      regs := { x.regs with busy := true, polErr := 0 },
      commit := some { version := BitVec.ofNat 32 (value.toNat / 2 ^ 32), src := src % 2 ^ 52 / 4 * 4,
                       len := src / 2 ^ 52 % 256 + 1, ready := none } }

/-- POLICY_COMMIT: a write of the host, which the watchdog counts as progress (R444). -/
def execPolicyCommit (part : Nat) (value : DWord) (s : State) : Out := .next (commitWrite (s.stir part) part value)

/-- Whether the Trowel can read a word: its address is memory of this device or of the host, its home answers, and it is
not poisoned. -/
def canRead (s : State) (pa : Nat) : Bool :=
  (isHbm pa || isTier pa || isHost pa) && !homeOffline s (homeOf pa false) && !poisoned s pa 4

/-- The words of an image; none when one cannot be read. -/
def readImage (s : State) (c : Commit) : Option (List Word) :=
  if (List.range c.len).all fun i => canRead s (c.src + 4 * i) then some (bytesWords (s.rd c.src (4 * c.len))) else none

/-- The bodies of an image's loops: first and last word. -/
def imageLoops (ws : List Word) : List (Nat × Nat) :=
  (numbered 0 ws).filterMap fun e => match decodePolicy e.2 with
    | .ok (.qloop _ n) => if n = 0 then none else some (e.1 + 1, e.1 + n.toNat)
    | _ => none

/-- The offset of a branch word. -/
def branchOffset : Instr → Option Nat
  | .policyBeq _ _ i | .policyBne _ _ i | .policyBltu _ _ i | .policyBgeu _ _ i | .policyBra i => some i.toNat
  | _ => none

/-- Whether a word is an END. -/
def isEnd : Instr → Bool
  | .policyEndNone | .policyEndPlace .. | .policyEndPreempt _ | .policyEndResume | .policyEndSuspend
  | .policyEndKillteam | .policyEndKillgrid | .policyEndEscalate => true
  | _ => false

/-- The lowest code that a word of an image breaks, zero for none (R427, R431). A QLOOP's count outside 1 to 255 is a
loop error. -/
def wordError (loops : List (Nat × Nat)) (len pc : Nat) (w : Word) : Nat :=
  match decodePolicy w with
  | .reject _ => 1
  | .ok i =>
    let inside := fun (t : Nat) (b : Nat × Nat) => decide (b.1 ≤ t) && decide (t ≤ b.2)
    let target := (branchOffset i).map (pc + 1 + ·)
    if target.any fun t => decide (len ≤ t) then 2
    else if target.any fun t => loops.any fun b => inside t b && !inside pc b then 3
    else
      let badLoop := match i with
        | .qloop _ n => n == 0 || decide (255 < n.toNat) || decide (len ≤ pc + n.toNat) || loops.any (inside pc)
        | _ => false
      if badLoop then 3 else if pc + 1 = len ∧ ¬ isEnd i then 4 else 0

/-- The first word that breaks a check, and its code. -/
def imageError (ws : List Word) : Option (Nat × Nat) :=
  let loops := imageLoops ws
  ((numbered 0 ws).map fun e => (e.1, wordError loops ws.length e.1 e.2)).find? fun e => e.2 != 0

/-- POLICY_COMMIT_CHECKS_END. -/
def execPolicyCommitChecksEnd (part : Nat) (s : State) : Out :=
  .next (match (s.part part).commit with
    | none => s
    | some c =>
      if c.ready.isSome then s
      else
        let fails := fun (f : PRegs → PRegs) => s.updPart part fun x =>
          { x with commit := none, regs := f { x.regs with busy := false } }
        match readImage s c with
        | none => fails fun r => { r with polErr := 5 }
        | some ws => match imageError ws with
          | some (pc, code) => fails fun r => { r with polErr := code, polErrW := pc }
          | none => s.updPart part fun x => { x with commit := some { c with ready := some ws } })

/-- POLICY_SLOT_EXCHANGE: at a boundary between two decisions. -/
def execPolicySlotExchange (part : Nat) (s : State) : Out :=
  .next (
    let x := s.part part
    match x.commit with
    | none => s
    | some c => match c.ready with
      | none => s
      | some ws =>
        if x.dec.isSome then s
        else s.setPart part
          { x with active := some ws, commit := none,
                   regs := { x.regs with polVer := c.version, loaded := true, busy := false } })

end Sys2Proof.Machine
end

