-- ==== Sys2Proof/Machine/Sched.lean ====
section
/-! DEFINITION. Which instruction a quarter issues (R183, R184, R196 to R199, R258), the ticks of clocks and scores, the
deadlock test of R190 and the watchdog (R444). -/

namespace Sys2Proof.Machine

/-- Whether the alarm or a trip stops everything (R463, R466). -/
def halted (s : State) : Bool := s.ctrl.alarm || s.ctrl.tripped

/-! ## Fetching an instruction (R24, R35, R58, R147) -/

/-- The addresses that a fetch of an instruction's 12 bytes translates. -/
def fetchVas (pc : Nat) : List Nat :=
  let n := 65536 - pc % 65536
  if 12 ≤ n then [pc] else [pc, pc + n]

/-- Translate a fetch of a wave. -/
def fetchXlat (s : State) (w : Wave) (va : Nat) : Xlat := xlat s w.core (s.partNo w) (s.gridOf w).pasid va .fetch

/-- The runs of an instruction's 12 bytes; none while a page of them is not translated. -/
def fetchPlan (s : State) (w : Wave) (pc : Nat) : Option (List FRun) :=
  let n := min 12 (65536 - pc % 65536)
  match fetchXlat s w pc with
  | .ok pa e =>
    if n = 12 then some [{ va := pc, pa := pa, n := 12, e := e }]
    else match fetchXlat s w (pc + n) with
      | .ok pb d => some [{ va := pc, pa := pa, n := n, e := e }, { va := pc + n, pa := pb, n := 12 - n, e := d }]
      | _ => none
  | _ => none

/-- The byte that a fetch of a core would find: in a valid copy of its L1, or in memory. -/
def peekByte (s : State) (core pa : Nat) : Byte :=
  match l1Hit s core (pa / 128) (s.core core).pts with
  | some (cp, _) => cp.data.getD (pa % 128) 0
  | none => memGet s.mem pa

/-- The bytes that a fetch would find; those of a peer are the free values that follow the first `k`. -/
def peekRuns (s : State) (core : Nat) : Nat → List FRun → List Byte
  | _, [] => []
  | k, x :: xs =>
    if 1024 ≤ homeOf x.pa x.e.ms then freeBytes { s with freeCtr := s.freeCtr + k } x.n ++ peekRuns s core (k + x.n) xs
    else (List.range x.n).map (fun i => peekByte s core (x.pa + i)) ++ peekRuns s core k xs

/-- The word at a program counter as the grouping stage sees it before it issues; none while a page of it is not translated. -/
def fetchWord (s : State) (w : Wave) (pc : Nat) : Option Raw :=
  (fetchPlan s w pc).map fun xs => Raw.unpack (BitVec.ofNat 96 (bytesNat (peekRuns s w.core 0 xs)))

/-- The walks of a fetch that misses are queued, and with a page that faults the wave is suspended (R32, R35). -/
def startFetch (s : State) (id : Nat) (w : Wave) (pc : Nat) : State :=
  let vas := (fetchVas pc).map fun va => (va, Access.fetch)
  let r := xlatAll (.wave id) w vas s
  let faults := xlatFaults vas r.2
  if r.2.any fun x => x == .miss then noteXlat r.1 id vas r.2
  else if faults ≠ [] then faultWave r.1 id (BitVec.ofNat 64 pc) (w.pathAt (BitVec.ofNat 64 pc)) faults
  else r.1

/-- The fetch of the word that issues: its translations are used, and its bytes are read (R31, R58, R64). -/
def takeFetch (s : State) (id : Nat) (w : Wave) (pc : DWord) : State × Bool :=
  match fetchPlan s w pc.toNat with
  | none => (s, false)
  | some xs =>
    match fetchRuns w.core id (s.partNo w) xs (xs.foldl (fun s x => fillTlbs s w.core x.e) s) with
    | (s1, .ok _) => (s1, true)
    | (s1, .error x) => (noFetch s s1 id w pc xs x, false)

/-! ## The running path (R184, R258) -/

/-- Guard and hints of a word. -/
def rawHdr (r : Raw) : Hdr := (hdrOf (waveInstr r)).getD plainHdr

/-- Whether the hints of a word let its path issue. -/
def hintsReady (w : Wave) (r : Raw) : Bool :=
  let h := (rawHdr r).h
  (List.range 4).all (fun i => !h.wait.getLsbD i || w.sbOf i == 0) &&
    (match h.set with
      | none => true
      | some i => decide (w.sbOf i.toNat < 63))

/-- The program counters of a wave's paths: of its free lanes, and of gatherings that are complete and not held. -/
def wavePaths (w : Wave) : List DWord :=
  ((lanesOf (w.live &&& ~~~w.parked &&& ~~~w.held)).map w.pcOf ++
    (w.gathers.filter fun g => w.complete g && g.lanes &&& w.live &&& ~~~w.held != 0).map (·.pc)).eraseDups

/-- Outstanding variable-latency requests of the threads of a path. -/
def pathLoad (s : State) (id : Nat) (m : LaneSet) : Nat :=
  ((s.flights.filter fun f => f.2.wave == id).map fun f => (lanesOf (f.2.left &&& m)).length).foldl (· + ·) 0

/-- A path as the grouping stage sees it: its word, where that is translated. -/
structure PathView where
  pc  : DWord
  raw : Option Raw
  deriving DecidableEq, Repr

def pathViews (s : State) (w : Wave) : List PathView :=
  (wavePaths w).map fun pc => { pc := pc, raw := fetchWord s w pc.toNat }

def PathView.ready (w : Wave) (p : PathView) : Bool := p.raw.any (hintsReady w)
def PathView.latches (p : PathView) : Bool := p.raw.any fun r => (useOf (waveInstr r)).lats != []

/-- The ready path with the fewest requests outstanding, of least PC on a tie. -/
def bestPath (s : State) (id : Nat) (w : Wave) (ps : List PathView) : Option PathView :=
  leastBy (fun p => pathLoad s id (w.pathAt p.pc) * 2 ^ 64 + p.pc.toNat) ps

/-- The running path of a wave, and whether it is chosen afresh. A path whose next word selects a latch stays. -/
def choosePath (s : State) (id : Nat) (w : Wave) : Option (PathView × Bool) :=
  let ps : List PathView := pathViews s w
  let cur : Option PathView := match w.iss.runPc with
    | none => none
    | some pc => ps.find? fun p => p.pc == pc
  let stopped := decide (256 ≤ w.iss.runCount)
  let afresh := stopped || decide (w.iss.lastIssue + 1 < w.iss.stallEnd) || cur.all fun p => p.raw.isSome && !p.ready w
  match cur, afresh with
  | some p, false => some (p, false)
  | _, _ =>
    if cur.any (·.latches) then cur.map fun p => (p, false)
    else
      let rs := ps.filter (·.ready w)
      let others := rs.filter fun p => !(stopped && cur == some p)
      match bestPath s id w (if others = [] then rs else others) with
      | some p => some (p, true)
      | none => match cur with
        | some p => some (p, false)
        | none => (leastBy (fun p => p.pc.toNat) (ps.filter fun p => p.raw.isNone)).map fun p => (p, true)

/-! ## Ready waves (R197, R199) -/

/-- Class of a word: vector ALU for opcodes of nibble 0 to 6 (R196). -/
def rawClass (r : Raw) : IssueClass := if r.op.toNat / 16 ≤ 6 then .alu else .other

/-- A memory instruction (R197). -/
def rawMem (r : Raw) : Bool := r.op.toNat / 16 == 7 || r.op.toNat / 16 == 8

/-- The waves of a quarter. -/
def quarterWaves (s : State) (core q : Nat) : List (Nat × Wave) := (coreWaves s core).filter fun w => w.2.quarter == q

/-- Whether the throttle lets a wave issue memory instructions: the scores of all the quarter's waves count (R199). -/
def throttleOk (s : State) (core q id : Nat) (w : Wave) : Bool :=
  let r := (s.partOf w).regs
  let all := quarterWaves s core q
  let ws := all.filter fun x => x.2.live != 0
  let rank := fun x : Wave => 16 * x.iss.score + x.slot
  !r.thrEn || decide ((all.map (·.2.iss.score)).foldl (· + ·) 0 ≤ r.thrLimit) || decide (s.cycle < w.iss.graceEnd) ||
    decide ((ws.filter fun x => x.1 != id && decide (rank x.2 < rank w)).length < max 2 (ws.length / 2))

/-- A wave with its path, as the quarter's pick sees it. -/
structure Cand where
  id    : Nat
  w     : Wave
  path  : PathView
  fresh : Bool
  deriving DecidableEq, Repr

/-- Whether nothing but its next word holds a wave back: its saved requests go before it (R440). -/
def waveOpen (s : State) (id : Nat) (w : Wave) : Bool :=
  w.blocked == .none && w.susp == .none && decide (w.iss.stallEnd ≤ s.cycle) && (s.teamOf w).life == .resident &&
    w.packets == [] && !waveWaits s id

/-- The waves of a quarter that may be picked for a class, those whose word must be fetched among them. -/
def cands (s : State) (core q : Nat) (cls : IssueClass) : List Cand :=
  (quarterWaves s core q).filterMap fun x =>
    if ¬ waveOpen s x.1 x.2 then none
    else match choosePath s x.1 x.2 with
      | none => none
      | some (p, fresh) =>
        match p.raw with
        | none => if clusterMisses s core < 32 then some { id := x.1, w := x.2, path := p, fresh := fresh } else none
        | some r =>
          if rawClass r = cls ∧ hintsReady x.2 r ∧ (¬ rawMem r ∨ throttleOk s core q x.1 x.2) then
            some { id := x.1, w := x.2, path := p, fresh := fresh }
          else none

/-- The order of picks: waves that lost four arbitrations, then the oldest; ties to the lower wave number. -/
def pickRank (s : State) (c : Cand) : Nat :=
  (if 4 ≤ c.w.iss.lost then 0 else 256 - min 255 (s.cycle - c.w.iss.lastIssue)) * 64 + 16 * c.w.quarter + c.w.slot

/-- The wave picked for a class. One that issued with YLD is passed over in the next cycle while another is ready. -/
def pick (s : State) (core q : Nat) (cls : IssueClass) : Option Cand :=
  let all := cands s core q .alu ++ cands s core q .other
  leastBy (pickRank s) ((cands s core q cls).filter fun c =>
    !(c.w.iss.ylded.any (fun y => y + 1 == s.cycle) && all.any fun x => x.id != c.id))

/-! ## Banks and ports (R198) -/

/-- The bank reads (keys 16 q + 0 to 3), bank writes (16 q + 4 to 7) and engine ports (64 to 66) that a word needs. -/
def portNeeds (q : Nat) (r : Raw) : List Nat :=
  let i := waveInstr r
  let u := useOf i
  let vec := fun xs : List Nat => xs.filter (· < 256)
  (vec (u.regs.drop u.dst.length)).map (fun n => 16 * q + n % 4) ++ (vec u.dst).map (fun n => 16 * q + 4 + n % 4) ++
    (match i with
      | .cpy .. | .ggath .. => [64]
      | .mstart .. | .mstop .. => [66]
      | _ => if r.op.toNat / 16 = 10 then [65] else [])

/-- Uses of a port that one cycle allows. -/
def portLimit (k : Nat) : Nat := if k < 64 ∧ k % 16 < 4 then 2 else 1

/-- Whether needs meet uses of the same cycle beyond a port's limit. -/
def portClash (used : Tbl Nat) (ns : List Nat) : Bool :=
  ns.any fun k => decide (0 < (tget used k).getD 0) && decide (portLimit k < (tget used k).getD 0 + ns.count k)

/-- The uses of a core in this cycle. -/
def portsNow (s : State) (core : Nat) : Tbl Nat := if (s.core core).usedAt = s.cycle then (s.core core).used else []

/-- Uses with more added. -/
def addPorts (used : Tbl Nat) (ns : List Nat) : Tbl Nat := ns.foldl (fun t k => tput t k ((tget t k).getD 0 + 1)) used

/-! ## The issue of one slot -/

/-- The key of a quarter's slot for a class. -/
def slotKey (q : Nat) (cls : IssueClass) : Nat := 2 * q + (if cls = .alu then 0 else 1)
def slotFree (s : State) (core q : Nat) (cls : IssueClass) : Bool :=
  decide ((tget (s.core core).slots (slotKey q cls)).getD 0 ≤ s.cycle)

/-- Whether the power and thermal gaps pause a core's vector-ALU issue and Roller words now (R463). -/
def inGap (s : State) (core : Nat) : Bool := decide (s.cycle % 64 < (s.die (coreDie core)).gap)

/-- The other slots of a core that may still issue in this cycle. -/
def rivals (s : State) (core q : Nat) (cls : IssueClass) : List (Nat × IssueClass) :=
  ((List.range 4).flatMap fun k => [(k, IssueClass.alu), (k, IssueClass.other)]).filter fun y =>
    y != (q, cls) && slotFree s core y.1 y.2 && !(y.2 == .alu && inGap s core)

/-- Whether the wave picked loses its arbitration: to an instruction issued in this cycle, or to an older wave that another
slot would issue. The banks are those of a quarter, the engine ports those of the core. -/
def losesPorts (s : State) (core q : Nat) (cls : IssueClass) (c : Cand) (r : Raw) : Bool :=
  let ns := portNeeds q r
  portClash (portsNow s core) ns ||
    (ns != [] && (rivals s core q cls).any fun y =>
      (pick s core y.1 y.2).any fun x =>
        x.path.raw.any (fun z => portClash (addPorts [] (portNeeds y.1 z)) ns) && decide (pickRank s x < pickRank s c))

/-- A slot is taken until a cycle. -/
def takeSlot (s : State) (core q : Nat) (cls : IssueClass) (till : Nat) : State :=
  s.updCore core fun c => { c with slots := tput c.slots (slotKey q cls) till }

/-- Waves whose memory instruction the throttle refuses count the cycles; the others start afresh (R199). -/
def noteRefusals (s : State) (core q : Nat) : State :=
  (quarterWaves s core q).foldl (fun s x =>
    let refused := waveOpen s x.1 x.2 && (match choosePath s x.1 x.2 with
      | some (p, _) => p.raw.any fun r => rawMem r && hintsReady x.2 r && !throttleOk s core q x.1 x.2
      | none => false)
    let next := if refused then (match x.2.iss.refusedAt with
        | some t => some t
        | none => some s.cycle) else none
    if next = x.2.iss.refusedAt then s
    else s.updWave x.1 fun w => { w with iss := { w.iss with refusedAt := next } }) s

/-- The wave's running path is the one chosen. -/
def takePath (w : Wave) (c : Cand) : Wave :=
  let w := if w.iss.runPc = some c.path.pc then w else w.noLatch
  { w with iss := { w.iss with runPc := some c.path.pc, runCount := if c.fresh then 0 else w.iss.runCount } }

/-- The handle of an HREL, as a key of the uses of a cycle. -/
def hrelKey (w : Wave) (r : Raw) : Option Nat :=
  match waveInstr r with
  | .hrel _ h => some (128 + 64 * w.team + h.toNat)
  | _ => none

/-- Whether a wave of a higher quarter has released the handle in this cycle: HRELs of one cycle are applied in ascending
quarter order, so this one waits for the next (R368). -/
def hrelWaits (s : State) (core q : Nat) (w : Wave) (r : Raw) : Bool :=
  (hrelKey w r).any fun k => decide (q + 1 < (tget (portsNow s core) k).getD 0)

/-- The uses of a word that issues. -/
def noteUses (s : State) (core q : Nat) (w : Wave) (r : Raw) : State :=
  let used := addPorts (portsNow s core) (portNeeds q r)
  let used := match hrelKey w r with
    | none => used
    | some k => tput used k (q + 1)
  s.updCore core fun x => { x with usedAt := s.cycle, used := used }

/-- The waves of a quarter whose saved requests found no free entry of the tracker send what they can (R436). -/
def sendSaved (s : State) (core q : Nat) : State :=
  ((quarterWaves s core q).filter fun x => x.2.packets != [] && x.2.susp == .none && (s.teamOf x.2).life == .resident).foldl
    (fun s x => reissue s x.1) s

/-- The issue slot of a quarter for a class: the state with the picked wave in focus, and its instruction; none where
nothing issues. -/
def issueSlot (s : State) (core q : Nat) (cls : IssueClass) : State × Option Instr :=
  if halted s then (s, none)
  else
    let s := sendSaved (if cls = .other then noteRefusals s core q else s) core q
    if ¬ slotFree s core q cls ∨ (cls = .alu ∧ inGap s core) then (s, none)
    else match pick s core q cls with
      | none => (s, none)
      | some c =>
        match c.path.raw with
        | none => (startFetch (s.setWave c.id (takePath c.w c)) c.id c.w c.path.pc.toNat, none)
        | some r =>
          if losesPorts s core q cls c r then
            (takeSlot (s.setWave c.id { c.w with iss := { c.w.iss with lost := c.w.iss.lost + 1 } }) core q cls (s.cycle + 1), none)
          else if hrelWaits s core q c.w r then (s, none)
          else
            let w := takePath c.w c
            match takeFetch (s.setWave c.id w) c.id w c.path.pc with
            | (s1, false) => (s1, none)
            | (s1, true) =>
              let s1 := takeSlot s1 core q cls (s.cycle + if r.op.toNat / 16 = 5 then 2 else 1)
              ({ noteUses s1 core q w r with focus := .wave c.id }, some (waveInstr r))

/-- The word that a core's Roller performs now. -/
def rollerSlot (s : State) (core : Nat) : State × Option Instr :=
  if halted s ∨ inGap s core then (s, none)
  else match rollerTeam s core with
    | none => (s, none)
    | some (_, t) => match t.stream with
      | none => (s, none)
      | some st => if st.waiting.isSome then (s, none) else ({ s with focus := .roller core }, some (rollWord st))

/-- The policy word that a partition's Trowel performs now. -/
def trowelSlot (s : State) (p : Nat) : State × Option Instr :=
  if halted s then (s, none)
  else match polFetch s p with
    | none => (s, none)
    | some i => ({ s with focus := .trowel p }, some i)

/-! ## Clocks and scores -/

/-- Records that waited for their lines are written where that is possible now (log entry 7). -/
def drainRings (s : State) (p : Nat) : State :=
  let x := s.part p
  drainDec p x.decQ.length (if x.heldF = [] then s else freeWritten (drainHeld p x.heldF.length s) p)

/-- CEILING_ADVANCE (R117): one core cycle. What waited for the ceiling, a host or a die is tried again. -/
def execCeilingAdvance (s : State) : Out :=
  let t := { s with cycle := s.cycle + 1, ceil := s.ceil + 4 }
  .next (if halted s then t else (tkeys s.parts).foldl (fun s p => drainPorts (drainRings s p) p) t)

/-- Whether a die's clock counts: until it is reset itself (Table 22-6). -/
def Die.ticks (d : Die) : Bool :=
  match d.st with
  | .running => true
  | .reset k => decide (k < 6)

/-- The cores of a die tick at multiples of 256 cycles since its last reset (R106). -/
def tickDie (s : State) (d : Nat) : State :=
  let x := s.die d
  if x.ticks ∧ x.clk < s.cycle ∧ (s.cycle - x.clk) % 256 = 0 then
    (List.range 96).foldl (fun s i => s.updCore (96 * d + i) fun c => { c with pts := c.pts + 1 }) s
  else s

/-- PTS_TICK: the ticks of the present cycle, once. -/
def execPtsTick (s : State) : Out :=
  .next (if s.ticked < s.cycle then { (List.range 4).foldl tickDie s with ticked := s.cycle } else s)

/-- THROTTLE_SCORE_HALVING (R199). -/
def execThrottleScoreHalving (s : State) : Out :=
  .next (
    if s.halved / 256 < s.cycle / 256 then
      { s with halved := s.cycle, waves := tmap s.waves fun _ w => { w with iss := { w.iss with score := w.iss.score / 2 } } }
    else s)

/-- THROTTLE_RELEASE (R199): after 4,096 cycles of refusal a wave may issue memory instructions for 256 cycles. -/
def execThrottleRelease (wave : Nat) (s : State) : Out :=
  .next (match tget s.waves wave with
    | none => s
    | some w => match w.iss.refusedAt with
      | none => s
      | some t =>
        if s.cycle < t + 4096 then s
        else s.setWave wave { w with iss := { w.iss with refusedAt := none, graceEnd := s.cycle + 256 } })

/-! ## Deadlock on registers (R190) -/

/-- Whether a live wave of a team is in one of the waits of R190. -/
def claimWait (s : State) (t : Nat) (w : Wave) : Bool :=
  match w.blocked with
  | .claim _ => true
  | .bar n _ _ _ => (barStream s (.team t n)).isNone
  | .gbar n _ _ _ =>
    let k := BarKey.gang (s.team t).gang n
    let p := getPhase s k
    (barWaves s k).all fun i => !(p.stages.any fun m => inStages m (s.wave i).stage) || p.arrived.contains i || (s.wave i).team == t
  | .hwait h _ _ => !(s.hops.any fun o => o.2.team == t && o.2.handle == some h && o.2.started)
  | _ => false

/-- The waves of a team that wait in CLAIM. -/
def claimers (s : State) (t : Nat) : List Nat := (s.teamWaves t).filter fun i => (claimOf (s.wave i)).isSome

/-- Whether a team is deadlocked on registers. -/
def claimDeadlocked (s : State) (t : Nat) : Bool :=
  let x := s.team t
  (tget s.teams t).isSome && x.life == .resident && !x.stopped && claimers s t != [] &&
    (claimers s t).all (fun i => (claimOf (s.wave i)).any fun n => decide (x.reserve < n)) &&
    ((s.teamWaves t).filter fun i => (s.wave i).live != 0).all fun i => (s.wave i).susp == .none && claimWait s t (s.wave i)

/-- TRAP_CLAIM_DEADLOCK. -/
def execTrapClaimDeadlock (team : Nat) (s : State) : Out :=
  .next (
    if claimDeadlocked s team then
      match leastBy (fun i => (s.wave i).idx) (claimers s team) with
      | none => s
      | some i => namedTrap s team i 12 (BitVec.ofNat 64 (s.team team).reserve)
    else s)

/-! ## The watchdog (R219, R444) -/

/-- The resident waves of a partition. -/
def residentWaves (s : State) (p : Nat) : List (Nat × Wave) :=
  s.waves.filter fun e => s.partNo e.2 == p && (s.teamOf e.2).life == .resident

/-- Whether a wave waits in MWAIT on a word of a peer or of the host. -/
def waitsOutside (s : State) (w : Wave) : Bool :=
  match w.blocked with
  | .mwait f => s.reqs.any fun r => r.2.flight == f && (isPeer r.2.pa || isHost r.2.pa)
  | _ => false

/-- WATCHDOG_EXPIRY: the count of a partition, in cycles of 1.5 GHz, has reached PERIOD microseconds. -/
def execWatchdogExpiry (part : Nat) (s : State) : Out :=
  .next (
    let x := s.part part
    let ws := residentWaves s part
    let since := ws.foldl (fun m e => max m e.2.iss.blockedAt) x.wdSince
    if x.regs.wdPeriod = 0 ∨ ws = [] ∨ ¬ ws.all (fun e => countsBlocked s e.2) ∨ s.cycle < since + 1500 * x.regs.wdPeriod then s
    else
      let note := fun f : PRegs → PRegs => s.updPart part fun x => { x with wdSince := s.cycle, regs := f x.regs }
      if ws.any fun e => waitsOutside s e.2 then note fun r => { r with wdExt := true }
      else match leastBy (fun e => e.2.iss.blockedAt * 64 + e.2.idx) ws with
        | none => s
        | some e => namedTrap (note fun r => { r with wdFired := true }) e.2.team e.1 21 (BitVec.ofNat 64 ws.length))

end Sys2Proof.Machine
end

