-- ==== Sys2Proof/Machine/Errors.lean ====
section
/-! DEFINITION. Uncorrectable errors, retirement, the deletion of a partition, floors, limits and the alarm (spec/22: R443;
spec/23: R449 to R452, R463, R466). -/

namespace Sys2Proof.Machine

/-! ## The controller's log -/

/-- The Aqwin controller writes a log entry, which function 0 shows: code 1 a floor rescale, 2 a retirement, 3 an
uncorrectable error (Table 23-12; the codes are the model's, log entry 24). -/
def ctrlLog (s : State) (code : Nat) : State :=
  { s with ctrl := { s.ctrl with log := s.ctrl.log ++ [(s.cycle, code)] } }.updMbox 0 fun m => { m with logN := true }

/-! ## Deletion of a partition (R449) -/

/-- Whether work of a partition is still there: a grid, a gang, or a word of an accumulate. -/
def partWork (s : State) (p : Nat) : Bool :=
  (s.grids.any fun g => g.2.part == p) || s.partGangs p != [] || (s.areqs.any fun r => r.2.key.part == p) ||
    s.clusters.any fun c => (c.2.comb.any fun e => e.2.key.part == p) || c.2.resid.any fun e => e.2.key.part == p

/-- Steps 3 and 4: graphs and snapshots are discarded with the partition's record, its translations and its function's
mailbox go, and its slices are free. -/
def discardPart (s : State) (p : Nat) : State :=
  let s := invalidate s p 2 0 0
  { s with
    parts := tdel s.parts p, mboxes := tdel s.mboxes (p + 1), ctrl := { s.ctrl with ends := tdel s.ctrl.ends (p + 1) },
    clusters := tmap s.clusters fun _ c => if c.owner = some p then { c with owner := none } else c,
    dies := tmap s.dies fun _ d =>
      { d with queue := d.queue.filter (·.part != p), pages := d.pages.filter (·.part != p),
               unrec := d.unrec.filter fun u => u.1.part != p } }

/-- One step of a deletion: every grid is killed, residuals become due, and with no work left the partition is gone. -/
def deleteStep (s : State) (p : Nat) : State :=
  let s := (tsel s.grids fun _ g => g.part == p && !g.killed).foldl (fun s e => killGrid s p e.2.vertex) s
  let s := sweepFaults s p
  let s := (List.range (partClusters s p)).foldl (fun s c => flushCluster s (absCluster p c) p) s
  if partWork s p then s else discardPart s p

/-! ## Retirement (R452) -/

/-- The partition that holds a slice. -/
def sliceOwner (s : State) (slice : Nat) : Option Nat := (s.parts.find? fun e => e.2.owns e.1 slice).map (·.1)

/-- Add a number to a list once. -/
def addNum (n : Nat) (xs : List Nat) : List Nat := if xs.contains n then xs else xs ++ [n]

/-- Retire a unit: 0 a slice, 1 an LPDDR6 controller, 2 a fabric port. The gangs of a slice's partition are pre-empted,
and the partition is deleted once they are saved. -/
def retireUnit (s : State) (kind n : Nat) : State :=
  let s := ctrlLog s 2
  match kind with
  | 0 =>
    let s := { s with ctrl := { s.ctrl with retSlice := addNum n s.ctrl.retSlice } }
    match sliceOwner s n with
    | none => s
    | some p =>
      let s := { s with ctrl := { s.ctrl with deleting := addNum p s.ctrl.deleting } }
      (s.partGangs p).foldl (fun s g => haltGang s g .saved) s
  | 1 => { s with ctrl := { s.ctrl with retTier := addNum n s.ctrl.retTier } }
  | _ => { s with ctrl := { s.ctrl with retPort := addNum n s.ctrl.retPort } }

/-- A partition whose slice has been retired goes on with its deletion. -/
def retireStep (s : State) (p : Nat) : State :=
  if (tget s.parts p).isNone then { s with ctrl := { s.ctrl with deleting := s.ctrl.deleting.filter (· != p) } }
  else if (s.partGangs p).any fun g => (s.gang g).holds then
    (s.partGangs p).foldl (fun s g => if (s.gang g).life = .resident then haltGang s g .saved else s) s
  else deleteStep s p

/-! ## Uncorrectable errors (R443, R452) -/

/-- Cycles of 24 hours at 1.5 GHz. -/
def dayCycles : Nat := 129600000000000

/-- Count an error of a unit; past 16 in 24 hours the unit is retired. -/
def countError (s : State) (kind n : Nat) : State :=
  let k := 64 * kind + n
  let xs := (((tget s.ctrl.errs k).getD []).filter fun t => s.cycle < t + dayCycles) ++ [s.cycle]
  let s := { s with ctrl := { s.ctrl with errs := tput s.ctrl.errs k xs } }
  if 16 < xs.length then retireUnit s kind n else s

/-- The words of a line are poisoned. -/
def poisonLine (s : State) (pa : Nat) : State :=
  let ws := (List.range 32).map fun i => pa / 128 * 32 + i
  { s with poison := s.poison ++ ws.filter fun w => !s.poison.contains w }

/-- The words of a 128-byte line's physical address, and of the storage inside a core, that an error strikes are marked where
they stand; the copies of the L1 of a core serve all its teams (R443). -/
def markCore (s : State) (core unit team place lane : Nat) : State :=
  if unit = 2 then
    match tget (s.core core).l1 place with
    | none => s
    | some cp => s.updCore core fun c => { c with l1 := tput c.l1 place { cp with bad := true } }
  else
    match tget s.teams team with
    | none => s
    | some t =>
      if t.core ≠ core then s
      else match unit with
        | 3 =>
          let g := s.gang t.gang
          let w := localOffset (s.gridOfGang g).nteam t.slot place / 4
          if g.badLoc.contains w then s else s.setGang t.gang { g with badLoc := g.badLoc ++ [w] }
        | 4 => s.updTeam team fun x => { x with badTiles := addNum place x.badTiles }
        | _ =>
          match (s.teamWaves team).find? fun i => (s.wave i).idx == place / 512 with
          | none => s
          | some i => s.updWave i fun w =>
            if w.bad.contains (place % 512, lane) then w else { w with bad := w.bad ++ [(place % 512, lane)] }

/-- UNCORRECTABLE_ERROR: a line, or storage inside a core, is marked poisoned, and the controller logs and counts the error. The
team that consumes the mark takes TRAP_STORAGE (R215, R443): its instruction, its Roller, its load or its copy. -/
def execUncorrectableError (site : ErrSite) (s : State) : Out :=
  .next (match site with
    | .line pa =>
      if isHbm pa then countError (ctrlLog (poisonLine s pa) 3) 0 (pa / Config.stackBytes)
      else if isTier pa then countError (ctrlLog (poisonLine s pa) 3) 1 (Config.tierUnit (pa / 128)).toNat
      else if isHost pa then ctrlLog (poisonLine s pa) 3
      else s
    | .core core unit team place lane =>
      if Config.nCores ≤ core ∨ unit = 0 ∨ 5 < unit then s
      else countError (ctrlLog (markCore s core unit team place lane) 3) 0 (core / 32)
    | .port n => if n < 16 then countError (ctrlLog s 3) 2 n else s)

/-! ## Floors (R450, R451) -/

/-- A of a resource: 256 times the share of its units that work. -/
def floorA (s : State) (n : Nat) : Nat :=
  match n with
  | 1 => 256 * (16 - s.ctrl.retTier.length) / 16
  | 4 => 256 * (16 - s.ctrl.retPort.length) / 16
  | _ => 256

/-- The sum of the requested floors of a resource. -/
def floorSum (s : State) (n : Nat) : Nat := (s.parts.map fun e => (tget e.2.regs.floors n).getD 0).foldl (· + ·) 0

/-- The effective floor for a requested one. -/
def effOf (a sum f : Nat) : Nat := if sum ≤ a then f else f * a / sum

/-- FLOOR_RECOMPUTE. Deletions that a retirement began go on here (log entry 24). -/
def execFloorRecompute (s : State) : Out :=
  .next (
    let s := s.ctrl.deleting.foldl retireStep s
    let s1 := { s with parts := tmap s.parts fun _ p => { p with regs := { p.regs with
      effs := (numbered 0 (List.range 6)).filterMap fun e =>
        let x := effOf (floorA s e.1) (floorSum s e.1) ((tget p.regs.floors e.1).getD 0)
        if x = 0 then none else some (e.1, x) } } }
    if (List.range 6).any fun n => floorA s n < floorSum s n then ctrlLog s1 1 else s1)

/-! ## Limits (R463) -/

/-- MODULE_POWER_LIMIT: the issue gaps of every die rise by 4 for each millisecond over the limit. -/
def execModulePowerLimit (msOver : Nat) (s : State) : Out :=
  .next ((List.range 4).foldl (fun s d => s.updDie d fun x => { x with gap := min 48 (x.gap + 4 * msOver) }) s)

/-- JUNCTION_TEMP_LIMIT: a die pauses for `gap` cycles of each period. -/
def execJunctionTempLimit (die gap : Nat) (s : State) : Out :=
  .next (if die < 4 then s.updDie die fun x => { x with gap := min 48 gap } else s)

/-- HBM_TEMP_LIMIT: the refresh rate of a stack is doubled. -/
def execHbmTempLimit (stack : Nat) (s : State) : Out :=
  .next (if stack < 12 then { s with ctrl := { s.ctrl with halfRate := addNum stack s.ctrl.halfRate } } else s)

/-- Commits, migrations, warm resets and the other mailbox commands end unfinished (R466). -/
def endWork (s : State) : State :=
  { s with
    parts := tmap s.parts fun _ p => { p with commit := none, regs := { p.regs with busy := false }, migr := { p.migr with st := 0, held := [] } },
    mboxes := tmap s.mboxes fun _ m => { m with run := none, going := false, busy := false } }

/-- A trip stops every partition and raises the interrupt of function 0. -/
def trip (s : State) : State :=
  { endWork s with ctrl := { (endWork s).ctrl with tripped := true } }.updMbox 0 fun m => { m with irq := m.irq + 1 }

/-- THERMAL_TRIP, COOLANT_FLOW_TRIP. -/
def execThermalTrip (s : State) : Out := .next (trip s)
def execCoolantFlowTrip (s : State) : Out := .next (trip s)

/-- SECURITY_ALARM (R466): with the ALARM_ERASE fuse blown the key store is erased. -/
def execSecurityAlarm (s : State) : Out :=
  .next { endWork s with ctrl := { (endWork s).ctrl with alarm := true, keys := s.ctrl.keys && !s.ctrl.fuse } }

end Sys2Proof.Machine
end

