-- ==== Sys2Proof/Machine/Migration.lean ====
section
/-! DEFINITION. The live maximum of timestamps, and the migration of a partition (spec/05: R120; spec/23: R453 to
R455). -/

namespace Sys2Proof.Machine

/-! ## The live maximum (R120, R453) -/

/-- The greatest of a list of numbers. -/
def greatest (xs : List Nat) : Nat := xs.foldl max 0

/-- The timestamps of an adjacency list, and of a vertex. -/
def EList.top (l : EList) : Nat := max l.wts l.rts
def Vertex.top (v : Vertex) : Nat := max (max v.out.top v.inn.top) (max v.pwts v.prts)

/-- The greatest timestamp of a graph's engines, but those on a die. -/
def graphTop (skip : Option Nat) (g : Graph) : Nat :=
  let here := fun v : Option Nat => skip.isNone || homeDie (g.owner v) != skip
  max (if here none then max (max g.awts g.arts) (max g.h g.t) else 0)
    (greatest (g.verts.map fun e => if here (some e.1) then e.2.top else 0))

/-- The greatest timestamp that any core, home, retired maximum or lath engine holds, but those of a die, with xts. -/
def liveMax (s : State) (skip : Option Nat) : Nat :=
  let on := fun h : Nat => skip.isNone || homeDie h != skip
  greatest [s.xts,
    greatest (s.cores.map fun e => if skip = some (coreDie e.1) then 0 else e.2.pts),
    greatest (s.lines.map fun e => if on (keyHome e.1) then max e.2.wts e.2.rts else 0),
    greatest (s.homes.map fun e => if on e.1 then max e.2.rw e.2.rd else 0),
    greatest (s.parts.map fun e => max (greatest (e.2.gtab.map (·.2))) (greatest (e.2.graphs.map fun g => graphTop skip g.2)))]

/-! ## Commands (Table 23-4) -/

/-- Change the migration state of a partition. -/
def updMigr (s : State) (p : Nat) (f : Migr → Migr) : State := s.updPart p fun x => { x with migr := f x.migr }

/-- A command that the table does not list for the state. -/
def migErr (s : State) (p : Nat) : State := updMigr s p fun m => { m with err := true }

/-- Whether Table 23-4 lists a command for the present state. RESUME is for a new partition. -/
def migAllows (s : State) (p cmd : Nat) : Bool :=
  match cmd, (s.part p).migr.st with
  | 1, 0 | 2, 0 | 2, 1 | 3, 3 => true
  | 4, 0 => s.partGangs p == [] && s.grids.all fun g => g.2.part != p
  | _, _ => false

/-- A command written to MIG_CTL. A warm reset holds the migration in its state, and the command until its end. -/
def migCommand (s : State) (p cmd : Nat) : State :=
  let m := (s.part p).migr
  let fresh := { Migr.fresh with err := m.err }
  if (tget s.parts p).isNone ∨ cmd = 0 then s
  else if ¬ migAllows s p cmd then migErr s p
  else if (resetDie s).isSome then updMigr s p fun m => { m with held := m.held ++ [cmd] }
  else match cmd, m.st with
    | 1, 0 => updMigr s p fun _ => { fresh with st := 1 }
    | 2, 0 | 2, 1 =>
      let s := updMigr s p fun m => { (if m.st = 0 then fresh else m) with st := 2 }
      let s := (s.partGangs p).foldl (fun s g => haltGang s g .saved) s
      (List.range (partClusters s p)).foldl (fun s c => flushCluster s (absCluster p c) p) s
    | 3, 3 => askDispatch (updMigr s p fun m => { m with st := 0 }) p
    | 4, 0 => updMigr s p fun _ => { fresh with st := 4 }
    | _, _ => s

/-- MIG_CTL commands: writes of the host, which the watchdog counts as progress (R444). -/
def execMigPrecopy (part : Nat) (s : State) : Out := .next (migCommand (s.stir part) part 1)
def execMigStop (part : Nat) (s : State) : Out := .next (migCommand (s.stir part) part 2)
def execMigContinue (part : Nat) (s : State) : Out := .next (migCommand (s.stir part) part 3)
def execMigResume (part : Nat) (s : State) : Out := .next (migCommand (s.stir part) part 4)

/-- A write of CMD with a value that is no command (R454). -/
def execMigCtlInvalidCommand (part : Nat) (cmd : BitVec 3) (s : State) : Out :=
  .next (if 5 ≤ cmd.toNat ∧ (tget s.parts part).isSome then migErr (s.stir part) part else s)

/-- Whether a partition still has work on the way: a request that has not been performed, an access of the scheduler to a
peer, or a record that waits for a free entry of the table of pending pages (log entry 25). -/
def partOnWay (s : State) (p : Nat) : Bool :=
  (s.reqs.any fun r => r.2.part == p) || (s.dies.any fun d => d.2.unrec.any fun u => u.1.part == p) ||
    (s.part p).firings.any fun f => f.2.stage != 0 && f.2.answer.isNone

/-- STOPPING_END: every gang has left its cores, no decision is pending, every residual is delivered. -/
def execStoppingEnd (part : Nat) (s : State) : Out :=
  .next (
    let x := s.part part
    let busy := ((s.partGangs part).any fun g => (s.gang g).holds) || x.dec.isSome || x.decReqs != [] ||
      partOnWay s part || (s.areqs.any fun r => r.2.key.part == part) ||
      s.clusters.any fun c => (c.2.comb.any fun e => e.2.key.part == part) || c.2.resid.any fun e => e.2.key.part == part
    if x.migr.st ≠ 2 ∨ busy ∨ (resetDie s).isSome then s
    else updMigr s part fun m => { m with st := 3, kind := 0, off := 0 })

/-! ## The source (R455) -/

/-- The first byte and the size of a partition's HBM. -/
def partBase (p : Nat) : Nat := p * Config.stackBytes
def partBytes (s : State) (p : Nat) : Nat := (s.part p).size * Config.stackBytes

/-- Payload of a chunk. -/
def pieceBytes : Nat := 4032

/-- The cells of memory in a range. -/
def cellsIn (m : List Host.Cell) (a n : Nat) : List Host.Cell := m.filter fun c => a ≤ c.1 && c.1 < a + n

/-- The least address at which two memories differ. -/
def firstDiff (a b : List Host.Cell) : Option Nat :=
  ((a.filter fun c => !b.contains c) ++ (b.filter fun c => !a.contains c)).map (·.1) |>.min?

/-- The offset of the next piece of HBM to stream: of the first pass, and then of one that was written after it was
streamed. -/
def nextPiece (s : State) (p : Nat) : Option Nat :=
  let m := (s.part p).migr
  if m.pass < partBytes s p then some m.pass
  else (firstDiff (cellsIn s.mem (partBase p) (partBytes s p)) m.shadow).map fun a =>
    (a - partBase p) / pieceBytes * pieceBytes

/-- What migration carries of a partition. -/
def imageOf (s : State) (p : Nat) : PartImage :=
  let gs := tsel s.gangs fun _ g => g.part == p
  let ts := tsel s.teams fun _ t => (tget gs t.gang).isSome
  let ws := tsel s.waves fun _ w => (tget ts w.team).isSome
  { no := p, part := s.part p, gangs := gs, teams := ts, waves := ws,
    flights := tsel s.flights fun _ f => (tget ws f.wave).isSome, hops := tsel s.hops fun _ o => (tget ts o.team).isSome,
    grids := tsel s.grids fun _ g => g.part == p, bound := s.nextId,
    toks := tsel s.toks fun k _ => ws.any fun w => w.2.packets.any fun q => q.req.token == some k }

/-- A chunk is streamed. -/
def emit (s : State) (p kind addr : Nat) (data : List Byte) : State :=
  updMigr s p fun m =>
    { m with seq := m.seq + 1, last := some { kind := kind, seq := m.seq % 2 ^ 32, addr := addr, rsv := 0, data := data } }

/-- A piece of HBM is streamed. -/
def emitPiece (s : State) (p off : Nat) : State :=
  let n := min pieceBytes (partBytes s p - off)
  let a := partBase p + off
  let s := updMigr s p fun m =>
    { m with pass := max m.pass (off + n),
             shadow := cellsIn m.shadow 0 a ++ cellsIn s.mem a n ++ cellsIn m.shadow (a + n) Config.physEnd }
  emit s p 0 off (s.rd a n)

/-- The chunks behind HBM: the streams of kinds 1 to 5, the timestamp M, and the end chunk. -/
def emitRest (s : State) (p : Nat) : Nat → State
  | 0 => s
  | fuel + 1 =>
    let m := (s.part p).migr
    if m.kind = 0 then emitRest (updMigr s p fun m => { m with kind := 1, off := 0 }) p fuel
    else if m.kind ≤ 5 then
      let bs := Config.imageStream m.kind (imageOf s p)
      if m.off < bs.length then
        emit (updMigr s p fun m => { m with off := m.off + pieceBytes }) p m.kind m.off ((bs.drop m.off).take pieceBytes)
      else emitRest (updMigr s p fun m => { m with kind := m.kind + 1, off := 0 }) p fuel
    else if m.kind = 6 then
      emit (updMigr s p fun m => { m with kind := 255 }) p 6 0 (natBytes (liveMax s none) 8)
    else if m.kind = 255 then emit (updMigr s p fun m => { m with kind := 256 }) p 255 0 []
    else s

/-- MIGRATION_CHUNK_READ: the next chunk of the source, if there is one. -/
def execMigrationChunkRead (part : Nat) (s : State) : Out :=
  .next (
    let m := (s.part part).migr
    if (tget s.parts part).isNone ∨ (m.st ≠ 1 ∧ m.st ≠ 3) then s
    else match if m.kind = 0 then nextPiece s part else none with
      | some off => emitPiece s part off
      | none => if m.st = 3 then emitRest s part 8 else s)

/-! ## The destination (R453, R455) -/

/-- How an image moves: what is added to serial numbers, the old and the new partition. -/
structure Move where
  d    : Nat
  from_ : Nat
  dest : Nat
  cyc  : Nat
  low  : Nat
  deriving DecidableEq, Repr

/-- A serial number, a core, a cluster, and an address of HBM, moved. -/
def Move.id (m : Move) (n : Nat) : Nat := n + m.d
def Move.core (m : Move) (n : Nat) : Nat := n + 32 * m.dest - 32 * m.from_
def Move.clus (m : Move) (n : Nat) : Nat := n + 8 * m.dest - 8 * m.from_
def Move.pa (m : Move) (a : Nat) : Nat := if isHbm a then a + partBase m.dest - partBase m.from_ else a

/-- Move the keys of a table. -/
def moveKeys {α : Type} (f : Nat → Nat) (g : α → α) (t : Tbl α) : Tbl α := t.map fun e => (f e.1, g e.2)

def Move.phase (m : Move) (p : Phase) : Phase := { p with arrived := p.arrived.map m.id, carried := p.carried.map m.id }

def Move.blocked (m : Move) : Blocked → Blocked
  | .fence ops t => .fence (ops.map m.id) t
  | .mwait f => .mwait (m.id f)
  | .gwaitlow g t f => .gwaitlow g t (m.id f)
  | .hwait h full f => .hwait h full (m.id f)
  | b => b

/-- A saved packet: its request goes to the home of the moved line. -/
def Move.packet (m : Move) (p : Packet) : Packet :=
  let r := p.req
  let pa := m.pa r.pa
  { seq := m.id p.seq, req := { r with
      core := m.core r.core, wave := m.id r.wave, part := m.dest, flight := m.id r.flight, pa := pa,
      home := if r.home < 768 then homeOf pa false else if r.home < 780 then homeOf pa true else r.home } }

def Move.wave (m : Move) (w : Wave) : Wave :=
  { w with core := m.core w.core, team := m.id w.team, ops := w.ops.map fun o => { o with id := m.id o.id },
           blocked := m.blocked w.blocked, packets := w.packets.map m.packet, xpages := [], xfault := [],
           iss := { w.iss with blockedAt := m.cyc } }

def Move.team (m : Move) (t : Team) : Team :=
  { t with gang := m.id t.gang, core := m.core t.core, claims := t.claims.map m.id,
           handles := tmap t.handles fun _ h => { h with op := m.id h.op }, bars := tmap t.bars fun _ p => m.phase p,
           stream := t.stream.map fun x => { x with wave := m.id x.wave },
           mfetch := t.mfetch.map fun x => { x with wave := m.id x.wave },
           mqueue := t.mqueue.map fun x => { x with wave := m.id x.wave },
           joined := moveKeys (fun k => k + 4 * m.d) (fun x => x) t.joined, savedPts := max t.savedPts m.low, resumedAt := 0 }

def Move.gang (m : Move) (g : Gang) : Gang :=
  { g with part := m.dest, core0 := m.core g.core0, gbars := tmap g.gbars fun _ p => m.phase p, haltAt := m.cyc, offline := none }

def Move.flight (m : Move) (f : Flight) : Flight := { f with wave := m.id f.wave }

def Move.hop (m : Move) (o : HodOp) : HodOp :=
  { o with cluster := m.clus o.cluster, team := m.id o.team, expect := o.expect.map m.id,
           segs := o.segs.map fun x => { x with wave := m.id x.wave },
           parts := tmap o.parts fun _ p => { p with wave := m.id p.wave },
           gather := o.gather.map fun k => { k with wave := m.id k.wave } }

def Move.grid (m : Move) (g : Grid) : Grid :=
  { g with part := m.dest, again := g.again.map m.id, clusters := g.clusters.map m.clus, waitFor := g.waitFor.map m.id }

def Move.frec (m : Move) (r : FRec) : FRec :=
  { r with part := m.dest, core := m.core r.core, team := m.id r.team, waveId := m.id r.waveId, hod := r.hod.map m.id }

def Move.graph (m : Move) (g : Graph) : Graph := { g with segs := g.segs.map fun x => { x with pa := m.pa x.pa } }

/-- The partition's own record: its areas and its peers stay those of the destination, and its quota is one that the host has
just written (R129). -/
def Move.part (m : Move) (old x : Part) : Part :=
  { x with
    size := old.size, imgBase := old.imgBase, imgSize := old.imgSize, slots := old.slots, portQ := old.portQ, peers := old.peers,
    migr := { old.migr with st := 0, held := [] }, reserved := moveKeys m.id (fun x => x) x.reserved, graphs := tmap x.graphs fun _ g => m.graph g,
    faults := tmap x.faults fun _ r => m.frec r, queues := tmap x.queues fun _ q => q.map fun e => { e with since := m.cyc },
    waitQ := x.waitQ.map fun e => { e with since := m.cyc }, quantumAt := m.cyc, wdSince := m.cyc, inval := none,
    firings := tmap x.firings fun _ f => { f with sent := 0 },
    regs := { x.regs with tlbBusy := false, quotaOld := quotaOf old.regs (m.cyc / 32), quotaWin := m.cyc / 32 } }

/-- The tokens of saved packets are new ones of this device, with the results that the homes of the source keep for them (R437,
log entry 25). -/
def freshTokens (toks : Tbl TokEntry) (s : State) (w : Nat) : State :=
  let x := s.wave w
  let r := x.packets.foldl (fun (a : List Packet × State) p =>
    match p.req.token with
    | none => (a.1 ++ [p], a.2)
    | some old =>
      let (tok, s) := newToken a.2 (coreCluster x.core) (some w)
      let s := match tget toks old with
        | none => s
        | some e => { s with toks := tput s.toks tok { e with home := p.req.home } }
      (a.1 ++ [{ p with req := { p.req with token := some tok } }], s)) ([], s)
  r.2.setWave w { x with packets := r.1 }

/-- The timestamps that RESUMING raises: every home's retired maxima, and the ceiling. -/
def raiseHomes (s : State) (m : Nat) : State :=
  let t := m + 2 ^ 20
  let s := (List.range 796).foldl (fun s h => s.updHome h fun x => { x with rw := max x.rw t, rd := max x.rd t }) s
  { s with ceil := max s.ceil (m + 2 ^ 21) }

/-- The image of the stream becomes the partition. -/
def takeImage (s : State) (p : Nat) (img : PartImage) (low : Nat) : State :=
  let m : Move := { d := s.nextId, from_ := img.no, dest := p, cyc := s.cycle, low := low }
  let s := { s with
    nextId := m.d + img.bound + 1,
    gangs := s.gangs ++ moveKeys m.id m.gang img.gangs, teams := s.teams ++ moveKeys m.id m.team img.teams,
    waves := s.waves ++ moveKeys m.id m.wave img.waves,
    flights := s.flights ++ moveKeys m.id m.flight img.flights,
    hops := s.hops ++ moveKeys m.id m.hop img.hops,
    grids := img.grids.foldl (fun (t : Tbl Grid) (e : Nat × Grid) => tput t (gridKey p e.2.vertex) (m.grid e.2)) s.grids }
  let s := s.setPart p (m.part (s.part p) img.part)
  (img.waves.map fun e => m.id e.1).foldl (freshTokens img.toks) s

/-- The end chunk: the partition is RUNNING with what the stream held. -/
def migEnd (s : State) (p : Nat) : State :=
  let m := (s.part p).migr
  let top := bytesNat ((tget m.taken 6).getD [])
  let s := raiseHomes s top
  let s := match Config.readStreams ((List.range 5).map fun i => (tget m.taken (i + 1)).getD []) with
    | none => s
    | some img => takeImage s p img (top + 2 ^ 20)
  askDispatch (updMigr s p fun x => { x with st := 0, taken := [] }) p

/-- What a warm reset has held of a migration is done (R453). -/
def migHeld (s : State) (p : Nat) : State :=
  let xs := (s.part p).migr.held
  xs.foldl (fun s c => if c = 255 then migEnd s p else migCommand s p c) (updMigr s p fun m => { m with held := [] })

/-- Whether a chunk is taken: the next one, of a known kind, with no reserved bit set, and within its stream. -/
def chunkOk (s : State) (p : Nat) (c : Chunk) : Bool :=
  let m := (s.part p).migr
  c.rsv == 0 && c.seq == m.seq % 2 ^ 32 && (c.kind ≤ 6 || c.kind == 255) && c.data.length ≤ pieceBytes &&
    (if c.kind = 0 then decide (c.addr + c.data.length ≤ partBytes s p)
     else if c.kind = 6 then c.data.length == 8
     else if c.kind = 255 then c.data == []
     else c.addr == ((tget m.taken c.kind).getD []).length)

/-- MIGRATION_CHUNK_WRITE (R455). -/
def execMigrationChunkWrite (part : Nat) (c : Chunk) (s : State) : Out :=
  .next (
    if (tget s.parts part).isNone ∨ (s.part part).migr.st ≠ 4 then s
    else if ¬ chunkOk s part c then migErr s part
    else
      let s := updMigr s part fun m => { m with seq := m.seq + 1 }
      match c.kind with
      | 0 =>
        let a := partBase part + c.addr
        (clearPoison s a c.data.length).wr a c.data
      | 255 => if (resetDie s).isSome then updMigr s part fun m => { m with held := m.held ++ [255] } else migEnd s part
      | k => updMigr s part fun m => { m with taken := tput m.taken k ((tget m.taken k).getD [] ++ c.data) })

end Sys2Proof.Machine
end

