-- ==== Sys2Proof/Machine/Reset.lean ====
section
/-! DEFINITION. The warm reset of a die and its re-admission (spec/22: R446, R447; spec/05: R120), the full-device reset
(R118) and the bring-up (spec/23: R462, R464). -/

namespace Sys2Proof.Machine

/-! ## Warm reset of a die -/

/-- The gangs that hold cores of a die. -/
def dieGangs (s : State) (d : Nat) : List Nat := (s.gangs.filter fun e => e.2.holds && coreDie e.2.core0 == d).map (·.1)

/-- Whether a home lies on a die. -/
def onDie (d home : Nat) : Bool := homeDie home == some d

/-- A warm reset begins with step 1. -/
def startReset (s : State) (d : Nat) : State := s.updDie d fun x => { x with st := .reset 1 }

/-- Whether a request is one that homes or lath engines of a die hold. -/
def heldOn (s : State) (d : Nat) (r : Req) : Bool :=
  r.holds && match r.kind with
    | .graph gid op => (graphOwners s r gid op).any fun x => onDie d x.1
    | _ => onDie d r.home

/-- Whether the homes of a die still hold requests, accumulates among them. -/
def dieHolds (s : State) (d : Nat) : Bool :=
  (s.reqs.any fun e => heldOn s d e.2) || (s.unitQ.any fun q => onDie d q.1 && q.2 != []) ||
    s.mustQ.any fun q => onDie d (q.1 / 128) && q.2 != []

/-- Whether requests of the die's clusters are on its links. -/
def dieLinks (s : State) (d : Nat) : Bool := s.areqs.any fun e => clusterDie e.2.cluster == d

/-- The end of step 3: dirty lines are written back, and the monitors are lost. -/
def stopHomes (s : State) (d : Nat) : State :=
  let s := (tsel s.lines fun k _ => onDie d (keyHome k)).foldl (fun s e => cleanLine s e.1) s
  { s with monitors := tsel s.monitors fun _ m => !onDie d m.home }

/-- Step 6: copies, translations and tag arrays of the die are gone, the host's marks among them (R120), and what clusters hold
of accumulates stays with them (log entry 26). Records that waited for an entry of the die's table of pending pages are
written. -/
def clearDie (s : State) (d : Nat) : State :=
  let s := (tsel s.lines fun k _ => onDie d (keyHome k)).foldl (fun s e => evictLine s e.1) s
  let x := s.die d
  let s := { s with
    cores := tmap s.cores fun c k => if coreDie c = d then { Core.fresh with pts := k.pts } else k,
    clusters := tmap s.clusters fun c k => if clusterDie c = d then { k with tlb := [] } else k }
  let s := s.setDie d { x with clk := s.cycle, tlb := [], walks := [], queue := [], pages := [], unrec := [] }
  x.unrec.foldl (fun s u => recordFault s d u.1 u.2) s

/-- The homes of a die. -/
def dieHomes (d : Nat) : List Nat := (List.range 192).map (192 * d + ·) ++ (List.range 3).map (768 + 3 * d + ·)

/-- Whether the reset of a die has suspended a gang, and not an escalation, which only the host ends (R441). -/
def Gang.awaits (g : Gang) (d : Nat) : Bool :=
  g.offline == some d && g.life != .escalated && !(g.life == .halting && g.goal == .escalated)

/-- Step 7: the die is re-admitted under R120, residual groups aimed at it may be due again (R136), the gangs that its
reset suspended re-enter their queues, and what it has held of migrations is done (R453). -/
def readmit (s : State) (d : Nat) : State :=
  let f := liveMax s (some d) + 2 ^ 20
  let s := (dieHomes d).foldl (fun s h => s.updHome h fun x => { x with rw := f, rd := f }) s
  let s := (List.range 96).foldl (fun s i => s.updCore (96 * d + i) fun c => { c with pts := f }) s
  let s := { s with
    ceil := max s.ceil (f + 2 ^ 20),
    clusters := tmap s.clusters fun _ c =>
      { c with told := c.told.filter (· != d),
               resid := tmap c.resid fun _ e => if onDie d e.home then { e with born := s.cycle } else e },
    ctrl := { s.ctrl with doneReset := addNum d s.ctrl.doneReset } }
  let s := s.updDie d fun x => { x with st := .running, gen := (x.gen + 1) % 256 }
  let s := (tkeys s.parts).foldl migHeld ((tkeys (tsel s.gangs fun _ g => g.awaits d)).foldl releaseGang s)
  (tkeys (tsel s.parts fun p x => (List.range 3).any fun i => x.owns p (3 * d + i))).foldl askDispatch s

/-- DIE_READMISSION: the next step of a die's warm reset, once the step before it has ended (Table 22-6). Step 5 is what
the homes answer from step 3 on; in step 3 they perform what they hold. -/
def execDieReadmission (die : Nat) (s : State) : Out :=
  .next (
    let go := fun (s : State) (k : Nat) => s.updDie die fun x => { x with st := .reset k }
    match (s.die die).st with
    | .running => s
    | .reset 1 => go ((dieGangs s die).foldl (fun s g => haltGang s g .saved) s) 2
    | .reset 2 => if dieGangs s die ≠ [] then s else go s 3
    | .reset 3 => if dieHolds s die then s else go (stopHomes s die) 4
    | .reset 4 => if dieLinks s die then s else go (clearDie s die) 6
    | .reset _ => readmit s die)

/-! ## Resets of the device -/

/-- What storage holds under the dirty lines of caches that are cleared. -/
def dropDirty (s : State) : State :=
  s.lines.foldl (fun s e => if e.2.dirty then s.wr (keyAddr e.1) e.2.backing else s) s

/-- The state after a reset at the present cycle: the controller and what its reset leaves of memory are given; the model's
own agenda and numbers go on. -/
def resetState (s : State) (ctrl : Ctrl) (mem : List Host.Cell) (poison : List Nat) : State :=
  { State.reset with
    agenda := s.agenda, nextId := s.nextId, freeCtr := s.freeCtr, cycle := s.cycle, ticked := s.cycle, halved := s.cycle,
    dies := (List.range 4).map fun d => (d, { Die.fresh with clk := s.cycle }), mem := mem, poison := poison, ctrl := ctrl }

/-- FULL_DEVICE_RESET (R118): timestamps are rebased, partitions are gone, caches are cleared; the retirement record, the
firmware and the memories stay. -/
def execFullDeviceReset (s : State) : Out :=
  .next (resetState s { s.ctrl with doneReset := [], ends := [], deleting := [] } (dropDirty s).mem s.poison)

/-- POWER_ON: the bring-up of Table 23-7. The controller verifies its firmware and comes up in recovery mode when it fails
(R464); the retirement record is in its flash. Of the memories only the host's keep their contents. -/
def execPowerOn (s : State) : Out :=
  .next (resetState s
    { Ctrl.reset with
      recovery := !Config.imageVerifies s.ctrl.firmware, fuse := s.ctrl.fuse, keys := s.ctrl.keys, firmware := s.ctrl.firmware,
      retSlice := s.ctrl.retSlice, retTier := s.ctrl.retTier, retPort := s.ctrl.retPort, errs := s.ctrl.errs, log := s.ctrl.log }
    ((dropDirty s).mem.filter fun c => isHost c.1) [])

end Sys2Proof.Machine
end

