-- ==== Sys2Proof/Machine/Mailbox.lean ====
section
/-! DEFINITION. The mailboxes and their commands (spec/23: R449, R457, R458, R464). -/

namespace Sys2Proof.Machine

/-! ## Commands that run (R457) -/

/-- Whether a function is there (R456). -/
def fnPresent (s : State) (fn : Nat) : Bool := fn == 0 || (tget s.parts (fn - 1)).isSome

/-- What a running command will report. -/
def endCmd (s : State) (fn code : Nat) (res : List DWord) : State :=
  { s with ctrl := { s.ctrl with ends := tput s.ctrl.ends fn { code := code, res := res } } }

/-- A running command has begun. -/
def goCmd (s : State) (fn : Nat) : State := s.updMbox fn fun m => { m with going := true }

/-- An argument as a number. -/
def argN (args : List DWord) (n : Nat) : Nat := (args.getD n 0).toNat

/-! ## PART_CREATE (R448, R449) -/

/-- A legal run (Table 23-1). -/
def legalRun (first size : Nat) : Bool := [1, 2, 3, 4, 6, 12].contains size && first % size == 0 && decide (first + size ≤ 12)

/-- Whether an area lies in the stacks of a run. -/
def inStacks (first size base n : Nat) : Bool :=
  decide (partBase first ≤ base) && decide (base + n ≤ partBase first + size * Config.stackBytes)

/-- The descriptor of a task graph: VPS 6 and EPS 1. -/
def taskDesc (base size vcap : Nat) : Nat := base + 2 ^ 64 * size + 2 ^ 128 * vcap + 2 ^ 168 * 6 + 2 ^ 171

/-- The status of a PART_CREATE. -/
def createCode (s : State) (args : List DWord) : Nat :=
  let first := argN args 0 % 16
  let size := argN args 0 / 256 % 16
  let ib := argN args 1
  let il := argN args 2
  let gb := argN args 3
  let gl := argN args 4
  let vcap := argN args 5
  let clusters := (List.range (8 * size)).map (8 * first + ·)
  if argN args 0 / 2 ^ 12 ≠ 0 ∨ argN args 0 / 16 % 16 ≠ 0 ∨ ¬ legalRun first size ∨ ib % 65536 ≠ 0 ∨ il % 65536 ≠ 0 ∨
      il < 2 ^ 26 * size ∨ gb % 65536 ≠ 0 ∨ ¬ inStacks first size ib il ∨ ¬ inStacks first size gb gl ∨
      (ib < gb + gl ∧ gb < ib + il) ∨ 2 ^ 32 ≤ vcap ∨ badDesc (taskDesc gb gl vcap) then 2
  else if (List.range size).any fun i => s.ctrl.retSlice.contains (first + i) then 3
  else if (List.range size).any fun i => (sliceOwner s (first + i)).isSome then 4
  else if clusters.any fun c => (s.cluster c).resid != [] then 5
  else 0

/-- The task graph of a new partition, mapped by the device itself, in pages of 64 KiB (log entry 63). -/
def taskGraph (t base size vcap : Nat) : Graph :=
  { vcap := vcap, psize := 256, eps := true, base := base, size := size, pasid := 0,
    segs := [{ off := 0, pa := base, len := size, code := 0 }], t := t, awts := 0, arts := 0, h := 0, maxT := 0, verts := [] }

/-- A partition with every register at its reset value. -/
def newPart (s : State) (args : List DWord) : State :=
  let first := argN args 0 % 16
  let size := argN args 0 / 256 % 16
  let p : Part :=
    { Part.fresh with
      size := size, imgBase := argN args 1, imgSize := argN args 2,
      graphs := [(0, taskGraph s.xts (argN args 3) (argN args 4) (argN args 5))], gtab := [(0, s.xts)], quantumAt := s.cycle,
      wdSince := s.cycle }
  (List.range (8 * size)).foldl (fun s i => s.updCluster (8 * first + i) fun c => { c with owner := some first })
    ((s.setPart first p).setMbox (first + 1) Mbox.fresh)

/-- PART_CREATE, held while a warm reset runs. -/
def cmdCreate (s : State) (args : List DWord) : State :=
  if (resetDie s).isSome then s
  else
    let code := createCode s args
    if code = 0 then endCmd (newPart s args) 0 0 [BitVec.ofNat 64 (argN args 0 % 16)] else endCmd s 0 code []

/-! ## The other commands of function 0 -/

/-- PART_DELETE, held while a warm reset runs. -/
def cmdDelete (s : State) (args : List DWord) (going : Bool) : State :=
  let p := argN args 0
  let there := fun s : State => (tget s.parts p).isSome
  if (resetDie s).isSome then s
  else if ¬ going ∧ ¬ there s then endCmd s 0 6 []
  else
    let s := goCmd (if there s then deleteStep s p else s) 0
    if there s then s else endCmd s 0 0 []

/-- WARM_RESET: a second one is held until the first die is re-admitted (R447). -/
def cmdWarm (s : State) (args : List DWord) (going : Bool) : State :=
  let d := argN args 0
  if 4 ≤ d then endCmd s 0 2 []
  else if going then
    if s.ctrl.doneReset.contains d then
      endCmd { s with ctrl := { s.ctrl with doneReset := s.ctrl.doneReset.filter (· != d) } } 0 0 []
    else s
  else if (resetDie s).isSome then s
  else goCmd (startReset s d) 0

/-- RECOVER: the image is read from host memory, verified and written to flash, and the bring-up goes on (R464). -/
def cmdRecover (s : State) (args : List DWord) : State :=
  let a := argN args 0
  let n := argN args 1
  if ¬ s.ctrl.recovery then endCmd s 0 7 []
  else if a % 4096 ≠ 0 ∨ Config.physEnd < Config.hostBase + a + n then endCmd s 0 2 []
  else
    let image := s.rd (Config.hostBase + a) n
    if Config.imageVerifies image then endCmd { s with ctrl := { s.ctrl with firmware := image, recovery := false } } 0 0 []
    else endCmd s 0 2 []

/-- RETIRE (R452). -/
def cmdRetire (s : State) (args : List DWord) : State :=
  let k := argN args 0
  let n := argN args 1
  let size := if k = 0 then 12 else 16
  if 3 ≤ k ∨ size ≤ n then endCmd s 0 2 [] else endCmd (retireUnit s k n) 0 0 []

/-! ## The commands of a partition's function -/

/-- The gangs that GRID and q name. -/
def namedGangs (s : State) (p grid q : Nat) : List Nat :=
  (s.gridGangs p grid).filter fun g => q == 0xFFFFFFFF || (s.gang g).q == q

/-- Whether a gang is suspended, or about to be. -/
def Gang.isHeld (g : Gang) : Bool :=
  g.life == .suspended || g.life == .escalated || (g.life == .halting && g.goal != .saved)

/-- RESUME: suspended gangs are released. -/
def cmdResume (s : State) (p fn : Nat) (args : List DWord) : State :=
  if 2 ^ 32 ≤ argN args 0 ∨ 2 ^ 32 ≤ argN args 1 then endCmd s fn 2 []
  else
    let gs := (namedGangs s p (argN args 0) (argN args 1)).filter fun g => (s.gang g).isHeld
    if gs = [] then endCmd s fn 6 [] else endCmd (gs.foldl releaseGang s) fn 0 [BitVec.ofNat 64 gs.length]

/-- KILL: the teams of the named gangs, or the whole grid. -/
def cmdKill (s : State) (p fn : Nat) (args : List DWord) : State :=
  let grid := argN args 0
  if 2 ^ 32 ≤ grid ∨ 2 ^ 32 ≤ argN args 1 ∨ 2 ≤ argN args 2 then endCmd s fn 2 []
  else match tget s.grids (gridKey p grid) with
    | none => endCmd s fn 6 []
    | some g =>
      if g.drained then endCmd s fn 6 []
      else
        let gs := namedGangs s p grid (argN args 1)
        let n := BitVec.ofNat 64 gs.length
        if argN args 2 = 1 then endCmd (sweepFaults (killGrid s p grid) p) fn 0 [n, BitVec.ofNat 64 (g.gangs - g.placed)]
        else endCmd (sweepFaults ((gs.flatMap s.gangTeams).foldl killTeam s) p) fn 0 [n, 0]

/-! ## Doorbells -/

/-- A running command does what it can now; one that has ended, or that is held, does nothing (R458). In recovery mode
only RECOVER is accepted. -/
def cmdStep (s : State) (fn : Nat) : State :=
  let m := s.mbox fn
  match m.run, tget s.ctrl.ends fn with
  | some (cmd, args), none =>
    let op := cmd.toNat % 256
    if fn = 0 then
      if s.ctrl.recovery ∧ [1, 2, 3, 5].contains op then endCmd s 0 7 []
      else match op with
        | 1 => cmdCreate s args
        | 2 => cmdDelete s args m.going
        | 3 => cmdWarm s args m.going
        | 4 => cmdRecover s args
        | 5 => cmdRetire s args
        | _ => endCmd s 0 1 []
    else match op with
      | 0x10 => cmdResume s (fn - 1) fn args
      | 0x11 => cmdKill s (fn - 1) fn args
      | _ => endCmd s fn 1 []
  | _, _ => s

/-- The host writes arguments, CMD and DOORBELL: while a command runs the doorbell is lost (R457). -/
def doorbell (s : State) (fn : Nat) (cmd : DWord) (args : List DWord) : State :=
  if ¬ fnPresent s fn then s
  else
    let m := { s.mbox fn with cmd := cmd &&& 0xFFFF00FF, args := args }
    if m.busy then s.setMbox fn { m with lost := true }
    else cmdStep (s.setMbox fn { m with busy := true, run := some (m.cmd, args), going := false }) fn

/-- A command word. -/
def cmdWord (op : Nat) (tag : BitVec 16) : DWord := BitVec.ofNat 64 (op + 65536 * tag.toNat)

/-- PART_CREATE. -/
def execPartCreate (tag : BitVec 16) (a0 a1 a2 a3 a4 a5 : DWord) (s : State) : Out :=
  .next (doorbell s 0 (cmdWord 1 tag) [a0, a1, a2, a3, a4, a5])

/-- PART_DELETE. -/
def execPartDelete (tag : BitVec 16) (a0 : DWord) (s : State) : Out := .next (doorbell s 0 (cmdWord 2 tag) [a0])

/-- WARM_RESET. -/
def execWarmReset (tag : BitVec 16) (a0 : DWord) (s : State) : Out := .next (doorbell s 0 (cmdWord 3 tag) [a0])

/-- RECOVER. -/
def execRecover (tag : BitVec 16) (a0 a1 : DWord) (s : State) : Out := .next (doorbell s 0 (cmdWord 4 tag) [a0, a1])

/-- RETIRE. -/
def execRetire (tag : BitVec 16) (a0 a1 : DWord) (s : State) : Out := .next (doorbell s 0 (cmdWord 5 tag) [a0, a1])

/-- RESUME. -/
def execResume (fn : Nat) (tag : BitVec 16) (a0 a1 : DWord) (s : State) : Out :=
  .next (doorbell s fn (cmdWord 0x10 tag) [a0, a1])

/-- KILL. -/
def execKill (fn : Nat) (tag : BitVec 16) (a0 a1 a2 : DWord) (s : State) : Out :=
  .next (doorbell s fn (cmdWord 0x11 tag) [a0, a1, a2])

/-- Whether a function's mailbox lists an opcode. -/
def listedCmd (fn op : Nat) : Bool := if fn = 0 then [1, 2, 3, 4, 5].contains op else [0x10, 0x11].contains op

/-- MAILBOX_DOORBELL_REFUSED: a doorbell while BUSY, or one whose opcode the function does not list, which ends with
BAD_CMD. -/
def execMailboxDoorbellRefused (fn : Nat) (cmd : DWord) (s : State) : Out :=
  .next (if (s.mbox fn).busy ∨ ¬ listedCmd fn (cmd.toNat % 256) then doorbell s fn cmd (s.mbox fn).args else s)

/-- RES0 to RES6: what Table 23-13 gives, and free values behind it (log entry 2). -/
def resWords (s : State) (res : List DWord) : List DWord :=
  res ++ (List.range (7 - res.length)).map fun i => Config.freeValue (s.freeCtr + i)

/-- MAILBOX_COMMAND_END: a command that has done its work writes results and STATUS and raises the vector. -/
def execMailboxCommandEnd (fn : Nat) (s : State) : Out :=
  .next (
    let s := cmdStep s fn
    match (s.mbox fn).run, tget s.ctrl.ends fn with
    | some (cmd, _), some e =>
      let s1 := { s with ctrl := { s.ctrl with ends := tdel s.ctrl.ends fn }, freeCtr := s.freeCtr + 7 }
      s1.updMbox fn fun m =>
        { m with res := resWords s e.res, busy := false, tag := cmd.extractLsb' 16 16, code := e.code, run := none, going := false,
                 irq := m.irq + 1 }
    | _, _ => s)

/-! ## SPDM (R465) -/

/-- SPDM_REQUEST: the measurements are the firmware digest, the fuse state and the active policy versions; key material is
not in the manual (log entry 2). -/
def execSpdmRequest (kind : Spdm) (s : State) : Out :=
  .next (
    let words := match kind with
      | .measurement =>
        sha512 s.ctrl.firmware ++ [BitVec.ofNat 64 s.ctrl.fuse.toNat] ++
          s.parts.map fun p => p.2.regs.polVer.setWidth 64
      | .certificate => [Config.spdmAnswer 0]
      | .challenge => [Config.spdmAnswer (1 + s.ctrl.spdm.length)]
    { s with ctrl := { s.ctrl with spdm := s.ctrl.spdm ++ [{ kind := kind, words := words }] } })

end Sys2Proof.Machine
end

