-- ==== Sys2Proof/Machine/MovePred.lean ====
section
/-! DEFINITION. The meanings of moves, wave-wide exchanges and predicate operations (spec/13: R287 to R294). -/

namespace Sys2Proof.Machine

/-- MOV (R287). -/
def execMov (hd : Hdr) (d : Dst) (a : Src) (ty : Ty) (s : State) : Out :=
  .next (aluW s hd (useOf (.mov hd d a ty)) ty.is64 d fun w l => rdW s w l ty.is64 a)

/-- MOVI (R287). -/
def execMovi (hd : Hdr) (d : Dst) (imm : Word) (ty : Ty) (s : State) : Out :=
  .next (aluW s hd (useOf (.movi hd d imm ty)) ty.is64 d fun _ _ => immW ty imm)

/-- A result of the wave as a whole for a uniform register: written when some lane of E stands, and pushed into every
lane (R248, R256, R288). -/
def writeUniform (w : Wave) (d : Dst) (E : LaneSet) (x : Word) : Wave :=
  match d.r with
  | .w n =>
    if E = 0 then w.push fun _ => w.wget n.toNat
    else (if d.nw then w else w.wput n.toNat x).push fun _ => x
  | _ => w

/-- MOVW: reads the named lane whatever its state (R288). -/
def execMovw (hd : Hdr) (d : Dst) (a : Src) (ln : BitVec 5) (s : State) : Out :=
  .next (issue s hd (useOf (.movw hd d a ln)) fun c =>
    finishNext s c hd (writeUniform c.w d c.E (rd32 s c.w ln.toNat a)))

/-- S2V (R289). -/
def execS2v (hd : Hdr) (d : Dst) (wa : BitVec 7) (s : State) : Out :=
  .next (alu s hd (useOf (.s2v hd d wa)) d fun w l => w.wget (wa.toNat + l))

/-- PSETP (R290). -/
def execPsetp (hd : Hdr) (pd : PDst) (a b : Src) (pc : Pred) (z : Bool) (bop : Bop) (ty : Ty) (s : State) : Out :=
  .next (setPred s hd (useOf (.psetp hd pd a b pc z bop ty)) pd fun w l =>
    combine bop (((rdW s w l ty.is64 a &&& rdW s w l ty.is64 b) != 0) ^^ z) (w.pbit pc l))

/-- PLOP (R290). -/
def execPlop (hd : Hdr) (pd : PDst) (pa pb pc : Pred) (fn : BitVec 8) (s : State) : Out :=
  .next (setPred s hd (useOf (.plop hd pd pa pb pc fn)) pd fun w l => fn3 fn (w.pbit pa l) (w.pbit pb l) (w.pbit pc l))

/-! ## Wave-wide exchanges (R291 to R294): P is E of the gathered group -/

/-- The source lane of SHFL, none past its segment (R292). -/
def shflLane (mode : ShflMode) (i : Nat) (b : Word) : Option Nat :=
  let k := b.toNat % 32
  let size := 32 / 2 ^ min (b.toNat / 256 % 8) 5
  let base := i - i % size
  match mode with
  | .abs => some (base + k % size)
  | .lo => if i < base + k then none else some (i - k)
  | .hi => if base + size ≤ i + k then none else some (i + k)
  | .xor => some (base + ((i - base) ^^^ (k % size)))
  | .rot => some (base + (i - base + k) % size)

/-- SHFL (R292). -/
def execShfl (hd : Hdr) (d : Dst) (a b : Src) (m : MaskSrc) (mode : ShflMode) (s : State) : Out :=
  .next (issueWide s hd (useOf (.shfl hd d a b m mode)) (useMask m) false (maskVal · m) fun c s =>
    finishNext s c hd (writeDst c.w d c.E fun i =>
      match shflLane mode i (rd32 s c.w i b) with
      | some j => if c.E.getLsbD j then rd32 s c.w j a else rd32 s c.w i a
      | none => rd32 s c.w i a))

/-- The property of the participating lanes that VOTE reports (R293). -/
def voteOf (mode : VoteMode) (P bits : LaneSet) : Bool :=
  match mode with
  | .all => P &&& ~~~bits == 0
  | .any => P &&& bits != 0
  | .uni => P &&& bits == 0 || P &&& ~~~bits == 0

/-- VOTE (R293). -/
def execVote (hd : Hdr) (pd : PDst) (pa : Pred) (m : MaskSrc) (mode : VoteMode) (s : State) : Out :=
  .next (issueWide s hd (useOf (.vote hd pd pa m mode)) (useMask m) false (maskVal · m) fun c s =>
    finishNext s c hd (writePred c.w pd c.E fun _ => voteOf mode c.E (c.w.pget pa)))

/-- BALLOT (R293). -/
def execBallot (hd : Hdr) (d : Dst) (pa : Pred) (m : MaskSrc) (s : State) : Out :=
  .next (issueWide s hd (useOf (.ballot hd d pa m)) (useMask m) false (maskVal · m) fun c s =>
    finishNext s c hd (writeDst c.w d c.E fun _ => c.E &&& c.w.pget pa))

/-- The lanes of P whose value equals lane i's; with ALL, P when they are all equal and else 0 (R293). -/
def matchOf (all : Bool) (P : LaneSet) (v : Nat → DWord) (i : Nat) : LaneSet :=
  let m := laneSet fun j => P.getLsbD j && v j == v i
  if all then (if m == P then P else 0) else m

/-- MATCH (R293). -/
def execMatchv (hd : Hdr) (d : Dst) (a : Src) (m : MaskSrc) (all : Bool) (ty : Ty) (s : State) : Out :=
  .next (issueWide s hd (useOf (.matchv hd d a m all ty)) (useMask m) false (maskVal · m) fun c s =>
    finishNext s c hd (writeDst c.w d c.E fun i => matchOf all c.E (fun j => rdW s c.w j ty.is64 a) i))

/-- One step of the fold of REDUX, with the flags of f32 (R294). -/
def reduxOp (rop : ReduxOp) (ty : Ty) (x y : Word) : Word × Flags :=
  let fl (r : FRes) : Word × Flags := (BitVec.ofNat 32 r.bits, r.fl)
  match rop with
  | .add =>
    if ty = .f32 then fl (f32.add .rn false (f32.decode false x.toNat) (f32.decode false y.toNat)) else (x + y, 0)
  | .min => if ty = .f32 then fl (f32.minmax false x.toNat y.toNat) else (opMin32 ty x y, 0)
  | .max => if ty = .f32 then fl (f32.minmax true x.toNat y.toNat) else (opMax32 ty x y, 0)
  | .and => (x &&& y, 0)
  | .or => (x ||| y, 0)
  | .xor => (x ^^^ y, 0)

/-- The fold over P in rising lane order. -/
def reduxFold (rop : ReduxOp) (ty : Ty) : List Word → Word × Flags
  | [] => (0, 0)
  | x :: xs => xs.foldl (fun acc y => let r := reduxOp rop ty acc.1 y; (r.1, acc.2 ||| r.2)) (x, 0)

/-- REDUX (R294). -/
def execRedux (hd : Hdr) (d : Dst) (a : Src) (m : MaskSrc) (rop : ReduxOp) (ty : Ty) (s : State) : Out :=
  .next (issueWide s hd (useOf (.redux hd d a m rop ty)) (useMask m) false (maskVal · m) fun c s =>
    let r := reduxFold rop ty ((lanesOf c.E).map fun j => rd32 s c.w j a)
    finishNext s c hd ((writeDst c.w d c.E fun _ => r.1).raise r.2))

end Sys2Proof.Machine
end

