-- ==== Sys2Proof/Machine/Outside.lean ====
section
/-! DEFINITION. The host and the peers at this device's memory, the peers' answers, and homes that are offline
(spec/05: R112 to R116; spec/07: R151; spec/22: R436, R442; spec/23: R453, R456, R460, R461). -/

namespace Sys2Proof.Machine

/-! ## Requests of the host and of peers (R112) -/

/-- The partition that owns an address of HBM. -/
def hbmOwner (s : State) (pa : Nat) : Option Nat := (s.parts.find? fun e => e.2.owns e.1 (pa / Config.stackBytes)).map (·.1)

/-- Whether bytes lie in one line of a memory window: the HBM of a partition that a test admits, or the tier (Table 23-5). -/
def inWindow (s : State) (mine : Nat → Bool) (pa n : Nat) : Bool :=
  n != 0 && pa / 128 == (pa + n - 1) / 128 &&
    (if isHbm pa then (hbmOwner s pa).any mine else isTier pa && s.parts.any fun e => mine e.1)

/-- The home of a line for one who has no page table: the memory-side unit where that holds the line, and else the home
of an ordinary page (log entry 6). -/
def extHome (s : State) (pa : Nat) : Nat :=
  if isHbm pa && (tget s.lines (lineKey (homeOf pa true) pa)).isSome then homeOf pa true else homeOf pa false

/-- The answer to a request of the host or a peer: xts rises to its timestamp, and a request to a partition's memory is
progress for its watchdog (R112, R444). Poisoned bytes, and a home that is offline, are answered without data. -/
def extAnswer (s : State) (pa t : Nat) (data : List Byte) (ok : Bool) : State :=
  let s := { s with xts := max s.xts t, answers := s.answers ++ [{ t := t, data := if ok then data else [], ok := ok }] }
  match if isHbm pa then hbmOwner s pa else none with
  | none => s
  | some p => s.stir p

/-- The home of a line marks that the host holds a copy (R116). -/
def markHost (s : State) (home pa : Nat) : State :=
  let s := fillLine s home pa
  s.setLine (lineKey home pa) { s.line (lineKey home pa) with hostMark := true }

/-- A read stamped with xts, performed at its home (R112). A peer's read takes no lease, as the host's: the manual does not say
(DESIGN CHOICE, log entry 58). -/
def extRead (s : State) (mark : Bool) (pa n : Nat) : State :=
  let home := extHome s pa
  if homeOffline s home then extAnswer s pa s.xts [] false
  else match homeReadAt s home pa n s.xts none none 0 with
    | .error _ => s
    | .ok (s, o) => extAnswer (if mark then markHost s home pa else s) pa o.t o.data !o.bad

/-- A write stamped with xts, performed at its home, with the bytes of its answer. -/
def extWrite (s : State) (pa : Nat) (new ans : List Byte) : State :=
  let home := extHome s pa
  if homeOffline s home then extAnswer s pa s.xts [] false
  else match homeWriteAt s home pa s.xts new none 0 with
    | .error _ => s
    | .ok (s', t) => extAnswer s' pa t ans (ans = [] || !poisoned s pa new.length)

/-- HOST_CXL_MEM_REQUEST (R112, R116): bytes of a read stand for their number. -/
def execHostCxlMemRequest (write cacheable : Bool) (pa : Nat) (data : List Byte) (s : State) : Out :=
  .next (if ¬ inWindow s (fun _ => true) pa data.length then s
    else if write then extWrite s pa data []
    else extRead s cacheable pa data.length)

/-- The bytes that a peer's request touches. -/
def peerSize : PeerOp → Nat
  | .read n => n
  | .write bs => bs.length
  | .atom _ ty .. => 4 * tyRegs ty
  | .acc _ ty _ => 4 * tyRegs ty

/-- The bytes that a peer's request writes over the old ones, and its answer; none for a read. -/
def peerResult (old : List Byte) : PeerOp → Option (List Byte × List Byte)
  | .read _ => none
  | .write bs => some (bs, [])
  | .atom aop ty b cmp => some (natBytes (atomOp aop ty (BitVec.ofNat 64 (bytesNat old)) b cmp).toNat old.length, old)
  | .acc aop ty x => some (natBytes (accCombine aop ty (BitVec.ofNat 64 (bytesNat old)) x).toNat old.length, [])

/-- PEER_REQUEST (R112, R460): performed within the memory windows of the partition that the peer's table names, and refused
elsewhere (R461). A peer's write is a device write to the host's copies, and waits for the mark to clear (R116). -/
def execPeerRequest (part pa : Nat) (op : PeerOp) (s : State) : Out :=
  .next (if ¬ inWindow s (· == part) pa (peerSize op) then
      { s with answers := s.answers ++ [{ t := s.xts, data := [], ok := false }] }
    else match peerResult (s.rd pa (peerSize op)) op with
      | none => extRead s false pa (peerSize op)
      | some (new, ans) => if (s.line (lineKey (extHome s pa) pa)).hostMark then s else extWrite s pa new ans)

/-! ## Host lines and host copies (R113, R114, R116) -/

/-- Monitors of a home on a line are gone; their waiters read the word again (R223). -/
def dropMonitors (s : State) (home line : Nat) : State :=
  let gone := fun m : Monitor => m.home == home && m.pa / 128 == line
  let ids := (s.monitors.filter fun e => gone e.2).map (·.2.req)
  { s with monitors := tsel s.monitors fun _ m => !gone m,
           reqs := tmap s.reqs fun i r => if ids.contains i then { r with armed := false } else r }

/-- HOST_SNOOP: the tier cache gives up a line at T and the host writes what it wants of it (R113). -/
def execHostSnoop (pa : Nat) (data : List Byte) (s : State) : Out :=
  .next (
    let home := homeOf pa false
    let k := lineKey home pa
    if ¬ isHost pa ∨ 128 < data.length then s
    else
      let s1 := fillLine s home pa
      let t := max s.xts ((s1.line k).rts + 1)
      if s.ceil < t then s
      else
        let s1 := evictLine (s1.setLine k { s1.line k with wts := t, rts := t }) k
        let base := pa / 128 * 128
        (dropMonitors (clearPoison { s1 with xts := t } base data.length) home (pa / 128)).wr base data)

/-- Writes that waited for the host at a line are performed, in the order in which they were sent; an atomic of a partition over
its share goes on waiting (R130). -/
def wakeWrites (s : State) (home line : Nat) : State :=
  (tsel s.reqs fun _ r => r.home == home && r.pa / 128 == line && r.armed && !r.watching).foldl (fun s e =>
    let r := { e.2 with armed := false }
    if mayPerform s e.1 e.2 then performCharged (setReq s e.1 r) e.1 r else setReq s e.1 r) s

/-- HOST_OWNERSHIP_GRANT: the tier cache holds a host line with ownership (R114). -/
def execHostOwnershipGrant (line : Nat) (s : State) : Out :=
  .next (
    let pa := 128 * line
    if ¬ isHost pa then s
    else
      let home := homeOf pa false
      let s := fillLine s home pa
      wakeWrites (s.setLine (lineKey home pa) { s.line (lineKey home pa) with owned := true }) home line)

/-- BACK_INVALIDATION_RESPONSE: the host has given up its copy of a line (R116). -/
def execBackInvalidationResponse (line : Nat) (s : State) : Out :=
  .next ((tsel s.lines fun k l => l.hostMark && keyAddr k == 128 * line).foldl (fun s e =>
    wakeWrites (s.setLine e.1 { s.line e.1 with hostMark := false }) (keyHome e.1) line) s)

/-! ## Requests that are turned back (R39, R442) -/

/-- The size code of the leaf that maps an address, 3 where none does. -/
def leafCode (s : State) (part pasid va : Nat) : Nat :=
  match (walk s (part / 3) part pasid va).2.1 with
  | .leaf e => e.code
  | .fault .. => 3

/-- The access of a request, for its page word: an operation of the graph engines that changes a list is a
read-modify-write (log entry 23). -/
def reqAccess (r : Req) : Access :=
  match r.kind with
  | .write _ => .write
  | .atom .. | .acc .. => .rmw
  | .graph _ op => if op.mutates then .rmw else .read
  | _ => .read

/-- The page words of a request that is turned back, with their virtual pages: of a graph operation the page of the backing
region that it needs from an engine that is offline (R360). -/
def reqWords (s : State) (pasid cause : Nat) (r : Req) : List (Nat × DWord) :=
  let vas := match r.kind with
    | .graph gid op => (offlineOwners s r gid op).take 1
    | _ => [(r.va, leafCode s r.part pasid r.va)]
  vas.map fun x => (x.1 / 65536, pageWord x.1 x.2 cause (reqAccess r))

/-- Whether a request meets an offline home: one that its home holds is performed (R446), and an MWAIT whose word is watched
has been. -/
def meetsOffline (s : State) (id : Nat) (r : Req) : Bool :=
  !r.holds && !watched s id && match r.kind with
    | .graph gid op => offlineOwners s r gid op != []
    | _ => r.home < 1024 && homeOffline s r.home

/-- The PC and the active lanes of the instruction of a request. -/
def reqPc (s : State) (r : Req) : DWord := ((tget s.flights r.flight).map (·.pc)).getD (opPc s r.wave r.flight)
def reqLanes (s : State) (r : Req) : LaneSet := ((tget s.flights r.flight).map (·.lanes)).getD (opLanes s r.wave r.flight)

/-- Requests of one instruction of a wave are turned back with a cause: they become packets, and the wave is suspended with
one record that names their pages. -/
def turnBack (s : State) (rs : Tbl Req) (wave cause : Nat) : State :=
  match rs with
  | [] => s
  | (_, r0) :: _ =>
    let w := s.wave wave
    let words := distinct (rs.flatMap fun e => reqWords s (s.gridOf w).pasid cause e.2)
    let rec0 := { waveRec s wave w (reqPc s r0) (reqLanes s r0) with
                  pages := (words.map (·.2)).take 4, more := words.length - 4 }
    let ids := rs.map (·.1)
    let ps := rs.map fun e => e.2.packed e.1
    let s := { s with reqs := tsel s.reqs fun i _ => !ids.contains i }
    let s := s.updWave wave fun w => { w with packets := (w.packets ++ ps).mergeSort fun a b => a.seq ≤ b.seq }
    let s := if w.susp = .none then suspendWave s wave (if cause = 8 then .offline else .fault) else s
    recordFault s (coreDie w.core) rec0 (words.map (·.1))

/-! ## Offline homes (R136, R442) -/

/-- The oldest operation, of a wave that is still there, among those that wait for a request's words. -/
def oldestOp (s : State) (waits : List (Nat × Nat)) : Option (Nat × Nat) :=
  leastBy (·.2) (waits.filter fun x => (tget s.waves x.1).isSome)

/-- The record of a cluster for an offline die: one for each die, against the wave of the oldest ACC that the request
carried, with the page by which that ACC names the line. It suspends nothing and asks no decision (R442). -/
def offlineNote (s : State) (r : AccReq) (die : Nat) : State :=
  if (s.cluster r.cluster).told.contains die then s
  else match oldestOp s r.waits with
    | none => s
    | some x =>
      let w := s.wave x.1
      let names := ((opOf s x.1 x.2).map (·.names)).getD []
      let va := ((names.find? fun n => n.1 == r.key.line).map (·.2)).getD 0
      let word := pageWord va (leafCode s r.key.part (s.gridOf w).pasid va) 8 .rmw
      let f := { waveRec s x.1 w (opPc s x.1 x.2) (opLanes s x.1 x.2) with pages := [word], dup := true, resume := true }
      let s := s.updCluster r.cluster fun c => { c with told := die :: c.told }
      freeWritten (pushFault s r.key.part f false) r.key.part

/-- HOME_OFFLINE_REPLY: to a lane request, or to an accumulate request. What a retired wave has left waits for the
re-admission (R298). -/
def execHomeOfflineReply (req : Nat) (s : State) : Out :=
  .next (match tget s.reqs req, tget s.areqs req with
    | some r, _ =>
      if ¬ meetsOffline s req r ∨ (tget s.waves r.wave).isNone then s
      else if ¬ accepted s r then { s with reqs := tdel s.reqs req }
      else if r.kind.isPref then laneDone { s with reqs := tdel s.reqs req } r.flight r.lane
      else turnBack s (tsel s.reqs fun i x => x.wave == r.wave && x.flight == r.flight && accepted s x && meetsOffline s i x) r.wave 8
    | none, some r =>
      if r.stage ≠ 0 ∨ ¬ homeOffline s r.home then s
      else
        let s := match homeDie r.home with
          | none => s
          | some d => offlineNote s r d
        accReturn s req r false
    | none, none => s)

/-! ## Peers (R115, R124, R151, R436, R461) -/

/-- Whether some port of the mask of a request's peer entry carries traffic (R452, R461). -/
def peerPort (s : State) (r : Req) : Bool :=
  match tget (s.part r.part).peers (r.home - 1024) with
  | none => false
  | some e => (List.range 16).any fun n => e.getLsbD (48 + n) && !s.ctrl.retPort.contains n

/-- The answer to a part of a Hod operation. -/
def hodAnswer (s : State) (req : Nat) (r : Req) (ok : Bool) (data : List Byte) : State :=
  let s := { s with reqs := tdel s.reqs req }
  match tget s.hops r.flight with
  | none => s
  | some o => match tget o.parts r.lane with
    | none => s
    | some p =>
      if ¬ ok then
        hodFault s r.flight r.lane o p r.va (pageWord r.va (leafCode s r.part (hodSpace s o).2 r.va) 7 (reqAccess r))
      else match r.kind with
        | .read _ => s.updHop r.flight fun o => { o with parts := tput o.parts r.lane { p with src := none, bytes := data } }
        | _ => partDone s r.flight r.lane 0

/-- The answer to an access of the scheduler (R411, R485): a condition word that the peer refuses is read again, and an add
that it refuses is dropped. -/
def xdAnswer (s : State) (req : Nat) (r : Req) (ok : Bool) (data : List Byte) : State :=
  let s := { s with reqs := tdel s.reqs req }
  s.updPart r.part fun q => { q with firings := tmap q.firings fun _ f =>
    if f.sent ≠ req ∨ f.stage = 0 ∨ f.answer.isSome then f
    else if f.stage = 1 then (if ok then { f with answer := some (bytesNat data) } else { f with stage := 0 })
    else { f with answer := some (if ok then 0 else 1) } }

/-- Whether a request is one of a part of a Hod operation. -/
def isHodReq (s : State) (r : Req) : Bool := (tget s.hops r.wave).isSome && r.wave == r.flight

/-- The peer's answer to the whole of an access. A token that the peer has answered before is answered with the same result
(R437). -/
def peerAnswer (s : State) (req : Nat) (r : Req) (ok : Bool) (data : List Byte) : State :=
  if r.core = xdCore then xdAnswer s req r ok data
  else if isHodReq s r then hodAnswer s req r ok data
  else if ok then (tokenAnswer s req r).getD (sendReply (keepToken s r (bytesWords data) 0) req (bytesWords data) 0 0 0 [] 0 false)
  else if accepted s r then turnBack s [(req, r)] r.wave 7
  else sendReply s req [] 0 0 0 [] 0 false

/-- PEER_ACKNOWLEDGEMENT: the peer has performed an access, and answers a read or atomic with its bytes. An access of more
than eight bytes is as many accesses of eight bytes as it takes, the lowest first (R149). An answer of another length refuses
it, which faults with cause PHYS (R461). -/
def execPeerAcknowledgement (req : Nat) (data : List Byte) (s : State) : Out :=
  .next (match tget s.reqs req with
    | none => s
    | some r =>
      if r.home < 1024 ∨ r.kind.isMwait ∨ ¬ peerPort s r ∨ (r.core ≠ xdCore ∧ ¬ isHodReq s r ∧ earlierReq s req r) then s
      else
        let want := match r.kind with
          | .read _ | .atom .. => min 8 r.size
          | _ => 0
        if data.length ≠ want then peerAnswer s req r false []
        else if 8 * (r.acks + 1) < r.size then setReq s req { r with acks := r.acks + 1, got := r.got ++ data }
        else peerAnswer s req r true (r.got ++ data))

/-- PEER_UNREACHABLE: entries of requests that their wave has given up are free (R436). -/
def execPeerUnreachable (peer : Nat) (s : State) : Out :=
  .next { s with reqs := tsel s.reqs fun _ r =>
    !(r.home == 1024 + peer && r.orphan && r.core != xdCore && (tget s.hops r.flight).isNone) }

end Sys2Proof.Machine
end

