-- ==== Sys2Proof/Machine/Window.lean ====
section
/-! DEFINITION. What the host writes and reads in a partition's register window, in the mailboxes' registers and in the graph port
window (spec/23: R456, R457, R459, R461, R484; the register tables of spec/02, 05, 06, 09, 18, 21, 22). -/

namespace Sys2Proof.Machine

/-! ## The register window -/

/-- The mask of bits hi to lo. -/
def maskBits (hi lo : Nat) : DWord := BitVec.ofNat 64 (2 ^ (hi + 1) - 2 ^ lo)

/-- A value between two bounds. -/
def clamp (lo hi x : Nat) : Nat := max lo (min hi x)

/-- A write that only changes registers of a partition, by index and value; reserved and RO fields are ignored (R6). -/
def storeReg (cyc : Nat) (r : PRegs) (idx : Nat) (x : DWord) : PRegs :=
  let n := x.toNat
  match idx with
  | 0x200 => { r with lease := clamp 8 256 (n % 512) }
  | 0x210 => { r with quotaOld := quotaOf r (cyc / 32), quotaWin := cyc / 32, accQuota := clamp 1 32 (n % 64) }
  | 0x220 => { r with thrEn := x.getLsbD 8, thrLimit := n % 256 }
  | 0x230 =>
    { r with wdFired := r.wdFired && !x.getLsbD 63, wdExt := r.wdExt && !x.getLsbD 62, wdPeriod := n % 2 ^ 32 }
  | 0x401 => { r with polSrc := x &&& maskBits 59 2 }
  | 0x403 => { r with quantum := n / 65536 % 65536, forceFb := x.getLsbD 0 }
  | 0x405 => { r with decRing := x &&& (maskBits 51 12 ||| maskBits 4 0) }
  | 0x406 => { r with decTail := n / 2 ^ 32 }
  | 0x600 =>
    { r with pasidTab := (x &&& (maskBits 51 12 ||| maskBits 5 5)) ||| BitVec.ofNat 64 (min 20 (n % 32)) }
  | 0x602 => { r with tlbErr := r.tlbErr && !x.getLsbD 1 }
  | 0x603 => { r with faultRing := x &&& (maskBits 51 12 ||| maskBits 3 0) }
  | 0x605 => { r with trapRing := x &&& (maskBits 51 12 ||| maskBits 0 0) }
  | _ => if 0x500 ≤ idx ∧ idx ≤ 0x505 then { r with floors := tput r.floors (idx - 0x500) (min 256 (n % 512)) } else r

/-- A write to a system register of a partition. A write of SCHED_CTL begins a quantum (log entry 22). -/
def hostReg (s : State) (p idx : Nat) (x : DWord) : State :=
  match idx with
  | 0x400 => commitWrite s p x
  | 0x601 =>
    let scope := x.toNat / 2 ^ 62
    if scope = 3 then s else tlbInv s p scope (x.toNat / 2 ^ 42 % 2 ^ 20) (x.toNat % 2 ^ 40)
  | 0x604 => freeWritten (faultPtrs s p x) p
  | _ => s.updPart p fun q =>
      { q with regs := storeReg s.cycle q.regs idx x, quantumAt := if idx = 0x403 then s.cycle else q.quantumAt }

/-- A write to MIG_CTL: ERR is W1C, and CMD a command. A one in ERR clears it before a command that is not allowed sets it: the
manual gives no order (DESIGN CHOICE, log entry 60). -/
def hostMig (s : State) (p : Nat) (x : DWord) : State :=
  let s := if x.getLsbD 12 then updMigr s p fun m => { m with err := false } else s
  let cmd := x.toNat % 8
  if 5 ≤ cmd then migErr s p else migCommand s p cmd

/-- A write of one half of a peer table entry (Table 23-15). Reserved bits are kept as they are written, so that they make the
entry invalid, and read as zero: R461 acts on them, while R6 says that such writes are ignored (DESIGN CHOICE, log entry 60). -/
def hostPeer (s : State) (p n : Nat) (high : Bool) (x : DWord) : State :=
  s.updPart p fun q =>
    let e := (tget q.peers n).getD 0
    { q with peers := tput q.peers n (if high then x ++ e.extractLsb' 0 64 else e.extractLsb' 64 64 ++ x) }

/-- A write in the mailbox region of a function (Tables 23-11, 23-12). -/
def hostMbox (s : State) (fn o : Nat) (x : DWord) : State :=
  if ¬ fnPresent s fn then s
  else
    let m := s.mbox fn
    let arg := o / 8 - 1
    if o = 0 then s.setMbox fn { m with cmd := x &&& 0xFFFF00FF }
    else if o % 8 = 0 ∧ 8 ≤ o ∧ o ≤ 0x38 then
      s.setMbox fn { m with args := (m.args ++ List.replicate (7 - m.args.length) 0).set arg x }
    else if o = 0x40 then s.setMbox fn { m with lost := m.lost && !x.getLsbD 62 }
    else if o = 0x80 then (if m.busy || x.getLsbD 0 then doorbell s fn m.cmd m.args else s)
    else if o = 0x100 then
      s.setMbox fn { m with pend := m.pend && !x.getLsbD 63, logN := m.logN && !(fn == 0 && x.getLsbD 61) }
    else s

/-- REGISTER_WRITE: the host writes 64 bits at an offset of a partition's register window. Offsets from 0x1_0000 stand for
the mailbox of the partition's function, and from 0x2_0000 for that of function 0. Offsets of no register are ignored
(R484). -/
def execRegisterWrite (part off : Nat) (value : DWord) (s : State) : Out :=
  .next (
    if 0x20000 ≤ off then hostMbox s 0 (off - 0x20000) value
    else if (tget s.parts part).isNone then s
    else
      let s := s.stir part
      if 0x10000 ≤ off then hostMbox s (part + 1) (off - 0x10000) value
      else if off % 8 ≠ 0 then s
      else if off < 0x8000 then hostReg s part (off / 8) value
      else if off = 0x8000 then hostMig s part value
      else if 0x9000 ≤ off ∧ off < 0xA000 then hostPeer s part ((off - 0x9000) / 16) (off % 16 == 8) value
      else s)

/-! ## What the host reads (R5, R6, R50, R457, R484) -/

/-- MIG_CTL: CMD reads as zero (Table 23-9). -/
def migCtl (m : Migr) : Nat := (m.seq - 1) % 2 ^ 16 * 2 ^ 16 + m.err.toNat * 2 ^ 12 + m.st * 2 ^ 8

/-- The bits of a peer table entry that are not reserved (Table 23-15). -/
def peerMask : BitVec 128 := 0x000FFFFFFFFF0000FFFF000FFFFF0001

/-- A read of a partition's register window: an offset of no register the host reaches reads as zero. -/
def windowRead (s : State) (p off : Nat) : DWord :=
  if off % 8 ≠ 0 then 0
  else if off < 0x8000 then (partReg s p (off / 8)).getD 0
  else if off = 0x8000 then BitVec.ofNat 64 (migCtl (s.part p).migr)
  else if 0x9000 ≤ off ∧ off < 0xA000 then
    (((tget (s.part p).peers ((off - 0x9000) / 16)).getD 0) &&& peerMask).extractLsb' (off % 16 * 8) 64
  else 0

/-- A read of the mailbox of a function: DOORBELL reads as zero (Table 23-12). -/
def mboxRead (s : State) (fn o : Nat) : DWord :=
  let m := s.mbox fn
  if o % 8 ≠ 0 then 0
  else if o = 0 then m.cmd &&& 0xFFFF00FF
  else if o ≤ 0x38 then m.args.getD (o / 8 - 1) 0
  else if o = 0x40 then
    BitVec.ofNat 64 (m.busy.toNat * 2 ^ 63 + m.lost.toNat * 2 ^ 62 + m.tag.toNat * 2 ^ 16 + m.code % 256)
  else if o ≤ 0x78 then m.res.getD (o / 8 - 9) 0
  else if o = 0x100 then
    BitVec.ofNat 64 (m.pend.toNat * 2 ^ 63 + (fn == 0 && s.ctrl.alarm).toNat * 2 ^ 62 + m.logN.toNat * 2 ^ 61 + m.head % 2 ^ 32)
  else 0

/-- A read of the graph port window (R459): the result word of a slot's last record, zero while it is pending, and the payload
part of a GLDV. -/
def portRead (s : State) (p off : Nat) : DWord :=
  let x := (tget (s.part p).slots (off / 32)).getD (0, 0)
  match off % 32 with
  | 0 => if portQueue s p (off / 32) = [] then x.1 else 0
  | 16 => x.2.extractLsb' 0 64
  | 24 => x.2.extractLsb' 64 64
  | _ => 0

/-- The host reads 64 bits: the value is answered, and a function that is not there answers nothing, which is a completer abort
(R456). A read of a partition's window is progress for its watchdog (R444). -/
def hostRead (s : State) (r : HostRead) : State :=
  let answer := fun (fn : Nat) (x : DWord) =>
    { s with answers := s.answers ++
        [{ t := s.xts, data := if fnPresent s fn then natBytes x.toNat 8 else [], ok := fnPresent s fn }] }
  match r with
  | .window p off => (answer (p + 1) (windowRead s p off)).stir p
  | .mailbox fn off => answer fn (mboxRead s fn off)
  | .port p off => (answer (p + 1) (portRead s p off)).stir p

/-! ## Records of the graph port window (R459) -/

/-- The operation of a record that the host writes to a slot (Table 23-6); an OP of no operation and a nonzero reserved field
make it invalid (R6). -/
def portInstr (part slot : Nat) (record : BitVec 256) : Instr :=
  let x := record.toNat
  let gid := bits x 63 48
  let a := bits x 95 64
  let b := bits x 127 96
  let off := bits x 44 40
  if bits x 47 45 ≠ 0 ∨ bits x 39 8 ≠ 0 then .graphPortInvalidRecord part slot
  else match bits x 7 0 with
    | 1 => .portGnewv part slot gid b
    | 2 => .portGadd part slot gid a b (BitVec.ofNat 64 (bits x 191 128))
    | 3 => .portGdel part slot gid a b
    | 4 => .portGstv part slot gid a off (BitVec.ofNat 128 (bits x 255 128))
    | 5 => .portGldv part slot gid a off
    | 6 => .portGdeg part slot gid a
    | _ => .graphPortInvalidRecord part slot

end Sys2Proof.Machine
end

