-- ==== Sys2Proof/Machine/Dispatch.lean ====
section
/-! DEFINITION. The meaning of each instruction and operation: one arm for each constructor. -/

namespace Sys2Proof.Machine

/-- What an instruction or operation does. -/
def exec (i : Instr) (s : State) : Host.Outcome State Fault Refusal :=
  match i with
  | .iadd x0 x1 x2 x3 x4 x5 => Sys2Proof.Machine.execIadd x0 x1 x2 x3 x4 x5 s
  | .iaddImm x0 x1 x2 x3 x4 x5 => Sys2Proof.Machine.execIaddImm x0 x1 x2 x3 x4 x5 s
  | .isub x0 x1 x2 x3 x4 x5 => Sys2Proof.Machine.execIsub x0 x1 x2 x3 x4 x5 s
  | .imad x0 x1 x2 x3 x4 x5 x6 => Sys2Proof.Machine.execImad x0 x1 x2 x3 x4 x5 x6 s
  | .imadImm x0 x1 x2 x3 x4 => Sys2Proof.Machine.execImadImm x0 x1 x2 x3 x4 s
  | .imulh x0 x1 x2 x3 x4 => Sys2Proof.Machine.execImulh x0 x1 x2 x3 x4 s
  | .iadd64 x0 x1 x2 x3 => Sys2Proof.Machine.execIadd64 x0 x1 x2 x3 s
  | .iadd64Imm x0 x1 x2 x3 => Sys2Proof.Machine.execIadd64Imm x0 x1 x2 x3 s
  | .lea x0 x1 x2 x3 x4 x5 => Sys2Proof.Machine.execLea x0 x1 x2 x3 x4 x5 s
  | .leaImm x0 x1 x2 x3 x4 x5 => Sys2Proof.Machine.execLeaImm x0 x1 x2 x3 x4 x5 s
  | .imin x0 x1 x2 x3 x4 => Sys2Proof.Machine.execImin x0 x1 x2 x3 x4 s
  | .imax x0 x1 x2 x3 x4 => Sys2Proof.Machine.execImax x0 x1 x2 x3 x4 s
  | .iminImm x0 x1 x2 x3 x4 => Sys2Proof.Machine.execIminImm x0 x1 x2 x3 x4 s
  | .imaxImm x0 x1 x2 x3 x4 => Sys2Proof.Machine.execImaxImm x0 x1 x2 x3 x4 s
  | .iabs x0 x1 x2 x3 x4 => Sys2Proof.Machine.execIabs x0 x1 x2 x3 x4 s
  | .isetp x0 x1 x2 x3 x4 x5 x6 x7 => Sys2Proof.Machine.execIsetp x0 x1 x2 x3 x4 x5 x6 x7 s
  | .isetpImm x0 x1 x2 x3 x4 x5 => Sys2Proof.Machine.execIsetpImm x0 x1 x2 x3 x4 x5 s
  | .isel x0 x1 x2 x3 x4 x5 x6 => Sys2Proof.Machine.execIsel x0 x1 x2 x3 x4 x5 x6 s
  | .iselImm x0 x1 x2 x3 x4 x5 x6 => Sys2Proof.Machine.execIselImm x0 x1 x2 x3 x4 x5 x6 s
  | .shl x0 x1 x2 x3 x4 => Sys2Proof.Machine.execShl x0 x1 x2 x3 x4 s
  | .shr x0 x1 x2 x3 x4 => Sys2Proof.Machine.execShr x0 x1 x2 x3 x4 s
  | .sar x0 x1 x2 x3 x4 => Sys2Proof.Machine.execSar x0 x1 x2 x3 x4 s
  | .shlImm x0 x1 x2 x3 x4 => Sys2Proof.Machine.execShlImm x0 x1 x2 x3 x4 s
  | .shrImm x0 x1 x2 x3 x4 => Sys2Proof.Machine.execShrImm x0 x1 x2 x3 x4 s
  | .sarImm x0 x1 x2 x3 x4 => Sys2Proof.Machine.execSarImm x0 x1 x2 x3 x4 s
  | .rot x0 x1 x2 x3 x4 x5 => Sys2Proof.Machine.execRot x0 x1 x2 x3 x4 x5 s
  | .bool3 x0 x1 x2 x3 x4 x5 x6 => Sys2Proof.Machine.execBool3 x0 x1 x2 x3 x4 x5 x6 s
  | .bool3Imm x0 x1 x2 x3 x4 => Sys2Proof.Machine.execBool3Imm x0 x1 x2 x3 x4 s
  | .popc x0 x1 x2 x3 => Sys2Proof.Machine.execPopc x0 x1 x2 x3 s
  | .clz x0 x1 x2 x3 => Sys2Proof.Machine.execClz x0 x1 x2 x3 s
  | .brev x0 x1 x2 x3 => Sys2Proof.Machine.execBrev x0 x1 x2 x3 s
  | .bfe x0 x1 x2 x3 x4 => Sys2Proof.Machine.execBfe x0 x1 x2 x3 x4 s
  | .bfi x0 x1 x2 x3 x4 => Sys2Proof.Machine.execBfi x0 x1 x2 x3 x4 s
  | .bsel x0 x1 x2 x3 x4 => Sys2Proof.Machine.execBsel x0 x1 x2 x3 x4 s
  | .mov x0 x1 x2 x3 => Sys2Proof.Machine.execMov x0 x1 x2 x3 s
  | .movi x0 x1 x2 x3 => Sys2Proof.Machine.execMovi x0 x1 x2 x3 s
  | .movw x0 x1 x2 x3 => Sys2Proof.Machine.execMovw x0 x1 x2 x3 s
  | .shfl x0 x1 x2 x3 x4 x5 => Sys2Proof.Machine.execShfl x0 x1 x2 x3 x4 x5 s
  | .vote x0 x1 x2 x3 x4 => Sys2Proof.Machine.execVote x0 x1 x2 x3 x4 s
  | .ballot x0 x1 x2 x3 => Sys2Proof.Machine.execBallot x0 x1 x2 x3 s
  | .matchv x0 x1 x2 x3 x4 x5 => Sys2Proof.Machine.execMatchv x0 x1 x2 x3 x4 x5 s
  | .redux x0 x1 x2 x3 x4 x5 => Sys2Proof.Machine.execRedux x0 x1 x2 x3 x4 x5 s
  | .s2v x0 x1 x2 => Sys2Proof.Machine.execS2v x0 x1 x2 s
  | .psetp x0 x1 x2 x3 x4 x5 x6 x7 => Sys2Proof.Machine.execPsetp x0 x1 x2 x3 x4 x5 x6 x7 s
  | .plop x0 x1 x2 x3 x4 x5 => Sys2Proof.Machine.execPlop x0 x1 x2 x3 x4 x5 s
  | .fadd x0 x1 x2 x3 x4 x5 => Sys2Proof.Machine.execFadd x0 x1 x2 x3 x4 x5 s
  | .fmul x0 x1 x2 x3 x4 x5 => Sys2Proof.Machine.execFmul x0 x1 x2 x3 x4 x5 s
  | .ffma x0 x1 x2 x3 x4 x5 x6 => Sys2Proof.Machine.execFfma x0 x1 x2 x3 x4 x5 x6 s
  | .fmin x0 x1 x2 x3 x4 x5 x6 x7 => Sys2Proof.Machine.execFmin x0 x1 x2 x3 x4 x5 x6 x7 s
  | .fmax x0 x1 x2 x3 x4 x5 x6 x7 => Sys2Proof.Machine.execFmax x0 x1 x2 x3 x4 x5 x6 x7 s
  | .fsetp x0 x1 x2 x3 x4 x5 x6 x7 x8 => Sys2Proof.Machine.execFsetp x0 x1 x2 x3 x4 x5 x6 x7 x8 s
  | .fclass x0 x1 x2 x3 => Sys2Proof.Machine.execFclass x0 x1 x2 x3 s
  | .frcp x0 x1 x2 x3 x4 => Sys2Proof.Machine.execFrcp x0 x1 x2 x3 x4 s
  | .frsq x0 x1 x2 x3 => Sys2Proof.Machine.execFrsq x0 x1 x2 x3 s
  | .fsqrt x0 x1 x2 x3 x4 => Sys2Proof.Machine.execFsqrt x0 x1 x2 x3 x4 s
  | .fex2 x0 x1 x2 x3 => Sys2Proof.Machine.execFex2 x0 x1 x2 x3 s
  | .flg2 x0 x1 x2 x3 => Sys2Proof.Machine.execFlg2 x0 x1 x2 x3 s
  | .fsin x0 x1 x2 x3 => Sys2Proof.Machine.execFsin x0 x1 x2 x3 s
  | .fcos x0 x1 x2 x3 => Sys2Proof.Machine.execFcos x0 x1 x2 x3 s
  | .specialFunctionResult x0 => Sys2Proof.Machine.execSpecialFunctionResult x0 s
  | .hadd2 x0 x1 x2 x3 x4 x5 => Sys2Proof.Machine.execHadd2 x0 x1 x2 x3 x4 x5 s
  | .hfma2 x0 x1 x2 x3 x4 x5 x6 => Sys2Proof.Machine.execHfma2 x0 x1 x2 x3 x4 x5 x6 s
  | .dot4 x0 x1 x2 x3 x4 x5 x6 => Sys2Proof.Machine.execDot4 x0 x1 x2 x3 x4 x5 x6 s
  | .dot2 x0 x1 x2 x3 x4 x5 x6 => Sys2Proof.Machine.execDot2 x0 x1 x2 x3 x4 x5 x6 s
  | .faddImm x0 x1 x2 x3 x4 x5 x6 x7 => Sys2Proof.Machine.execFaddImm x0 x1 x2 x3 x4 x5 x6 x7 s
  | .fmulImm x0 x1 x2 x3 x4 x5 x6 x7 => Sys2Proof.Machine.execFmulImm x0 x1 x2 x3 x4 x5 x6 x7 s
  | .ffmaImm x0 x1 x2 x3 x4 x5 x6 x7 => Sys2Proof.Machine.execFfmaImm x0 x1 x2 x3 x4 x5 x6 x7 s
  | .dadd x0 x1 x2 x3 x4 x5 x6 => Sys2Proof.Machine.execDadd x0 x1 x2 x3 x4 x5 x6 s
  | .dmul x0 x1 x2 x3 x4 x5 x6 => Sys2Proof.Machine.execDmul x0 x1 x2 x3 x4 x5 x6 s
  | .dfma x0 x1 x2 x3 x4 x5 x6 x7 => Sys2Proof.Machine.execDfma x0 x1 x2 x3 x4 x5 x6 x7 s
  | .dsetp x0 x1 x2 x3 x4 x5 x6 => Sys2Proof.Machine.execDsetp x0 x1 x2 x3 x4 x5 x6 s
  | .cvt x0 x1 x2 x3 x4 x5 x6 x7 => Sys2Proof.Machine.execCvt x0 x1 x2 x3 x4 x5 x6 x7 s
  | .cvtn x0 x1 x2 x3 x4 x5 x6 x7 => Sys2Proof.Machine.execCvtn x0 x1 x2 x3 x4 x5 x6 x7 s
  | .cvtef x0 x1 x2 x3 x4 x5 x6 => Sys2Proof.Machine.execCvtef x0 x1 x2 x3 x4 x5 x6 s
  | .cvtw x0 x1 x2 x3 x4 x5 x6 => Sys2Proof.Machine.execCvtw x0 x1 x2 x3 x4 x5 x6 s
  | .pack x0 x1 x2 x3 x4 x5 x6 => Sys2Proof.Machine.execPack x0 x1 x2 x3 x4 x5 x6 s
  | .unpack x0 x1 x2 x3 x4 => Sys2Proof.Machine.execUnpack x0 x1 x2 x3 x4 s
  | .bscale x0 x1 x2 x3 x4 x5 => Sys2Proof.Machine.execBscale x0 x1 x2 x3 x4 x5 s
  | .ld x0 x1 x2 x3 x4 x5 => Sys2Proof.Machine.execLd x0 x1 x2 x3 x4 x5 s
  | .st x0 x1 x2 x3 x4 x5 => Sys2Proof.Machine.execSt x0 x1 x2 x3 x4 x5 s
  | .ldl x0 x1 x2 x3 x4 => Sys2Proof.Machine.execLdl x0 x1 x2 x3 x4 s
  | .stl x0 x1 x2 x3 x4 => Sys2Proof.Machine.execStl x0 x1 x2 x3 x4 s
  | .ldw x0 x1 x2 x3 x4 x5 => Sys2Proof.Machine.execLdw x0 x1 x2 x3 x4 x5 s
  | .pref x0 x1 x2 x3 => Sys2Proof.Machine.execPref x0 x1 x2 x3 s
  | .cctlUse x0 x1 x2 x3 x4 => Sys2Proof.Machine.execCctlUse x0 x1 x2 x3 x4 s
  | .cctlL1drop x0 x1 x2 x3 => Sys2Proof.Machine.execCctlL1drop x0 x1 x2 x3 s
  | .cctlWb x0 x1 x2 x3 => Sys2Proof.Machine.execCctlWb x0 x1 x2 x3 s
  | .atom x0 x1 x2 x3 x4 x5 x6 x7 => Sys2Proof.Machine.execAtom x0 x1 x2 x3 x4 x5 x6 x7 s
  | .atomLocal x0 x1 x2 x3 x4 x5 x6 => Sys2Proof.Machine.execAtomLocal x0 x1 x2 x3 x4 x5 x6 s
  | .acc x0 x1 x2 x3 x4 x5 x6 => Sys2Proof.Machine.execAcc x0 x1 x2 x3 x4 x5 x6 s
  | .flushres x0 => Sys2Proof.Machine.execFlushres x0 s
  | .fence x0 x1 x2 => Sys2Proof.Machine.execFence x0 x1 x2 s
  | .bar x0 x1 x2 x3 => Sys2Proof.Machine.execBar x0 x1 x2 x3 s
  | .gbar x0 x1 x2 x3 => Sys2Proof.Machine.execGbar x0 x1 x2 x3 s
  | .mwait x0 x1 x2 x3 x4 x5 x6 x7 => Sys2Proof.Machine.execMwait x0 x1 x2 x3 x4 x5 x6 x7 s
  | .claim x0 x1 => Sys2Proof.Machine.execClaim x0 x1 s
  | .release x0 x1 => Sys2Proof.Machine.execRelease x0 x1 s
  | .nap x0 x1 => Sys2Proof.Machine.execNap x0 x1 s
  | .gnewg x0 x1 x2 x3 => Sys2Proof.Machine.execGnewg x0 x1 x2 x3 s
  | .gnewv x0 x1 x2 x3 x4 => Sys2Proof.Machine.execGnewv x0 x1 x2 x3 x4 s
  | .gfreev x0 x1 x2 x3 x4 => Sys2Proof.Machine.execGfreev x0 x1 x2 x3 x4 s
  | .gadd x0 x1 x2 x3 x4 x5 x6 => Sys2Proof.Machine.execGadd x0 x1 x2 x3 x4 x5 x6 s
  | .gdel x0 x1 x2 x3 x4 x5 x6 x7 => Sys2Proof.Machine.execGdel x0 x1 x2 x3 x4 x5 x6 x7 s
  | .gswap x0 x1 x2 x3 x4 x5 x6 x7 => Sys2Proof.Machine.execGswap x0 x1 x2 x3 x4 x5 x6 x7 s
  | .gswapShared x0 x1 x2 x3 x4 x5 x6 x7 => Sys2Proof.Machine.execGswapShared x0 x1 x2 x3 x4 x5 x6 x7 s
  | .glde x0 x1 x2 x3 x4 x5 x6 => Sys2Proof.Machine.execGlde x0 x1 x2 x3 x4 x5 x6 s
  | .gdeg x0 x1 x2 x3 x4 x5 => Sys2Proof.Machine.execGdeg x0 x1 x2 x3 x4 x5 s
  | .gldv x0 x1 x2 x3 x4 x5 x6 => Sys2Proof.Machine.execGldv x0 x1 x2 x3 x4 x5 x6 s
  | .gstv x0 x1 x2 x3 x4 x5 x6 x7 => Sys2Proof.Machine.execGstv x0 x1 x2 x3 x4 x5 x6 x7 s
  | .gopen x0 x1 x2 x3 x4 x5 x6 => Sys2Proof.Machine.execGopen x0 x1 x2 x3 x4 x5 x6 s
  | .gnext x0 x1 x2 x3 => Sys2Proof.Machine.execGnext x0 x1 x2 x3 s
  | .gseek x0 x1 x2 x3 x4 => Sys2Proof.Machine.execGseek x0 x1 x2 x3 x4 s
  | .gclose x0 x1 x2 x3 => Sys2Proof.Machine.execGclose x0 x1 x2 x3 s
  | .gwaitlow x0 x1 x2 x3 x4 => Sys2Proof.Machine.execGwaitlow x0 x1 x2 x3 x4 s
  | .cpy x0 x1 x2 x3 x4 x5 x6 x7 x8 => Sys2Proof.Machine.execCpy x0 x1 x2 x3 x4 x5 x6 x7 x8 s
  | .ggath x0 x1 x2 x3 x4 x5 x6 x7 x8 => Sys2Proof.Machine.execGgath x0 x1 x2 x3 x4 x5 x6 x7 x8 s
  | .waitc x0 x1 x2 => Sys2Proof.Machine.execWaitc x0 x1 x2 s
  | .hwaitFull x0 x1 x2 => Sys2Proof.Machine.execHwaitFull x0 x1 x2 s
  | .hwaitFree x0 x1 => Sys2Proof.Machine.execHwaitFree x0 x1 s
  | .hrel x0 x1 => Sys2Proof.Machine.execHrel x0 x1 s
  | .mstart x0 x1 x2 x3 x4 => Sys2Proof.Machine.execMstart x0 x1 x2 x3 x4 s
  | .mstop x0 => Sys2Proof.Machine.execMstop x0 s
  | .bra x0 x1 => Sys2Proof.Machine.execBra x0 x1 s
  | .brx x0 x1 => Sys2Proof.Machine.execBrx x0 x1 s
  | .call x0 x1 => Sys2Proof.Machine.execCall x0 x1 s
  | .ret x0 => Sys2Proof.Machine.execRet x0 s
  | .exit x0 => Sys2Proof.Machine.execExit x0 s
  | .conv x0 x1 => Sys2Proof.Machine.execConv x0 x1 s
  | .yield x0 => Sys2Proof.Machine.execYield x0 s
  | .nop x0 => Sys2Proof.Machine.execNop x0 s
  | .bkpt x0 x1 => Sys2Proof.Machine.execBkpt x0 x1 s
  | .trap x0 x1 => Sys2Proof.Machine.execTrap x0 x1 s
  | .eret x0 x1 => Sys2Proof.Machine.execEret x0 x1 s
  | .rdsys x0 x1 x2 => Sys2Proof.Machine.execRdsys x0 x1 x2 s
  | .wrsys x0 x1 x2 => Sys2Proof.Machine.execWrsys x0 x1 x2 s
  | .rdts x0 x1 => Sys2Proof.Machine.execRdts x0 x1 s
  | .rdclk x0 x1 => Sys2Proof.Machine.execRdclk x0 x1 s
  | .setprio x0 x1 => Sys2Proof.Machine.execSetprio x0 x1 s
  | .mma x0 x1 x2 x3 x4 => Sys2Proof.Machine.execMma x0 x1 x2 x3 x4 s
  | .mzero x0 => Sys2Proof.Machine.execMzero x0 s
  | .mstore x0 x1 x2 x3 => Sys2Proof.Machine.execMstore x0 x1 x2 x3 s
  | .mscale x0 x1 x2 => Sys2Proof.Machine.execMscale x0 x1 x2 s
  | .mbar x0 => Sys2Proof.Machine.execMbar x0 s
  | .mloop x0 x1 x2 => Sys2Proof.Machine.execMloop x0 x1 x2 s
  | .mfmt x0 x1 => Sys2Proof.Machine.execMfmt x0 x1 s
  | .rollerStreamFetched x0 => Sys2Proof.Machine.execRollerStreamFetched x0 s
  | .policyLi x0 x1 => Sys2Proof.Machine.execPolicyLi x0 x1 s
  | .policyLui x0 x1 => Sys2Proof.Machine.execPolicyLui x0 x1 s
  | .policyAddi x0 x1 x2 => Sys2Proof.Machine.execPolicyAddi x0 x1 x2 s
  | .policyAdd x0 x1 x2 => Sys2Proof.Machine.execPolicyAdd x0 x1 x2 s
  | .policySub x0 x1 x2 => Sys2Proof.Machine.execPolicySub x0 x1 x2 s
  | .policyAnd x0 x1 x2 => Sys2Proof.Machine.execPolicyAnd x0 x1 x2 s
  | .policyOr x0 x1 x2 => Sys2Proof.Machine.execPolicyOr x0 x1 x2 s
  | .policyXor x0 x1 x2 => Sys2Proof.Machine.execPolicyXor x0 x1 x2 s
  | .policyShl x0 x1 x2 => Sys2Proof.Machine.execPolicyShl x0 x1 x2 s
  | .policyShr x0 x1 x2 => Sys2Proof.Machine.execPolicyShr x0 x1 x2 s
  | .policyMinu x0 x1 x2 => Sys2Proof.Machine.execPolicyMinu x0 x1 x2 s
  | .policyMaxu x0 x1 x2 => Sys2Proof.Machine.execPolicyMaxu x0 x1 x2 s
  | .policySltu x0 x1 x2 => Sys2Proof.Machine.execPolicySltu x0 x1 x2 s
  | .policyVq x0 x1 x2 => Sys2Proof.Machine.execPolicyVq x0 x1 x2 s
  | .policyVs x0 x1 x2 => Sys2Proof.Machine.execPolicyVs x0 x1 x2 s
  | .policyVp x0 x1 x2 => Sys2Proof.Machine.execPolicyVp x0 x1 x2 s
  | .policyVf x0 x1 => Sys2Proof.Machine.execPolicyVf x0 x1 s
  | .policyVg x0 x1 => Sys2Proof.Machine.execPolicyVg x0 x1 s
  | .policyFit x0 x1 x2 => Sys2Proof.Machine.execPolicyFit x0 x1 x2 s
  | .policyFind x0 x1 x2 => Sys2Proof.Machine.execPolicyFind x0 x1 x2 s
  | .policyBeq x0 x1 x2 => Sys2Proof.Machine.execPolicyBeq x0 x1 x2 s
  | .policyBne x0 x1 x2 => Sys2Proof.Machine.execPolicyBne x0 x1 x2 s
  | .policyBltu x0 x1 x2 => Sys2Proof.Machine.execPolicyBltu x0 x1 x2 s
  | .policyBgeu x0 x1 x2 => Sys2Proof.Machine.execPolicyBgeu x0 x1 x2 s
  | .policyBra x0 => Sys2Proof.Machine.execPolicyBra x0 s
  | .qloop x0 x1 => Sys2Proof.Machine.execQloop x0 x1 s
  | .policyEndPlace x0 x1 => Sys2Proof.Machine.execPolicyEndPlace x0 x1 s
  | .policyEndPreempt x0 => Sys2Proof.Machine.execPolicyEndPreempt x0 s
  | .homeRead x0 => Sys2Proof.Machine.execHomeRead x0 s
  | .leaseRenewal x0 => Sys2Proof.Machine.execLeaseRenewal x0 s
  | .homeWrite x0 => Sys2Proof.Machine.execHomeWrite x0 s
  | .readModifyWrite x0 => Sys2Proof.Machine.execReadModifyWrite x0 s
  | .readReply x0 => Sys2Proof.Machine.execReadReply x0 s
  | .writeReply x0 => Sys2Proof.Machine.execWriteReply x0 s
  | .ceilingHoldRelease x0 => Sys2Proof.Machine.execCeilingHoldRelease x0 s
  | .l2LineFill x0 x1 => Sys2Proof.Machine.execL2LineFill x0 x1 s
  | .mwaitHomeRead x0 => Sys2Proof.Machine.execMwaitHomeRead x0 s
  | .monitorReread x0 => Sys2Proof.Machine.execMonitorReread x0 s
  | .peerWordPoll x0 x1 => Sys2Proof.Machine.execPeerWordPoll x0 x1 s
  | .combiningEntryAge x0 x1 => Sys2Proof.Machine.execCombiningEntryAge x0 x1 s
  | .accRequestSend x0 x1 => Sys2Proof.Machine.execAccRequestSend x0 x1 s
  | .homeAccumulate x0 => Sys2Proof.Machine.execHomeAccumulate x0 s
  | .accUnitPerform x0 => Sys2Proof.Machine.execAccUnitPerform x0 s
  | .mustAcceptService x0 x1 => Sys2Proof.Machine.execMustAcceptService x0 x1 s
  | .accAccepted x0 => Sys2Proof.Machine.execAccAccepted x0 s
  | .accRefused x0 => Sys2Proof.Machine.execAccRefused x0 s
  | .residualAgeExpiry x0 x1 => Sys2Proof.Machine.execResidualAgeExpiry x0 x1 s
  | .residualDelivery x0 x1 => Sys2Proof.Machine.execResidualDelivery x0 x1 s
  | .lathMutation x0 => Sys2Proof.Machine.execLathMutation x0 s
  | .lathRead x0 => Sys2Proof.Machine.execLathRead x0 s
  | .lathReply x0 => Sys2Proof.Machine.execLathReply x0 s
  | .gnewgComplete x0 => Sys2Proof.Machine.execGnewgComplete x0 s
  | .reclamation x0 x1 x2 x3 => Sys2Proof.Machine.execReclamation x0 x1 x2 x3 s
  | .pageWalk x0 x1 => Sys2Proof.Machine.execPageWalk x0 x1 s
  | .tlbInvPage x0 x1 x2 => Sys2Proof.Machine.execTlbInvPage x0 x1 x2 s
  | .tlbInvPasid x0 x1 => Sys2Proof.Machine.execTlbInvPasid x0 x1 s
  | .tlbInvPartition x0 => Sys2Proof.Machine.execTlbInvPartition x0 s
  | .tlbInvComplete x0 => Sys2Proof.Machine.execTlbInvComplete x0 s
  | .faultPtrsWrite x0 x1 => Sys2Proof.Machine.execFaultPtrsWrite x0 x1 s
  | .hodPart x0 x1 => Sys2Proof.Machine.execHodPart x0 x1 s
  | .gatherRankResolve x0 x1 => Sys2Proof.Machine.execGatherRankResolve x0 x1 s
  | .hodOperationComplete x0 => Sys2Proof.Machine.execHodOperationComplete x0 s
  | .waveRetirement x0 => Sys2Proof.Machine.execWaveRetirement x0 s
  | .gridCompletion x0 x1 => Sys2Proof.Machine.execGridCompletion x0 x1 s
  | .trapClaimDeadlock x0 => Sys2Proof.Machine.execTrapClaimDeadlock x0 s
  | .throttleRelease x0 => Sys2Proof.Machine.execThrottleRelease x0 s
  | .napExpiry x0 => Sys2Proof.Machine.execNapExpiry x0 s
  | .dispatchDecision x0 => Sys2Proof.Machine.execDispatchDecision x0 s
  | .preemptionDecision x0 => Sys2Proof.Machine.execPreemptionDecision x0 s
  | .faultDecision x0 => Sys2Proof.Machine.execFaultDecision x0 s
  | .decisionApply x0 => Sys2Proof.Machine.execDecisionApply x0 s
  | .quantumExpiry x0 => Sys2Proof.Machine.execQuantumExpiry x0 s
  | .teamHalted x0 => Sys2Proof.Machine.execTeamHalted x0 s
  | .teamSaved x0 => Sys2Proof.Machine.execTeamSaved x0 s
  | .nodeArrival x0 x1 => Sys2Proof.Machine.execNodeArrival x0 x1 s
  | .nodeCompletion x0 x1 => Sys2Proof.Machine.execNodeCompletion x0 x1 s
  | .watchdogExpiry x0 => Sys2Proof.Machine.execWatchdogExpiry x0 s
  | .homeOfflineReply x0 => Sys2Proof.Machine.execHomeOfflineReply x0 s
  | .uncorrectableError x0 => Sys2Proof.Machine.execUncorrectableError x0 s
  | .hostCxlMemRequest x0 x1 x2 x3 => Sys2Proof.Machine.execHostCxlMemRequest x0 x1 x2 x3 s
  | .hostSnoop x0 x1 => Sys2Proof.Machine.execHostSnoop x0 x1 s
  | .backInvalidationResponse x0 => Sys2Proof.Machine.execBackInvalidationResponse x0 s
  | .peerRequest x0 x1 x2 => Sys2Proof.Machine.execPeerRequest x0 x1 x2 s
  | .registerWrite x0 x1 x2 => Sys2Proof.Machine.execRegisterWrite x0 x1 x2 s
  | .portGnewv x0 x1 x2 x3 => Sys2Proof.Machine.execPortGnewv x0 x1 x2 x3 s
  | .portGadd x0 x1 x2 x3 x4 x5 => Sys2Proof.Machine.execPortGadd x0 x1 x2 x3 x4 x5 s
  | .portGdel x0 x1 x2 x3 x4 => Sys2Proof.Machine.execPortGdel x0 x1 x2 x3 x4 s
  | .portGstv x0 x1 x2 x3 x4 x5 => Sys2Proof.Machine.execPortGstv x0 x1 x2 x3 x4 x5 s
  | .portGldv x0 x1 x2 x3 x4 => Sys2Proof.Machine.execPortGldv x0 x1 x2 x3 x4 s
  | .portGdeg x0 x1 x2 x3 => Sys2Proof.Machine.execPortGdeg x0 x1 x2 x3 s
  | .partCreate x0 x1 x2 x3 x4 x5 x6 => Sys2Proof.Machine.execPartCreate x0 x1 x2 x3 x4 x5 x6 s
  | .partDelete x0 x1 => Sys2Proof.Machine.execPartDelete x0 x1 s
  | .warmReset x0 x1 => Sys2Proof.Machine.execWarmReset x0 x1 s
  | .policyCommit x0 x1 => Sys2Proof.Machine.execPolicyCommit x0 x1 s
  | .policyCommitChecksEnd x0 => Sys2Proof.Machine.execPolicyCommitChecksEnd x0 s
  | .policySlotExchange x0 => Sys2Proof.Machine.execPolicySlotExchange x0 s
  | .unassignedEncoding x0 => Sys2Proof.Machine.execUnassignedEncoding x0 s
  | .rollerUnassignedWord x0 => Sys2Proof.Machine.execRollerUnassignedWord x0 s
  | .mend => Sys2Proof.Machine.execMend s
  | .policyEndNone => Sys2Proof.Machine.execPolicyEndNone s
  | .policyEndResume => Sys2Proof.Machine.execPolicyEndResume s
  | .policyEndSuspend => Sys2Proof.Machine.execPolicyEndSuspend s
  | .policyEndKillteam => Sys2Proof.Machine.execPolicyEndKillteam s
  | .policyEndKillgrid => Sys2Proof.Machine.execPolicyEndKillgrid s
  | .policyEndEscalate => Sys2Proof.Machine.execPolicyEndEscalate s
  | .ptsTick => Sys2Proof.Machine.execPtsTick s
  | .ceilingAdvance => Sys2Proof.Machine.execCeilingAdvance s
  | .throttleScoreHalving => Sys2Proof.Machine.execThrottleScoreHalving s
  | .fullDeviceReset => Sys2Proof.Machine.execFullDeviceReset s
  | .powerOn => Sys2Proof.Machine.execPowerOn s
  | .securityAlarm => Sys2Proof.Machine.execSecurityAlarm s
  | .thermalTrip => Sys2Proof.Machine.execThermalTrip s
  | .coolantFlowTrip => Sys2Proof.Machine.execCoolantFlowTrip s
  | .floorRecompute => Sys2Proof.Machine.execFloorRecompute s
  | .modulePowerLimit x0 => Sys2Proof.Machine.execModulePowerLimit x0 s
  | .junctionTempLimit x0 x1 => Sys2Proof.Machine.execJunctionTempLimit x0 x1 s
  | .hbmTempLimit x0 => Sys2Proof.Machine.execHbmTempLimit x0 s
  | .peerUnreachable x0 => Sys2Proof.Machine.execPeerUnreachable x0 s
  | .tokenRelease x0 => Sys2Proof.Machine.execTokenRelease x0 s
  | .spdmRequest x0 => Sys2Proof.Machine.execSpdmRequest x0 s
  | .dieReadmission x0 => Sys2Proof.Machine.execDieReadmission x0 s
  | .migPrecopy x0 => Sys2Proof.Machine.execMigPrecopy x0 s
  | .migStop x0 => Sys2Proof.Machine.execMigStop x0 s
  | .migContinue x0 => Sys2Proof.Machine.execMigContinue x0 s
  | .migResume x0 => Sys2Proof.Machine.execMigResume x0 s
  | .stoppingEnd x0 => Sys2Proof.Machine.execStoppingEnd x0 s
  | .migrationChunkRead x0 => Sys2Proof.Machine.execMigrationChunkRead x0 s
  | .migrationChunkWrite x0 x1 => Sys2Proof.Machine.execMigrationChunkWrite x0 x1 s
  | .migCtlInvalidCommand x0 x1 => Sys2Proof.Machine.execMigCtlInvalidCommand x0 x1 s
  | .mailboxDoorbellRefused x0 x1 => Sys2Proof.Machine.execMailboxDoorbellRefused x0 x1 s
  | .graphPortInvalidRecord x0 x1 => Sys2Proof.Machine.execGraphPortInvalidRecord x0 x1 s
  | .recover x0 x1 x2 => Sys2Proof.Machine.execRecover x0 x1 x2 s
  | .retire x0 x1 x2 => Sys2Proof.Machine.execRetire x0 x1 x2 s
  | .resume x0 x1 x2 x3 => Sys2Proof.Machine.execResume x0 x1 x2 x3 s
  | .kill x0 x1 x2 x3 x4 => Sys2Proof.Machine.execKill x0 x1 x2 x3 x4 s
  | .peerAcknowledgement x0 x1 => Sys2Proof.Machine.execPeerAcknowledgement x0 x1 s
  | .hostOwnershipGrant x0 => Sys2Proof.Machine.execHostOwnershipGrant x0 s
  | .mailboxCommandEnd x0 => Sys2Proof.Machine.execMailboxCommandEnd x0 s

end Sys2Proof.Machine
end

