-- ==== Sys2Proof/Machine/Run.lean ====
section
/-! DEFINITION. What happens next: ticks that are due, then the agenda's head, and a core cycle when the agenda is empty;
and the smallest states from which a given word is the next instruction (log entries 1 and 27). -/

namespace Sys2Proof.Machine

/-- Whether an operation acts while an alarm or a trip has stopped the module: only a power cycle does (R466). -/
def endsAlarm (i : Instr) : Bool := i == .powerOn

/-- What a move of the agenda performs: an event, a read of the host, the record of a slot of the graph port window, or the
instruction of a wave, a Roller or a Trowel. -/
def turnMove (s : State) : Turn → State × Option Instr
  | .event i => if halted s && !endsAlarm i then (s, none) else (s, some i)
  | .read r => (if halted s then s else hostRead s r, none)
  | .port part slot record => (s, if halted s then none else some (portInstr part slot record))
  | .issue core q cls => issueSlot s core q cls
  | .roller core => rollerSlot s core
  | .trowel p => trowelSlot s p

/-- What the module performs next: the ticks and halvings of a cycle that has begun, else the head of the agenda, else the
next cycle. -/
def nextMove (s : State) : State × Option Instr :=
  if s.ticked < s.cycle then (s, some .ptsTick)
  else if s.halved / 256 < s.cycle / 256 then (s, some .throttleScoreHalving)
  else match s.agenda with
    | [] => (s, some .ceilingAdvance)
    | t :: rest => turnMove { s with agenda := rest, focus := .none } t

/-! ## A state in which a word comes next -/

/-- The ticks of the cycle are done and nothing holds the module. -/
def readyState (s : State) (t : Turn) : State :=
  { s with agenda := [t], focus := .none, ticked := s.cycle, halved := s.cycle,
           ctrl := { s.ctrl with alarm := false, tripped := false } }

/-- A decision of partition 0 whose program is one word. -/
def policyState (s : State) (w : Word) : State :=
  let d : Decision :=
    { req := .dispatch, start := s.cycle, version := 0, image := [w], pc := 0, regs := List.replicate 16 0, loop := none,
      count := 0, views := freeze s 0 .dispatch, outcome := 0, action := none }
  (readyState s (.trowel 0)).setPart 0 { s.part 0 with dec := some d }

/-- The team, its gang and its grid, of partition 0 on core 0. -/
def teamState (s : State) (mat : Bool) (stream : Option Stream) : State :=
  let s := s.setGrid (gridKey 0 0) { Grid.fresh with mat := mat }
  let s := s.setGang 0 { Gang.fresh with placedAt := s.cycle }
  (s.setTeam 0 { Team.fresh with stream := stream }).setPart 0 (s.part 0)

/-- A wave of that team at virtual address 0, which an entry of its TLB maps to physical address 0, where the word lies. -/
def waveState (s : State) (w : Word96) : State :=
  let cls : IssueClass := if (Raw.unpack w).op.toNat / 16 ≤ 6 then .alu else .other
  let s := teamState (readyState s (.issue 0 0 cls)) false none
  let s := s.setWave 0 { Wave.fresh with blocks := 32, iss := { IssueSt.fresh with runPc := some 0 } }
  let e : TlbEnt :=
    { part := 0, pasid := 0, va := 0, pa := 0, size := 65536, tier := 0, ms := false, gb := false, x := true, w := true,
      r := true, last := 0 }
  let s := s.updCore 0 fun c => { c with slots := [], tlb := e :: c.tlb }
  s.wr 0 (bytesOfWord96 w)

/-- A Roller stream of one word. -/
def rollerState (s : State) (w : Word96) : State :=
  let st : Stream :=
    { addr := 0, wave := 0, slot := 0, gen := 0, words := [w], pc := 0, loops := [], table := 0, mask := 0, waiting := none,
      t := 0 }
  let s := teamState (readyState s (.roller 0)) true (some st)
  s.setWave 0 { Wave.fresh with blocks := 32 }

/-- A word of the table, stored where the next step finds it: a policy word in a decision of partition 0, a word of a wave
at the wave's program counter, a word of the Roller in its stream. -/
def placeWord (s : State) (nbits w : Nat) : State :=
  if nbits ≤ 32 then policyState s (wordOfBytes (bytesOfWord (BitVec.ofNat 32 w)))
  else
    let x := word96OfBytes (bytesOfWord96 (BitVec.ofNat 96 w))
    if (Raw.unpack x).op.toNat / 16 = 14 then rollerState s x else waveState s x

end Sys2Proof.Machine
end

