-- ==== Sys2Proof/Machine/Step.lean ====
section
/-! DEFINITION. One step of the module: what comes next, performed. -/

namespace Sys2Proof.Machine

/-- One step: the move that comes next, and what its instruction or operation does. A slot in which nothing issues is a
step too. -/
def step (s : State) : Host.Outcome State Fault Refusal :=
  match nextMove s with
  | (s, none) => .next s
  | (s, some i) => exec i s

/-- The state with a word of the opcode table stored where the next step fetches it. -/
def State.withFetchWord (s : State) (nbits w : Nat) : State := placeWord s nbits w

end Sys2Proof.Machine
end

