-- ==== Sys2Proof/Safety.lean ====
section
/-! DEFINITION. The terms in which claims are stated: what kind of word an instruction is, when an instruction of a wave
runs, what it delivers and what it leaves alone, and the invariants of the machine. -/

namespace Sys2Proof

/-- The words of the Roller (Table 17-5). -/
def rollerWord : Instr → Bool
  | .mma .. | .mzero .. | .mstore .. | .mscale .. | .mbar .. | .mloop .. | .mend | .mfmt .. => true
  | _ => false

namespace Machine

/-! ## When an instruction of a wave runs -/

/-- The wave in focus issues its instruction now, in context `c`; no check of R264 stops it, and no word that it reads holds an
uncorrectable error (R443). All conditions speak of the state and of the registers that the instruction names. -/
def Runs (hd : Hdr) (i : Instr) (s : State) (c : Ctx) : Prop :=
  s.ctx hd = some c ∧ c.w.checks hd.g (useOf i) = none ∧ c.w.badOperand (useOf i) c.E = none

/-- Where lanes that park read the register of their mask, no check of it fails and it holds no error (R251, R291, R443). -/
def MaskRead (c : Ctx) (u : Use) : Prop :=
  c.w.readsMask c.pc = true → c.w.checks plainGuard u = none ∧ c.w.badOperand u c.E = none

/-- The same for a wave-wide instruction: with the lanes that stand at its PC the gathering there is complete, and `c` is
the gathered group (R185, R186). -/
def RunsWide (hd : Hdr) (i : Instr) (m : MaskSrc) (s : State) (c : Ctx) : Prop :=
  ∃ c0 s0, s.ctx hd = some c0 ∧ MaskRead c0 (useMask m) ∧ gathered s c0 hd (maskVal c0.w m) false = (some c, s0) ∧
    c.w.checks hd.g (useOf i) = none ∧ c.w.badOperand (useOf i) c.E = none

/-- A word is sent to the wave in focus that finds a check of R264 failing: the trap's code and its info. -/
def Stopped (hd : Hdr) (i : Instr) (s : State) (c : Ctx) (code info : Nat) : Prop :=
  s.ctx hd = some c ∧ c.w.checks hd.g (useOf i) = some (code, info)

/-- The mask under which an instruction gathers its lanes, none when it is not wave-wide: the mask operand (R185), every
lane for barriers, CLAIM, RELEASE and CPY (R337, R341, R201), TRAP_LANES for ERET (R392). -/
def gatherMask : Instr → Option (Wave → LaneSet)
  | .shfl _ _ _ _ m _ | .vote _ _ _ m _ | .ballot _ _ _ m | .matchv _ _ _ m _ _ | .redux _ _ _ m _ _ | .conv _ m =>
    some fun w => maskVal w m
  | .bar .. | .gbar .. | .claim .. | .release .. | .cpy .. => some fun _ => BitVec.allOnes 32
  | .eret .. => some fun w => w.trap.lanes
  | _ => none

/-- The register of the mask that a wave-wide instruction names. -/
def gatherReads : Instr → Use
  | .shfl _ _ _ _ m _ | .vote _ _ _ m _ | .ballot _ _ _ m | .matchv _ _ _ m _ _ | .redux _ _ _ m _ _ | .conv _ m => useMask m
  | _ => uses []

/-- Whether a gathering that one path fills at once leaves the latches valid: those that name no mask and no lanes (R326,
R341). -/
def gatherKeeps : Instr → Bool
  | .bar .. | .gbar .. | .claim .. | .release .. => true
  | _ => false

/-- A wave-wide instruction whose gathering is complete now, with the mask that it gathers under: `c` is the gathered
group, and no check of R264 stops it. -/
def RunsGathered (hd : Hdr) (i : Instr) (s : State) (c : Ctx) : Prop :=
  ∃ c0 s0 f, gatherMask i = some f ∧ s.ctx hd = some c0 ∧ MaskRead c0 (gatherReads i) ∧
    gathered s c0 hd (f c0.w) (gatherKeeps i) = (some c, s0) ∧ c.w.checks hd.g (useOf i) = none ∧
    c.w.badOperand (useOf i) c.E = none

/-! ## What an instruction delivers -/

/-- The live lanes of the path stand at the PCs that `f` gives, every other lane where it stood (R183). -/
def Moves (c : Ctx) (w : Wave) (f : Nat → DWord) : Prop :=
  ∀ l, l < 32 → w.pcOf l = if (c.path &&& c.w.live).getLsbD l then f l else c.w.pcOf l

/-- The lanes of the path go on to one PC. -/
def Together (c : Ctx) (f : Nat → DWord) (t : DWord) : Prop :=
  ∀ l, l < 32 → (c.path &&& c.w.live).getLsbD l = true → f l = t

/-- Lanes that stand at a PC already, outside the path, join it there, which invalidates the latches (R183, R257). -/
def joinsAt (c : Ctx) (t : DWord) : Bool :=
  { c.w with gathers := c.w.gathers.filter fun g => g.pc != c.pc }.freeAt t &&& ~~~(c.path &&& c.w.live) != 0

/-- Lanes join at the next instruction. -/
def joins (c : Ctx) : Bool := joinsAt c (nextPc c.pc)

/-- A vector register after words `fs` have been delivered to a destination for the lanes of E (R55, R255). -/
def newVec (w : Wave) (E : LaneSet) (d : Dst) (fs : List (Nat → Word)) (n l : Nat) : Word :=
  match d.r with
  | .v k => if d.nw = false ∧ k.toNat ≤ n ∧ n < k.toNat + fs.length ∧ E.getLsbD l then fs.getD (n - k.toNat) (fun _ => 0) l
    else w.vget n l
  | _ => w.vget n l

/-- A uniform register after the same: the lowest lane of E gives the value (R255). -/
def newUni (w : Wave) (E : LaneSet) (d : Dst) (fs : List (Nat → Word)) (n : Nat) : Word :=
  match d.r with
  | .w k => match lowLane E with
    | some j => if d.nw = false ∧ k.toNat ≤ n ∧ n < k.toNat + fs.length then fs.getD (n - k.toNat) (fun _ => 0) j else w.wget n
    | none => w.wget n
  | _ => w.wget n

/-- The values that word `k` of a result shifts into the latches (R256): the result in the lanes of E, what the destination
holds in the others; for a uniform destination its value in every lane. -/
def latchRow (w : Wave) (E : LaneSet) (d : Dst) (k : Nat) (f : Nat → Word) : List Word :=
  match d.r with
  | .v n => row fun l => if E.getLsbD l then f l else w.vget (n.toNat + k) l
  | .w n => row fun _ => match lowLane E with
    | some j => f j
    | none => w.wget (n.toNat + k)
  | .zero => row fun l => if E.getLsbD l then f l else 0

/-- The rows of all words of a result, the last one first. -/
def latchRows (w : Wave) (E : LaneSet) (d : Dst) : List (Nat → Word) → List (List Word)
  | [f] => [latchRow w E d 0 f]
  | [f, g] => [latchRow w E d 1 g, latchRow w E d 0 f]
  | _ => []

/-- Nothing of the module but wave `c.id` changes, and of that wave only registers, latches, FSTATUS, program counters and
the record of its issue; a mark of an error can go, and none comes (R443); the lanes of the path go to the PCs that `f` gives;
every byte of memory reads as before. -/
structure OnlyWave (s t : State) (c : Ctx) (f : Nat → DWord) : Prop where
  others : t = { s with waves := tput s.waves c.id (t.wave c.id) }
  memory : ∀ a, memGet t.mem a = memGet s.mem a
  rest : t.wave c.id =
    { c.w with
      v := (t.wave c.id).v, w := (t.wave c.id).w, p := (t.wave c.id).p, bad := (t.wave c.id).bad,
      latches := (t.wave c.id).latches, fstatus := (t.wave c.id).fstatus, pc := (t.wave c.id).pc, iss := (t.wave c.id).iss,
      gathers := (t.wave c.id).gathers }
  marks : ∀ e ∈ (t.wave c.id).bad, e ∈ c.w.bad
  pcs : Moves c (t.wave c.id) f

/-- A fixed-latency instruction has delivered words `fs` to its destination for the lanes of E and raised flags `fl`:
the registers, the latches with their shift, FSTATUS, and everything else as it was. -/
structure Delivers (s t : State) (c : Ctx) (hd : Hdr) (d : Dst) (fs : List (Nat → Word)) (fl : Flags) : Prop
    extends OnlyWave s t c (fun _ => nextPc c.pc) where
  vec : ∀ n l, l < 32 → (t.wave c.id).vget n l = newVec c.w c.E d fs n l
  uni : ∀ n, (t.wave c.id).wget n = newUni c.w c.E d fs n
  preds : (t.wave c.id).p = c.w.p
  shift : (t.wave c.id).latches.map (·.vals) = (latchRows c.w c.E d fs ++ c.w.latches.map (·.vals)).take 4
  valid : hd.h.yld = false → joins c = false →
    (t.wave c.id).latches.map (·.valid) = (fs.map (fun _ => true) ++ c.w.latches.map (·.valid)).take 4
  flags : (t.wave c.id).fstatus = c.w.fstatus ||| fl

/-- An instruction with a predicate result has delivered it in the lanes of E; p7 stays 1 in every lane, and nothing is
shifted into the latches (R253, R256). -/
structure Decides (s t : State) (c : Ctx) (hd : Hdr) (d : PDst) (f : Nat → Bool) (fl : Flags) : Prop
    extends OnlyWave s t c (fun _ => nextPc c.pc) where
  regs : (t.wave c.id).v = c.w.v ∧ (t.wave c.id).w = c.w.w
  preds : ∀ p l, l < 32 → (t.wave c.id).pbit p l =
    if d.nw = false ∧ p = d.p ∧ p ≠ 7 ∧ c.E.getLsbD l then f l else c.w.pbit p l
  latches : hd.h.yld = false → joins c = false → (t.wave c.id).latches = c.w.latches
  flags : (t.wave c.id).fstatus = c.w.fstatus ||| fl

/-- An instruction without a result has issued, and the lanes of its path go where `f` sends them: no register, predicate,
flag or latch value changes. Lanes that part leave every latch invalid; lanes that go on together, and meet no other
lanes, leave the latches as they were (R257, R295). -/
structure Goes (s t : State) (c : Ctx) (hd : Hdr) (f : Nat → DWord) : Prop extends OnlyWave s t c f where
  regs : (t.wave c.id).v = c.w.v ∧ (t.wave c.id).w = c.w.w ∧ (t.wave c.id).p = c.w.p
  flags : (t.wave c.id).fstatus = c.w.fstatus
  vals : (t.wave c.id).latches.map (·.vals) = c.w.latches.map (·.vals)
  parts : ∀ i j, i < 32 → j < 32 → (c.path &&& c.w.live).getLsbD i = true → (c.path &&& c.w.live).getLsbD j = true →
    f i ≠ f j → ∀ x ∈ (t.wave c.id).latches, x.valid = false
  keeps : ∀ pc, hd.h.yld = false → Together c f pc → joinsAt c pc = false → (t.wave c.id).latches = c.w.latches

/-! ## Instructions with a result -/

/-- Wherever the instruction runs, it delivers a 32-bit result and raises no flag. -/
def Gives32 (i : Instr) (hd : Hdr) (d : Dst) (f : State → Wave → Nat → Word) : Prop :=
  ∀ s c, Runs hd i s c → ∃ t, exec i s = .next t ∧ Delivers s t c hd d [f s c.w] 0

/-- The same for a 64-bit result in a pair: low word first. -/
def Gives64 (i : Instr) (hd : Hdr) (d : Dst) (f : State → Wave → Nat → DWord) : Prop :=
  ∀ s c, Runs hd i s c → ∃ t, exec i s = .next t ∧
    Delivers s t c hd d [fun l => loWord (f s c.w l), fun l => hiWord (f s c.w l)] 0

/-- A result of 32 bits, or of 64 bits when the instruction is wide. -/
def GivesW (wide : Bool) (i : Instr) (hd : Hdr) (d : Dst) (f32 : State → Wave → Nat → Word)
    (f64 : State → Wave → Nat → DWord) : Prop :=
  (wide = false → Gives32 i hd d f32) ∧ (wide = true → Gives64 i hd d f64)

/-- A predicate result without flags. -/
def GivesPred (i : Instr) (hd : Hdr) (d : PDst) (f : State → Wave → Nat → Bool) : Prop :=
  ∀ s c, Runs hd i s c → ∃ t, exec i s = .next t ∧ Decides s t c hd d (f s c.w) 0

/-- A 32-bit result with floating flags, which the lanes of E raise together. -/
def GivesF32 (i : Instr) (hd : Hdr) (d : Dst) (f : State → Wave → Nat → FRes) : Prop :=
  ∀ s c, Runs hd i s c → ∃ t, exec i s = .next t ∧
    Delivers s t c hd d [fun l => BitVec.ofNat 32 (f s c.w l).bits] (joinFlags c.E fun l => (f s c.w l).fl)

/-- A 64-bit result with floating flags. -/
def GivesF64 (i : Instr) (hd : Hdr) (d : Dst) (f : State → Wave → Nat → FRes) : Prop :=
  ∀ s c, Runs hd i s c → ∃ t, exec i s = .next t ∧
    Delivers s t c hd d [fun l => BitVec.ofNat 32 ((f s c.w l).bits % 2 ^ 32),
      fun l => BitVec.ofNat 32 ((f s c.w l).bits / 2 ^ 32)] (joinFlags c.E fun l => (f s c.w l).fl)

/-- A predicate result with floating flags. -/
def GivesFPred (i : Instr) (hd : Hdr) (d : PDst) (f : State → Wave → Nat → Bool × Flags) : Prop :=
  ∀ s c, Runs hd i s c → ∃ t, exec i s = .next t ∧
    Decides s t c hd d (fun l => (f s c.w l).1) (joinFlags c.E fun l => (f s c.w l).2)

/-- An integer clamped to the range of an integer type of n bits. -/
def clamped (signed : Bool) (n : Nat) (z : Int) : Int := max (minOf signed n) (min z (maxOf signed n))

/-! ## Instructions whose results come later -/

/-- An instruction has issued and is in flight under the next serial number: its destination's registers are pending, the
scoreboard that SET names counts one more, the lanes go on (R250, R251), and no register, predicate or byte of memory
changes. Of the other waves at most throttle scores change (R199). Beside the waves and the flight, requests and copies
in the caches may change; a statement says which. -/
structure Departs (s t : State) (c : Ctx) (hd : Hdr) (fl : Flight) : Prop where
  flight : tget t.flights s.nextId = some fl
  others : ∀ k, k ≠ s.nextId → tget t.flights k = tget s.flights k
  waves : ∀ k, k ≠ c.id →
    t.wave k = { s.wave k with iss := { (s.wave k).iss with score := (t.wave k).iss.score } }
  from_ : fl.wave = c.id ∧ fl.pc = c.pc ∧ fl.sb = hd.h.set.map (·.toNat)
  memory : ∀ a, memGet t.mem a = memGet s.mem a
  regs : (t.wave c.id).v = c.w.v ∧ (t.wave c.id).w = c.w.w ∧ (t.wave c.id).p = c.w.p
  vals : (t.wave c.id).latches.map (·.vals) = c.w.latches.map (·.vals)
  pend : (t.wave c.id).pend = fl.regs ++ c.w.pend
  counts : ∀ n, n < c.w.sb.length → (t.wave c.id).sbOf n = if fl.sb = some n then c.w.sbOf n + 1 else c.w.sbOf n
  rest : t.wave c.id =
    { c.w with
      latches := (t.wave c.id).latches, fstatus := (t.wave c.id).fstatus, pc := (t.wave c.id).pc,
      iss := (t.wave c.id).iss, gathers := (t.wave c.id).gathers, pend := (t.wave c.id).pend, sb := (t.wave c.id).sb,
      xpages := (t.wave c.id).xpages, xfault := (t.wave c.id).xfault }
  pcs : Moves c (t.wave c.id) fun _ => nextPc c.pc

/-- An instruction that is performed at its issue is in flight with its results, `n` words for each lane of E, until READ_REPLY
writes them (R250, R251; log entry 17). -/
def Keeps (s t : State) (c : Ctx) (hd : Hdr) (n : Nat) (d : DReg) (vals : List (Nat → Word)) : Prop :=
  ∃ fl, Departs s t c hd fl ∧ fl.dest = .kept n ∧ fl.d = d ∧ fl.pd = 7 ∧ fl.left = c.E ∧ fl.first = firstLane c.E ∧
    fl.regs = (useReg n d).regs ∧ fl.vals.length = 32 * n ∧
    ∀ l, l < 32 → c.E.getLsbD l = true → (fl.vals.drop (n * l)).take n = vals.map fun f => f l

/-- Wherever a wave-wide instruction's gathering issues, it delivers a 32-bit result, computed from the gathered group. -/
def GivesWide (i : Instr) (hd : Hdr) (m : MaskSrc) (d : Dst) (f : State → Ctx → Nat → Word)
    (fl : State → Ctx → Flags := fun _ _ => 0) : Prop :=
  ∀ s c, RunsWide hd i m s c → ∃ t, exec i s = .next t ∧ Delivers s t c hd d [f s c] (fl s c)

/-! ## Instructions that block their wave -/

/-- The wave has issued a blocking instruction and waits at it: nothing of the wave changes but what it waits for and the
record of its issue, and no latch is valid (R154, R257). -/
def Waits (c : Ctx) (w : Wave) (b : Blocked) : Prop :=
  w = { c.w with blocked := b, latches := w.latches, iss := w.iss, gathers := w.gathers } ∧
    (∀ x ∈ w.latches, x.valid = false) ∧ w.iss.runPc = some c.pc

/-- A blocking instruction whose wait is over at once: its lanes go on, no register or flag changes, and no latch is
valid. -/
def Passes (c : Ctx) (w : Wave) : Prop :=
  w.v = c.w.v ∧ w.w = c.w.w ∧ w.p = c.w.p ∧ w.fstatus = c.w.fstatus ∧ w.blocked = .none ∧
    (∀ x ∈ w.latches, x.valid = false) ∧ Moves c w fun _ => nextPc c.pc

/-- The lanes of the path stand together at its PC and are not parked elsewhere. -/
def Stands (c : Ctx) : Prop := { c.w with gathers := c.w.gathers.filter fun g => g.pc != c.pc }.freeAt c.pc = c.path

/-! ## Values in memory -/

/-- Word `j` of what a load of a type delivers, from the number that its bytes form (R227, R327). -/
def loadedWord (mt : MemTy) (x j : Nat) : Word :=
  match mt with
  | .i8 => (BitVec.ofNat 8 x).signExtend 32
  | .n8 => (BitVec.ofNat 8 x).setWidth 32
  | .i16 => (BitVec.ofNat 16 x).signExtend 32
  | .n16 => (BitVec.ofNat 16 x).setWidth 32
  | _ => BitVec.ofNat 32 (x / 2 ^ (32 * j))

/-- The words that a load delivers, one function of the lane for each. -/
def loadedWords (mt : MemTy) (x : Nat → Nat) : List (Nat → Word) :=
  (List.range (memRegs mt)).map fun j l => loadedWord mt (x l) j

/-- The number that a store of a type writes from its operand (R327). -/
def storedValue (s : State) (w : Wave) (l : Nat) (b : Src) (mt : MemTy) : Nat :=
  match mt with
  | .b128 => (rdQuad s w l b).toNat
  | .b64 => (rd64 s w l b).toNat
  | _ => (rd32 s w l b).toNat

/-- A byte of a gang's local memory. -/
def Gang.locByte (g : Gang) (o : Nat) : Byte := (tget g.loc o).getD 0

/-- The number that bytes of a gang's local memory form, lowest first. -/
def Gang.locValue (g : Gang) (o : Nat) : Nat → Nat
  | 0 => 0
  | n + 1 => (g.locByte o).toNat + 256 * g.locValue (o + 1) n

/-! ## Requests to homes and to Lath -/

/-- Every address that an instruction translates is found, in order, with a leaf that allows its access: `xs` gives the
physical addresses and their entries, and `s1` is the state whose TLBs hold them (R27, R30, R35). -/
def Translates (s : State) (c : Ctx) (vas : List (Nat × Access)) (xs : List (Nat × TlbEnt)) (s1 : State) : Prop :=
  xlatAll (.wave c.id) c.w vas s = (s1, xs.map fun x => .ok x.1 x.2)

/-- No lane of a set waits for a peer's acknowledgement (R151), and the wave, its core and its cluster have room for `n`
more requests, `k` of them with tokens (R435 to R437). -/
def MaySend (s : State) (c : Ctx) (m : LaneSet) (n k : Nat) : Prop :=
  peerBusy s c.id m = false ∧ roomFor s c.w c.id n k = true

/-- The sequence number of the k-th token from one (R437). -/
def tokenAt (x : Nat) : Nat → Nat
  | 0 => x
  | k + 1 => (tokenAt x k + 1) % 2 ^ 25

/-- The k-th token that a core's cluster gives from now on: the cluster above its sequence number. -/
def tokenOf (s : State) (c : Ctx) (k : Nat) : Nat :=
  coreCluster c.w.core * 2 ^ 25 + tokenAt (s.cluster (coreCluster c.w.core)).tokSeq k

/-- Requests `rs` have been sent in order, under the serial numbers from `n` on, each with its cluster's next token when
requests of its kind carry one (R436, R437); no other request changes. -/
structure Sends (s t : State) (c : Ctx) (n : Nat) (rs : List Req) (tokens : Bool) : Prop where
  sent : ∀ k r, rs[k]? = some r → tget t.reqs (n + k) = some { r with token := if tokens then some (tokenOf s c k) else none }
  others : ∀ j, j < n ∨ n + rs.length ≤ j → tget t.reqs j = tget s.reqs j
  replies : t.reps = s.reps
  memory : ∀ a, memGet t.mem a = memGet s.mem a

end Machine

end Sys2Proof
end

