-- ==== Sys2Proof/Certificates/Slice0/Obligations.lean ====
section
/-! DEFINITION. The statements about the machine, for the provers. Numbers R<n> in the docstrings name the rules of spec/
from which a statement is taken. -/

open Sys2Proof Sys2Proof.Machine

/-- IADD and ISUB add and subtract exactly, and narrow to 32 bits modulo 2^32, or with .sat to the range of TYPE
(R276). IMAD and IMULH (R277): the product and sum modulo 2^32, or with .wide the extended product and the pair C
modulo 2^64; the immediate form adds what D held, zero for the zero register, also with NW; IMULH gives bits 63:32 of
the product. IADD64 and LEA (R278) on pairs, modulo 2^64, the index extended by TYPE and shifted. ISETP (R280): the
compare, signed or unsigned by TYPE, combined with the predicate operand; the immediate form takes the compare alone.
-/
def Obligations.IntegerSumsAndProducts : Prop :=
  (∀ hd d a b imm sat ty,
     let narrowed (z : Int) : Word := BitVec.ofInt 32 (if sat then clamped ty.isSigned 32 z else z)
     let val := val32 ty.isSigned
     Gives32 (.iadd hd d a b sat ty) hd d (fun s w l => narrowed (val (rd32 s w l a) + val (rd32 s w l b))) ∧
     Gives32 (.iaddImm hd d a imm sat ty) hd d (fun s w l => narrowed (val (rd32 s w l a) + val imm)) ∧
     Gives32 (.isub hd d a b sat ty) hd d (fun s w l => narrowed (val (rd32 s w l a) - val (rd32 s w l b)))) ∧
  (∀ hd d a b c imm ty,
     let val := val32 ty.isSigned
     Gives32 (.imad hd d a b c false ty) hd d (fun s w l => rd32 s w l a * rd32 s w l b + rd32 s w l c) ∧
     Gives64 (.imad hd d a b c true ty) hd d
       (fun s w l => BitVec.ofInt 64 (val (rd32 s w l a) * val (rd32 s w l b)) + rd64 s w l c) ∧
     Gives32 (.imadImm hd d a imm ty) hd d (fun s w l => rd32 s w l a * imm + match d.r with
       | .v n => w.vget n.toNat l
       | .w n => w.wget n.toNat
       | .zero => 0) ∧
     Gives32 (.imulh hd d a b ty) hd d (fun s w l =>
       BitVec.ofInt 32 (val (rd32 s w l a) * val (rd32 s w l b) / 2 ^ 32))) ∧
  (∀ hd d a b imm sh ty,
     Gives64 (.iadd64 hd d a b) hd d (fun s w l => rd64 s w l a + rd64 s w l b) ∧
     Gives64 (.iadd64Imm hd d a imm) hd d (fun s w l => rd64 s w l a + imm.signExtend 64) ∧
     Gives64 (.lea hd d a b sh ty) hd d (fun s w l => rd64 s w l a +
       (if ty.isSigned then (rd32 s w l b).signExtend 64 else (rd32 s w l b).setWidth 64) <<< sh.toNat) ∧
     Gives64 (.leaImm hd d a imm sh ty) hd d (fun s w l => rd64 s w l a +
       (if ty.isSigned then imm.signExtend 64 else imm.setWidth 64) <<< sh.toNat)) ∧
  (∀ hd pd a b q cmp bop ty imm,
     let test (x y : Int) : Bool := match cmp with
       | .eq => decide (x = y)
       | .ne => decide (x ≠ y)
       | .lt => decide (x < y)
       | .le => decide (x ≤ y)
       | .gt => decide (y < x)
       | .ge => decide (y ≤ x)
     let join (t u : Bool) : Bool := match bop with
       | .and => t && u
       | .or => t || u
       | .xor => t ^^ u
     let val (s : State) (w : Wave) (l : Nat) (x : Src) : Int :=
       if ty.is64 then val64 ty.isSigned (rd64 s w l x) else val32 ty.isSigned (rd32 s w l x)
     let immVal : Int := if ty.is64 then val64 ty.isSigned (if ty = .n64 then imm.setWidth 64 else imm.signExtend 64)
       else val32 ty.isSigned imm
     GivesPred (.isetp hd pd a b q cmp bop ty) hd pd
       (fun s w l => join (test (val s w l a) (val s w l b)) (w.pbit q l)) ∧
     GivesPred (.isetpImm hd pd a imm cmp ty) hd pd (fun s w l => test (val s w l a) immVal))

/-- IMIN, IMAX and IABS (R279, R275): compared as TYPE says; the absolute value of the most negative number is that
number, and with .sat the most positive one. -/
def Obligations.MinimaMaximaAndAbsoluteValues : Prop :=
  ∀ hd d a b imm sat ty,
    let lt32 (x y : Word) : Bool := if ty.isSigned then decide (x.toInt < y.toInt) else decide (x.toNat < y.toNat)
    let lt64 (x y : DWord) : Bool := if ty.isSigned then decide (x.toInt < y.toInt) else decide (x.toNat < y.toNat)
    let wideImm : DWord := if ty = .n64 then imm.setWidth 64 else imm.signExtend 64
    GivesW ty.is64 (.imin hd d a b ty) hd d
      (fun s w l => if lt32 (rd32 s w l b) (rd32 s w l a) then rd32 s w l b else rd32 s w l a)
      (fun s w l => if lt64 (rd64 s w l b) (rd64 s w l a) then rd64 s w l b else rd64 s w l a) ∧
    GivesW ty.is64 (.imax hd d a b ty) hd d
      (fun s w l => if lt32 (rd32 s w l a) (rd32 s w l b) then rd32 s w l b else rd32 s w l a)
      (fun s w l => if lt64 (rd64 s w l a) (rd64 s w l b) then rd64 s w l b else rd64 s w l a) ∧
    GivesW ty.is64 (.iminImm hd d a imm ty) hd d
      (fun s w l => if lt32 imm (rd32 s w l a) then imm else rd32 s w l a)
      (fun s w l => if lt64 wideImm (rd64 s w l a) then wideImm else rd64 s w l a) ∧
    GivesW ty.is64 (.imaxImm hd d a imm ty) hd d
      (fun s w l => if lt32 (rd32 s w l a) imm then imm else rd32 s w l a)
      (fun s w l => if lt64 (rd64 s w l a) wideImm then wideImm else rd64 s w l a) ∧
    GivesW ty.is64 (.iabs hd d a sat ty) hd d
      (fun s w l => let x := rd32 s w l a
        if x = BitVec.intMin 32 then (if sat then BitVec.intMax 32 else BitVec.intMin 32)
        else if x.msb then -x else x)
      (fun s w l => let x := rd64 s w l a
        if x = BitVec.intMin 64 then (if sat then BitVec.intMax 64 else BitVec.intMin 64)
        else if x.msb then -x else x)

/-- POPC, CLZ and BREV (R284): the number of 1 bits, the number of 0 bits above the highest 1 bit, and bit W - 1 - k
in place of bit k. -/
def Obligations.CountsAndReversalOfBits : Prop :=
  ∀ hd d a ty,
    let ones {n : Nat} (x : BitVec n) : Nat := (List.range n).countP fun k => x.getLsbD k
    let zeros {n : Nat} (x : BitVec n) : Nat := ((List.range n).takeWhile fun k => !x.getLsbD (n - 1 - k)).length
    Gives32 (.popc hd d a ty) hd d
      (fun s w l => BitVec.ofNat 32 (if ty.is64 then ones (rd64 s w l a) else ones (rd32 s w l a))) ∧
    Gives32 (.clz hd d a ty) hd d
      (fun s w l => BitVec.ofNat 32 (if ty.is64 then zeros (rd64 s w l a) else zeros (rd32 s w l a))) ∧
    ∃ (f32 : State → Wave → Nat → Word) (f64 : State → Wave → Nat → DWord),
      GivesW ty.is64 (.brev hd d a ty) hd d f32 f64 ∧
      (∀ s w l k, k < 32 → (f32 s w l).getLsbD k = (rd32 s w l a).getLsbD (31 - k)) ∧
      (∀ s w l k, k < 64 → (f64 s w l).getLsbD k = (rd64 s w l a).getLsbD (63 - k))

/-- ISEL (R281): a where the selecting predicate xor PNEG is 1, and b elsewhere. BSEL (R286): each byte from the eight
of a and b by its 3-bit index, cleared by its clear flag, which takes precedence, or made of its sign by its sign
flag. -/
def Obligations.SelectionOfWordsAndBytes : Prop :=
  (∀ hd d a b imm neg p ty,
     GivesW ty.is64 (.isel hd d a b neg p ty) hd d
       (fun s w l => if (w.pbit p l ^^ neg) = true then rd32 s w l a else rd32 s w l b)
       (fun s w l => if (w.pbit p l ^^ neg) = true then rd64 s w l a else rd64 s w l b) ∧
     GivesW ty.is64 (.iselImm hd d a imm neg p ty) hd d
       (fun s w l => if (w.pbit p l ^^ neg) = true then rd32 s w l a else imm)
       (fun s w l => if (w.pbit p l ^^ neg) = true then rd64 s w l a
         else if ty = .n64 then imm.setWidth 64 else imm.signExtend 64)) ∧
  (∀ hd d a b c, ∃ f : State → Wave → Nat → Word, Gives32 (.bsel hd d a b c) hd d f ∧
     ∀ s w l n j, n < 4 → j < 8 →
       let y := rd32 s w l c
       let src := y.toNat / 2 ^ (3 * n) % 8
       let bit (k : Nat) : Bool := if src < 4 then (rd32 s w l a).getLsbD (8 * src + k) else (rd32 s w l b).getLsbD (8 * (src - 4) + k)
       (f s w l).getLsbD (8 * n + j) =
         if y.getLsbD (16 + n) then false else if y.getLsbD (12 + n) then bit 7 else bit j)

/-- Shifts and rotates (R282): an amount of the width or more gives zero, or the sign for SAR, and a rotate takes it
modulo the width. BOOL3 (R283): bit k of the result is the bit of FN that the three bits k select, a least
significant. The immediate form takes c as 0. BFE and BFI (R285): the field at b[7:0] of min(b[15:8], 32) bits,
extended by TYPE with the sign filling past bit 31, and the same field replaced. -/
def Obligations.ShiftsAndBitFields : Prop :=
  (∀ hd d a b amt right ty,
     let amount (s : State) (w : Wave) (l : Nat) : Nat := (rd32 s w l b).toNat
     let k : Nat := BitVec.toNat (amt : BitVec 6)
     GivesW ty.is64 (.shl hd d a b ty) hd d
       (fun s w l => if 32 ≤ amount s w l then 0 else rd32 s w l a <<< amount s w l)
       (fun s w l => if 64 ≤ amount s w l then 0 else rd64 s w l a <<< amount s w l) ∧
     GivesW ty.is64 (.shr hd d a b ty) hd d
       (fun s w l => if 32 ≤ amount s w l then 0 else rd32 s w l a >>> amount s w l)
       (fun s w l => if 64 ≤ amount s w l then 0 else rd64 s w l a >>> amount s w l) ∧
     GivesW ty.is64 (.sar hd d a b ty) hd d
       (fun s w l => if 32 ≤ amount s w l then (if (rd32 s w l a).msb then BitVec.allOnes 32 else 0)
         else (rd32 s w l a).sshiftRight (amount s w l))
       (fun s w l => if 64 ≤ amount s w l then (if (rd64 s w l a).msb then BitVec.allOnes 64 else 0)
         else (rd64 s w l a).sshiftRight (amount s w l)) ∧
     GivesW ty.is64 (.shlImm hd d a amt ty) hd d
       (fun s w l => if 32 ≤ k then 0 else rd32 s w l a <<< k) (fun s w l => rd64 s w l a <<< k) ∧
     GivesW ty.is64 (.shrImm hd d a amt ty) hd d
       (fun s w l => if 32 ≤ k then 0 else rd32 s w l a >>> k) (fun s w l => rd64 s w l a >>> k) ∧
     GivesW ty.is64 (.sarImm hd d a amt ty) hd d
       (fun s w l => if 32 ≤ k then (if (rd32 s w l a).msb then BitVec.allOnes 32 else 0) else (rd32 s w l a).sshiftRight k)
       (fun s w l => (rd64 s w l a).sshiftRight k) ∧
     GivesW ty.is64 (.rot hd d a b right ty) hd d
       (fun s w l => if right then (rd32 s w l a).rotateRight (amount s w l % 32) else (rd32 s w l a).rotateLeft (amount s w l % 32))
       (fun s w l => if right then (rd64 s w l a).rotateRight (amount s w l % 64) else (rd64 s w l a).rotateLeft (amount s w l % 64))) ∧
  (∀ hd d a b c imm fn,
     let table (x y z : Bool) : Bool := BitVec.getLsbD (fn : BitVec 8) (x.toNat + 2 * y.toNat + 4 * z.toNat)
     (∃ f : State → Wave → Nat → Word, Gives32 (.bool3 hd d a b c false fn) hd d f ∧
       ∀ s w l k, k < 32 → (f s w l).getLsbD k =
         table ((rd32 s w l a).getLsbD k) ((rd32 s w l b).getLsbD k) ((rd32 s w l c).getLsbD k)) ∧
     (∃ f : State → Wave → Nat → DWord, Gives64 (.bool3 hd d a b c true fn) hd d f ∧
       ∀ s w l k, k < 64 → (f s w l).getLsbD k =
         table ((rd64 s w l a).getLsbD k) ((rd64 s w l b).getLsbD k) ((rd64 s w l c).getLsbD k)) ∧
     (∃ f : State → Wave → Nat → Word, Gives32 (.bool3Imm hd d a imm fn) hd d f ∧
       ∀ s w l k, k < 32 → (f s w l).getLsbD k = table ((rd32 s w l a).getLsbD k) (BitVec.getLsbD imm k) false)) ∧
  (∀ hd d a b c ty,
     let pos (x : Word) : Nat := x.toNat % 256
     let len (x : Word) : Nat := min (x.toNat / 256 % 256) 32
     let fieldBit (x : Word) (j : Nat) : Bool := if j < 32 then x.getLsbD j else ty.isSigned && x.getLsbD 31
     (∃ f : State → Wave → Nat → Word, Gives32 (.bfe hd d a b ty) hd d f ∧
       ∀ s w l k, k < 32 →
         let x := rd32 s w l a
         let y := rd32 s w l b
         (f s w l).getLsbD k =
           if len y = 0 then false
           else if k < len y then fieldBit x (pos y + k) else ty.isSigned && fieldBit x (pos y + len y - 1)) ∧
     (∃ f : State → Wave → Nat → Word, Gives32 (.bfi hd d a b c) hd d f ∧
       ∀ s w l k, k < 32 →
         let y := rd32 s w l b
         (f s w l).getLsbD k =
           if pos y ≤ k ∧ k < pos y + len y then (rd32 s w l a).getLsbD (k - pos y) else (rd32 s w l c).getLsbD k))

/-- MOV, MOVI and S2V (R287, R289). MOVW (R288): acts for the wave when some lane of E stands: the uniform register
takes the value of the named lane, whatever that lane's state, and every lane's L0 takes it. PSETP and PLOP (R290). -/
def Obligations.MovesAndPredicateLogic : Prop :=
  (∀ hd d a imm wa ty,
     GivesW ty.is64 (.mov hd d a ty) hd d (fun s w l => rd32 s w l a) (fun s w l => rd64 s w l a) ∧
     GivesW ty.is64 (.movi hd d imm ty) hd d (fun _ _ _ => imm)
       (fun _ _ _ => if ty = .n64 then imm.setWidth 64 else imm.signExtend 64) ∧
     Gives32 (.s2v hd d wa) hd d (fun _ w l => w.wget (BitVec.toNat (wa : BitVec 7) + l))) ∧
  (∀ hd nw n a ln s c, Runs hd (.movw hd ⟨nw, .w n⟩ a ln) s c →
     let x := rd32 s c.w (BitVec.toNat (ln : BitVec 5)) a
     ∃ t, exec (.movw hd ⟨nw, .w n⟩ a ln) s = .next t ∧ OnlyWave s t c (fun _ => nextPc c.pc) ∧
       (∀ k, (t.wave c.id).wget k = if nw = false ∧ c.E ≠ 0 ∧ k = BitVec.toNat (n : BitVec 7) then x else c.w.wget k) ∧
       (t.wave c.id).v = c.w.v ∧ (t.wave c.id).p = c.w.p ∧ (t.wave c.id).fstatus = c.w.fstatus ∧
       (t.wave c.id).latches.map (·.vals) =
         ((row fun _ => if c.E ≠ 0 then x else c.w.wget n.toNat) :: c.w.latches.map (·.vals)).take 4) ∧
  (∀ hd pd a b q z bop ty p1 p2 p3 fn,
     let join (t u : Bool) : Bool := match bop with
       | .and => t && u
       | .or => t || u
       | .xor => t ^^ u
     let both (s : State) (w : Wave) (l : Nat) : Bool :=
       if ty.is64 then decide (rd64 s w l a &&& rd64 s w l b ≠ 0) else decide (rd32 s w l a &&& rd32 s w l b ≠ 0)
     GivesPred (.psetp hd pd a b q z bop ty) hd pd (fun s w l => join (both s w l ^^ z) (w.pbit q l)) ∧
     GivesPred (.plop hd pd p1 p2 p3 fn) hd pd (fun _ w l =>
       BitVec.getLsbD (fn : BitVec 8) ((w.pbit p1 l).toNat + 2 * (w.pbit p2 l).toNat + 4 * (w.pbit p3 l).toNat)))

/-- SHFL (R292): the value of A in the source lane that B and MODE name, or the lane's own where that lane does not
exist or is not in P. VOTE, BALLOT and MATCH (R293). REDUX (R294): a fold over P in rising lane order, integers modulo
2^32, f32 sums rounded to nearest even at every step; the flags of every step are raised. A wave-wide instruction whose
gathering still waits for a live lane of its mask performs nothing: the lanes that stand at its PC park there, under the
mask read when the first of them parked, or after a pre-emption when the first of them parks, the latches are invalid,
and the running path is chosen afresh (R185, R186, R257, R291). When that leaves no lane running and no gathering
complete, the trap of R187 is raised at the lowest parked PC. -/
def Obligations.CrossLaneInstructionsAnswer : Prop :=
  (∀ hd d a b m mode, GivesWide (.shfl hd d a b m mode) hd m d fun s c i =>
     let x := (rd32 s c.w i b).toNat
     let k := x % 32
     let size := 32 / 2 ^ min (x / 256 % 8) 5
     let base := i - i % size
     let src : Option Nat := match mode with
       | .abs => some (base + k % size)
       | .lo => if i < base + k then none else some (i - k)
       | .hi => if base + size ≤ i + k then none else some (i + k)
       | .xor => some (base + ((i - base) ^^^ (k % size)))
       | .rot => some (base + (i - base + k) % size)
     match src with
     | some j => if c.E.getLsbD j then rd32 s c.w j a else rd32 s c.w i a
     | none => rd32 s c.w i a) ∧
  (∀ hd pd d p a m mode all ty,
     (∀ s c, RunsWide hd (.vote hd pd p m mode) m s c → ∃ t, exec (.vote hd pd p m mode) s = .next t ∧
       Decides s t c hd pd (fun _ => match mode with
         | .all => (lanesOf c.E).all fun j => c.w.pbit p j
         | .any => (lanesOf c.E).any fun j => c.w.pbit p j
         | .uni => (lanesOf c.E).all fun j => (lanesOf c.E).all fun k => c.w.pbit p j == c.w.pbit p k) 0) ∧
     GivesWide (.ballot hd d p m) hd m d (fun _ c _ => c.E &&& c.w.pget p) ∧
     GivesWide (.matchv hd d a m all ty) hd m d (fun s c i =>
       let same (j k : Nat) : Bool := if ty.is64 then rd64 s c.w j a == rd64 s c.w k a else rd32 s c.w j a == rd32 s c.w k a
       if all then (if (lanesOf c.E).all fun j => same j i then c.E else 0)
       else laneSet fun j => c.E.getLsbD j && same j i)) ∧
  (∀ hd d a m rop ty,
     let step (x y : Word) : Word × Flags := match rop with
       | .add => if ty = .f32 then
             let r := fAddOp f32 ⟨.rn, false, false, false⟩ x.toNat y.toNat
             (BitVec.ofNat 32 r.bits, r.fl)
           else (x + y, 0)
       | .min => if ty = .f32 then
             let r := fMinMaxOp f32 false false false false x.toNat y.toNat
             (BitVec.ofNat 32 r.bits, r.fl)
           else (if val32 ty.isSigned y < val32 ty.isSigned x then y else x, 0)
       | .max => if ty = .f32 then
             let r := fMinMaxOp f32 true false false false x.toNat y.toNat
             (BitVec.ofNat 32 r.bits, r.fl)
           else (if val32 ty.isSigned x < val32 ty.isSigned y then y else x, 0)
       | .and => (x &&& y, 0)
       | .or => (x ||| y, 0)
       | .xor => (x ^^^ y, 0)
     let fold (s : State) (c : Ctx) : Word × Flags := match (lanesOf c.E).map fun j => rd32 s c.w j a with
       | [] => (0, 0)
       | x :: xs => xs.foldl (fun acc y => ((step acc.1 y).1, acc.2 ||| (step acc.1 y).2)) (x, 0)
     GivesWide (.redux hd d a m rop ty) hd m d (fun s c _ => (fold s c).1) (fun s c => (fold s c).2)) ∧
  (∀ i hd m s c, (∃ d a b mode, i = .shfl hd d a b m mode) ∨ (∃ pd p mode, i = .vote hd pd p m mode) ∨
       (∃ d p, i = .ballot hd d p m) ∨ (∃ d a all ty, i = .matchv hd d a m all ty) ∨
       (∃ d a rop ty, i = .redux hd d a m rop ty) ∨ i = .conv hd m →
     s.ctx hd = some c → MaskRead c (useMask m) →
     let here := c.w.freeAt c.pc
     let old := c.w.gatherAt c.pc
     let mask := match old with
       | some g => if g.old = true ∧ here ≠ 0 then maskVal c.w m else g.mask
       | none => maskVal c.w m
     let stale := match old with
       | some g => g.old && here == 0
       | none => false
     let lanes := (match old with
       | some g => g.lanes
       | none => 0) ||| here
     mask &&& c.w.live &&& ~~~lanes ≠ 0 →
     let w := { c.w.noLatch with
       gathers := { pc := c.pc, mask := mask, lanes := lanes, old := stale } :: c.w.gathers.filter fun g => g.pc != c.pc,
       iss := { c.w.iss with runPc := none, blockedAt := s.cycle } }
     exec i s = .next (
       if w.live ≠ 0 ∧ w.live &&& ~~~w.parked = 0 ∧ ∀ g ∈ w.gathers, g.mask &&& w.live &&& ~~~g.lanes ≠ 0 then
         match w.lowGather with
         | some g => takeTrap (s.setWave c.id w) c.id g.pc (g.lanes &&& w.live) (g.lanes &&& w.live) 10 (w.parked.setWidth 64)
         | none => s.setWave c.id w
       else s.setWave c.id w))

/-- FADD, FMUL, FFMA, their immediate forms, HADD2 and HFMA2, DADD, DMUL and DFMA deliver, in every lane of E and for
both elements of a packed type, the exact result rounded once, and raise the flags of every lane (R233, R303, R305,
R306). What those sums, products and fused forms give where no rounding is involved (R226, R306): a NaN operand,
opposite infinities and zero times infinity give the canonical NaN; the invalid flag is raised by the last two, and by
a NaN operand only when some operand is signalling (the fused form's zero times infinity raises it beside any addend).
FMIN and FMAX (R307), FSETP and DSETP (R308), FCLASS (R309). A minimum or maximum is one of its operands after flush
and sign flip, the other one of a NaN, or the canonical NaN for two; a class has exactly one bit set. DOT4 (R313) adds
the four exact byte products to c and narrows once; DOT2 (R314) rounds its exact sum of two products and an f32 value
once. -/
def Obligations.FloatingPointResults : Prop :=
  (∀ hd d a b c imm fm rm ftz na nl ty,
     let x (s : State) (w : Wave) (l : Nat) (y : Src) : Nat := (rd32 s w l y).toNat
     let x64 (s : State) (w : Wave) (l : Nat) (y : Src) : Nat := (rd64 s w l y).toNat
     let el (n k : Nat) : Nat := n / 65536 ^ k % 65536
     let pair (f : Nat → FRes) : FRes := ⟨(f 0).bits + 65536 * (f 1).bits, (f 0).fl ||| (f 1).fl⟩
     let pf : FFmt := if ty = .bf16x2 then bf16 else f16
     GivesF32 (.fadd hd d a b fm ty) hd d (fun s w l => fAddOp (fmtOf ty) fm (x s w l a) (x s w l b)) ∧
     GivesF32 (.fmul hd d a b fm ty) hd d (fun s w l => fMulOp (fmtOf ty) fm (x s w l a) (x s w l b)) ∧
     GivesF32 (.ffma hd d a b c fm ty) hd d (fun s w l => fFmaOp (fmtOf ty) fm (x s w l a) (x s w l b) (x s w l c)) ∧
     GivesF32 (.faddImm hd d a imm rm ftz na ty) hd d
       (fun s w l => fAddOp (fmtOf ty) ⟨rm, ftz, na, false⟩ (x s w l a) (BitVec.toNat (imm : Word))) ∧
     GivesF32 (.fmulImm hd d a imm rm ftz na ty) hd d
       (fun s w l => fMulOp (fmtOf ty) ⟨rm, ftz, na, false⟩ (x s w l a) imm.toNat) ∧
     GivesF32 (.ffmaImm hd d a imm rm ftz na ty) hd d
       (fun s w l => fFmaOp (fmtOf ty) ⟨rm, ftz, na, false⟩ (x s w l a) imm.toNat (match d.r with
         | .v n => (w.vget n.toNat l).toNat
         | .w n => (w.wget n.toNat).toNat
         | .zero => 0)) ∧
     GivesF32 (.hadd2 hd d a b fm ty) hd d
       (fun s w l => pair fun k => fAddOp pf fm (el (x s w l a) k) (el (x s w l b) k)) ∧
     GivesF32 (.hfma2 hd d a b c fm ty) hd d
       (fun s w l => pair fun k => fFmaOp pf fm (el (x s w l a) k) (el (x s w l b) k) (el (x s w l c) k)) ∧
     GivesF64 (.dadd hd d a b rm na nl) hd d (fun s w l => fAddOp f64 ⟨rm, false, na, nl⟩ (x64 s w l a) (x64 s w l b)) ∧
     GivesF64 (.dmul hd d a b rm na nl) hd d (fun s w l => fMulOp f64 ⟨rm, false, na, nl⟩ (x64 s w l a) (x64 s w l b)) ∧
     GivesF64 (.dfma hd d a b c rm na nl) hd d
       (fun s w l => fFmaOp f64 ⟨rm, false, na, nl⟩ (x64 s w l a) (x64 s w l b) (x64 s w l c))) ∧
  (∀ f, f = f16 ∨ f = bf16 ∨ f = f32 ∨ f = f64 → ∀ fm : FMod, ∀ a b c : Nat,
     let v (neg : Bool) (n : Nat) : FVal := fval f fm.ftz neg n
     let nan (nv : Bool) : FRes := ⟨f.nanBits, if nv then flNV else 0⟩
     ((v fm.na a).isNan ∨ (v fm.nl b).isNan →
       fAddOp f fm a b = nan ((v fm.na a).isSnan || (v fm.nl b).isSnan) ∧
       fMulOp f fm a b = nan ((v fm.na a).isSnan || (v fm.nl b).isSnan)) ∧
     ((v fm.na a).isInf ∧ (v fm.nl b).isInf ∧ (v fm.na a).neg? ≠ (v fm.nl b).neg? → fAddOp f fm a b = nan true) ∧
     (((v fm.na a).isInf ∧ (v fm.nl b).isZero) ∨ ((v fm.na a).isZero ∧ (v fm.nl b).isInf) → fMulOp f fm a b = nan true) ∧
     (((v fm.na a).isInf ∧ (v false b).isZero) ∨ ((v fm.na a).isZero ∧ (v false b).isInf) → fFmaOp f fm a b c = nan true) ∧
     ((v fm.na a).isNan ∨ (v false b).isNan →
       fFmaOp f fm a b c = nan ((v fm.na a).isSnan || (v false b).isSnan || (v fm.nl c).isSnan)) ∧
     ((v fm.na a).isNan = false → (v false b).isNan = false →
       ¬ ((v fm.na a).isInf ∧ (v false b).isZero) → ¬ ((v fm.na a).isZero ∧ (v false b).isInf) → (v fm.nl c).isNan →
       fFmaOp f fm a b c = nan (v fm.nl c).isSnan)) ∧
  (∀ hd d pd a b q bop ftz na nl cmp ty,
     let x (s : State) (w : Wave) (l : Nat) (y : Src) : Nat := (rd32 s w l y).toNat
     let f := fmtOf ty
     let pick (isMax : Bool) (x y : Nat) : FRes :=
       let u := f.decode false x
       let v := f.decode false y
       ⟨if u.isNan then (if v.isNan then f.nanBits else y)
         else if v.isNan then x
         else if isMax then (if ltZ u v then y else x) else (if ltZ v u then y else x),
         if u.isSnan || v.isSnan then flNV else 0⟩
     let join (t u : Bool) : Bool := match bop with
       | .and => t && u
       | .or => t || u
       | .xor => t ^^ u
     GivesF32 (.fmin hd d a b ftz na nl ty) hd d
       (fun s w l => pick false (f.prep ftz na (x s w l a)) (f.prep ftz nl (x s w l b))) ∧
     GivesF32 (.fmax hd d a b ftz na nl ty) hd d
       (fun s w l => pick true (f.prep ftz na (x s w l a)) (f.prep ftz nl (x s w l b))) ∧
     GivesFPred (.fsetp hd pd a b q bop ftz cmp ty) hd pd (fun s w l =>
       let r := fcmp cmp (fval f ftz false (x s w l a)) (fval f ftz false (x s w l b))
       (join r.1 (w.pbit q l), r.2)) ∧
     GivesFPred (.dsetp hd pd a b q bop cmp) hd pd (fun s w l =>
       let r := fcmp cmp (fval f64 false false (rd64 s w l a).toNat) (fval f64 false false (rd64 s w l b).toNat)
       (join r.1 (w.pbit q l), r.2)) ∧
     Gives32 (.fclass hd d a ty) hd d (fun s w l =>
       let n := if ty.is64 then (rd64 s w l a).toNat else x s w l a
       BitVec.ofNat 32 (2 ^ f.classBit (n % 2 ^ f.width))) ∧
     ∀ n, f.classBit n < 10) ∧
  (∀ hd d a b c sat rm ty,
     let byteVal (x : Word) (k : Nat) : Int :=
       let y : Byte := BitVec.ofNat 8 (x.toNat / 256 ^ k)
       if ty.isSigned then y.toInt else y.toNat
     Gives32 (.dot4 hd d a b c sat ty) hd d (fun s w l =>
       let u := rd32 s w l a
       let v := rd32 s w l b
       let t := val32 ty.isSigned (rd32 s w l c) + byteVal u 0 * byteVal v 0 + byteVal u 1 * byteVal v 1 +
         byteVal u 2 * byteVal v 2 + byteVal u 3 * byteVal v 3
       BitVec.ofInt 32 (if sat then clamped ty.isSigned 32 t else t)) ∧
     GivesF32 (.dot2 hd d a b c rm ty) hd d (fun s w l =>
       opDot2 (if ty = .bf16x2 then bf16 else f16) rm (rd32 s w l a).toNat (rd32 s w l b).toNat (rd32 s w l c).toNat))

/-- FRCP, FRSQ, FSQRT, FEX2, FLG2, FSIN and FCOS (R250, R310) go in flight: the destination is pending and the
scoreboard named in SET counts one, the flags are raised, no register and no latch changes; SPECIAL_FUNCTION_RESULT
writes the results of the lanes that are still live, ends the pending state and counts the scoreboard down. -/
def Obligations.SpecialFunctionsReturnLater : Prop :=
  (∀ i hd d a rm ftz f s c,
    (i, f) ∈ [(Instr.frcp hd d a rm ftz, SfuFn.rcp), (.fsqrt hd d a rm ftz, .sqrt)] ∨
      (rm = .rn ∧ (i, f) ∈ [(Instr.frsq hd d a ftz, SfuFn.rsq), (.fex2 hd d a ftz, .ex2), (.flg2 hd d a ftz, .lg2),
        (.fsin hd d a ftz, .sin), (.fcos hd d a ftz, .cos)]) →
    Runs hd i s c → c.E ≠ 0 →
    let res (l : Nat) : FRes := sfu f rm ftz (rd32 s c.w l a).toNat
    ∃ t fl, exec i s = .next t ∧ Departs s t c hd fl ∧
      fl.left = c.E ∧ fl.d = d ∧ fl.dest = .words 1 ∧ fl.first = firstLane c.E ∧ fl.regs = (useReg 1 d).regs ∧
      (∀ l, l < 32 → c.E.getLsbD l = true → fl.vals.getD l 0 = BitVec.ofNat 32 (res l).bits) ∧
      t.reqs = s.reqs ∧ (∀ k, k ≠ c.id → tget t.waves k = tget s.waves k) ∧
      (t.wave c.id).fstatus = c.w.fstatus ||| joinFlags c.E (fun l => (res l).fl)) ∧
  (∀ seq s fl w, tget s.flights seq = some fl → fl.vals ≠ [] → fl.dest = .words 1 → tget s.waves fl.wave = some w →
    (s.teamOf w).life = .resident →
    ∃ t, exec (.specialFunctionResult seq) s = .next t ∧
      t = { s with flights := t.flights, waves := t.waves } ∧ (∀ k, k ≠ seq → tget t.flights k = tget s.flights k) ∧
      (∀ k, k ≠ fl.wave → tget t.waves k = tget s.waves k) ∧
      (∀ k l, l < 32 → (t.wave fl.wave).vget k l =
        if fl.d = .v (BitVec.ofNat 8 k) ∧ k < 256 ∧ fl.left.getLsbD l && w.live.getLsbD l then fl.vals.getD l 0 else w.vget k l) ∧
      (∀ k, (t.wave fl.wave).wget k =
        if fl.d = .w (BitVec.ofNat 7 k) ∧ k < 128 ∧ fl.left.getLsbD fl.first && w.live.getLsbD fl.first then fl.vals.getD fl.first 0
        else w.wget k) ∧
      t.wave fl.wave = { w with v := (t.wave fl.wave).v, w := (t.wave fl.wave).w, pend := (t.wave fl.wave).pend,
                                sb := (t.wave fl.wave).sb, bad := (t.wave fl.wave).bad } ∧
      (∀ e ∈ (t.wave fl.wave).bad, e ∈ w.bad) ∧
      (t.wave fl.wave).pend = w.pend.filter (fun k => !fl.regs.contains k) ∧
      (∀ b, b < w.sb.length → (t.wave fl.wave).sbOf b = if fl.sb = some b then w.sbOf b - 1 else w.sbOf b) ∧
      (∀ x, memGet t.mem x = memGet s.mem x))

/-- CVT, PACK and UNPACK (R315, R319), and BSCALE's apply and unscale forms (R320). An integer converted to an integer
is exact, wrapped or with .sat clamped to the type. CVTN, CVTEF, CVTW and BSCALE's derive form read a format register
of the team: with a valid format and a container that exists they deliver (R316 to R318, R320), and otherwise
TRAP_FORMAT is raised with the register's number and nothing is performed (R236). CVTEF (R317): the container of D
takes the encoded sum of the operand and the remainder register, and the remainder register takes what the encoding
left, in the lanes of E; with a format register that is not valid, or a container that does not exist, TRAP_FORMAT. -/
def Obligations.ConversionsBetweenFormats : Prop :=
  (∀ hd d a b rm ftz sat freg sty ty,
     let pf : FFmt := if ty = .bf16x2 then bf16 else f16
     ((ty.is64 = false → GivesF32 (.cvt hd d a rm ftz sat sty ty) hd d (fun s w l =>
         cvtOp rm ftz sat sty ty (if sty.is64 then rd64 s w l a else (rd32 s w l a).setWidth 64))) ∧
       (ty.is64 = true → GivesF64 (.cvt hd d a rm ftz sat sty ty) hd d (fun s w l =>
         cvtOp rm ftz sat sty ty (if sty.is64 then rd64 s w l a else (rd32 s w l a).setWidth 64)))) ∧
     (sty.isInt = true → ty.isInt = true → ∀ x : DWord,
       let v := intVal sty x
       let y := if sat then clamped ty.isSigned (intBits ty) v else v
       (cvtOp rm ftz sat sty ty x).fl = 0 ∧
       (sat = true → intVal ty (BitVec.ofNat 64 (cvtOp rm ftz sat sty ty x).bits) = y) ∧
       intVal ty (BitVec.ofNat 64 (cvtOp rm ftz sat sty ty x).bits) % 2 ^ intBits ty = y % 2 ^ intBits ty) ∧
     GivesF32 (.pack hd d a b rm ftz ty) hd d (fun s w l =>
       let lo := pf.ofVal rm ftz (f32.decode ftz (rd32 s w l a).toNat)
       let hi := pf.ofVal rm ftz (f32.decode ftz (rd32 s w l b).toNat)
       ⟨lo.bits + 65536 * hi.bits, lo.fl ||| hi.fl⟩) ∧
     GivesF64 (.unpack hd d a ftz ty) hd d (fun s w l =>
       let lo := f32.ofVal .rn ftz (pf.decode ftz ((rd32 s w l a).toNat % 65536))
       let hi := f32.ofVal .rn ftz (pf.decode ftz ((rd32 s w l a).toNat / 65536 % 65536))
       ⟨lo.bits + 2 ^ 32 * hi.bits, lo.fl ||| hi.fl⟩) ∧
     GivesF32 (.bscale hd d a b freg .apply) hd d (fun s w l =>
       bscaleApply false ((rd32 s w l b).toNat % 256) (f32.decode false (rd32 s w l a).toNat)) ∧
     GivesF32 (.bscale hd d a b freg .unscale) hd d (fun s w l =>
       bscaleApply true ((rd32 s w l b).toNat % 256) (f32.decode false (rd32 s w l a).toNat))) ∧
  (∀ hd d a b elem rm freg fromN ty,
     let ft (w : Wave) : NFmt := fmtReg w freg
     let x (s : State) (w : Wave) (l : Nat) : Nat := (rd32 s w l a).toNat
     let old (w : Wave) (l : Nat) : Nat := match d.r with
       | .v n => (w.vget n.toNat l).toNat
       | .w n => (w.wget n.toNat).toNat
       | .zero => 0
     let boxes (f : NFmt) : Nat := if f.w ≤ 4 then 8 else 4
     let gives (i : Instr) (last : Nat) (f : State → Wave → Nat → FRes) : Prop := ∀ s c, Runs hd i s c →
       ((ft c.w).valid = true → last < boxes (ft c.w) → ∃ t, exec i s = .next t ∧
         Delivers s t c hd d [fun l => BitVec.ofNat 32 (f s c.w l).bits] (joinFlags c.E fun l => (f s c.w l).fl)) ∧
       ((ft c.w).valid = false ∨ boxes (ft c.w) ≤ last → exec i s = .next (trapCtx s c 9 freg.toNat))
     gives (.cvtn hd d a elem rm freg fromN ty) (BitVec.toNat (elem : BitVec 3)) (fun s w l =>
       if fromN then (fmtOf ty).ofVal rm false ((ft w).decode (boxGet (ft w) elem.toNat (x s w l)))
       else
         let r := (ft w).encode rm ((fmtOf ty).decode false (x s w l % 2 ^ (fmtOf ty).width))
         ⟨boxPut (boxBits (ft w)) elem.toNat (old w l) r.code, r.fl⟩) ∧
     gives (.cvtw hd d a elem rm freg ty) (elem.toNat + 1) (fun s w l =>
       let e (k : Nat) : FRes := (if ty = .bf16x2 then bf16 else f16).ofVal rm false
         ((ft w).decode (boxGet (ft w) (elem.toNat + k) (x s w l)))
       ⟨(e 0).bits + 65536 * (e 1).bits, (e 0).fl ||| (e 1).fl⟩) ∧
     gives (.bscale hd d a b freg .derive) 0 (fun s w l =>
       let r := bscaleDerive (ft w) (f32.decode false (x s w l))
       ⟨r.1, r.2⟩)) ∧
  (∀ hd d a r elem freg ty s c, Runs hd (.cvtef hd d a r elem freg ty) s c →
     let ft := fmtReg c.w freg
     let target := efTarget s c.w ty freg
     let old (l : Nat) : Nat := match d.r with
       | .v n => (c.w.vget n.toNat l).toNat
       | .w n => (c.w.wget n.toNat).toNat
       | .zero => 0
     let res (l : Nat) : Nat × Nat × Flags :=
       errorFeedback target.1 (rd32 s c.w l a).toNat (c.w.vget (BitVec.toNat (r : BitVec 8)) l).toNat
     let code (l : Nat) : Word := BitVec.ofNat 32 (boxPut target.2 (BitVec.toNat (elem : BitVec 3)) (old l) (res l).1)
     ((ty ≠ .fmt ∨ (ft.valid = true ∧ boxOk ft elem.toNat = true)) →
       ∃ t, exec (.cvtef hd d a r elem freg ty) s = .next t ∧ OnlyWave s t c (fun _ => nextPc c.pc) ∧
         (∀ k l, l < 32 → (t.wave c.id).vget k l =
           if k = r.toNat ∧ c.E.getLsbD l = true then BitVec.ofNat 32 (res l).2.1 else newVec c.w c.E d [code] k l) ∧
         (∀ k, (t.wave c.id).wget k = newUni c.w c.E d [code] k) ∧ (t.wave c.id).p = c.w.p ∧
         (t.wave c.id).latches.map (·.vals) = (latchRows c.w c.E d [code] ++ c.w.latches.map (·.vals)).take 4 ∧
         (t.wave c.id).fstatus = c.w.fstatus ||| joinFlags c.E (fun l => (res l).2.2)) ∧
     (ty = .fmt → ¬ (ft.valid = true ∧ boxOk ft elem.toNat = true) →
       exec (.cvtef hd d a r elem freg ty) s = .next (trapCtx s c 9 (BitVec.toNat (freg : BitVec 3)))))

/-- BRA and BRX send each lane of E to its target and the rest of the path to the next instruction; NOP and a
completed CONV send the path to the next instruction; YIELD, where a lane is enabled, invalidates the latches as well
and counts as an issue with YLD = 1 (R295, R296, R299, R300). A target, or a stack pointer, that is not aligned: BRA,
BRX, CALL and RET raise TRAP_MISALIGN with the address of the lowest failing lane, and nothing of the instruction is
performed (R246, R296, R297, Table 18-4). CALL stores PC + 12 eight bytes below each enabled lane's CSP, lowers that
CSP by eight, and sends those lanes to the target; RET, once the return addresses it has loaded are there, raises the
CSP of the lanes for which it loaded them by eight and sends them where those addresses say; the rest of the path that
executed it goes on (R297). EXIT ends the enabled threads:
they leave the live lanes and their cursors are closed; registers, memory and every other wave keep what they hold
while the wave has another lane that is not parked. The rest of the path goes on (R298). -/
def Obligations.BranchesCallsAndExits : Prop :=
  (∀ hd off a m,
     (∀ s c, Runs hd (.bra hd off) s c →
       let t : DWord := c.pc + 12 * BitVec.signExtend 64 (off : Word)
       (c.E = 0 ∨ t.toNat % 4 = 0) →
       ∃ u, exec (.bra hd off) s = .next u ∧ Goes s u c hd fun l => if c.E.getLsbD l then t else c.pc + 12) ∧
     (∀ s c, Runs hd (.brx hd a) s c →
       (∀ l, l < 32 → c.E.getLsbD l = true → (rd64 s c.w l a).toNat % 4 = 0) →
       ∃ u, exec (.brx hd a) s = .next u ∧ Goes s u c hd fun l => if c.E.getLsbD l then rd64 s c.w l a else c.pc + 12) ∧
     (∀ s c, Runs hd (.nop hd) s c → ∃ u, exec (.nop hd) s = .next u ∧ Goes s u c hd fun _ => c.pc + 12) ∧
     (∀ s c, RunsWide hd (.conv hd m) m s c → ∃ u, exec (.conv hd m) s = .next u ∧ Goes s u c hd fun _ => c.pc + 12) ∧
     (∀ s c, Runs hd (.yield hd) s c → ∃ u, exec (.yield hd) s = .next u ∧
       (c.E = 0 → Goes s u c hd fun _ => c.pc + 12) ∧
       (c.E ≠ 0 → OnlyWave s u c (fun _ => c.pc + 12) ∧
         ((u.wave c.id).v = c.w.v ∧ (u.wave c.id).w = c.w.w ∧ (u.wave c.id).p = c.w.p) ∧
         (u.wave c.id).fstatus = c.w.fstatus ∧ (∀ x ∈ (u.wave c.id).latches, x.valid = false) ∧
         (u.wave c.id).iss.ylded = some s.cycle))) ∧
  (∀ hd off a s c l, l < 32 → c.E.getLsbD l = true →
     let t : DWord := c.pc + 12 * BitVec.signExtend 64 (off : Word)
     (Runs hd (.bra hd off) s c → t.toNat % 4 ≠ 0 → exec (.bra hd off) s = .next (trapCtx s c 3 t.toNat)) ∧
     (Runs hd (.brx hd a) s c → (rd64 s c.w l a).toNat % 4 ≠ 0 →
       (∀ k, k < l → c.E.getLsbD k = true → (rd64 s c.w k a).toNat % 4 = 0) →
       exec (.brx hd a) s = .next (trapCtx s c 3 (rd64 s c.w l a).toNat)) ∧
     (Runs hd (.call hd off) s c → t.toNat % 4 ≠ 0 → (∀ k, k < 32 → c.E.getLsbD k = true → (c.w.cspOf k).toNat % 8 = 0) →
       exec (.call hd off) s = .next (trapCtx s c 3 t.toNat)) ∧
     (∀ fid f, Runs hd (.ret hd) s c → retFlight s c.id c.pc = some (fid, f) → f.left = 0 → f.lanes.getLsbD l = true →
       let ra (k : Nat) : DWord := join (f.vals.getD (2 * k + 1) 0) (f.vals.getD (2 * k) 0)
       (ra l).toNat % 4 ≠ 0 →
       (∀ k, k < l → c.E.getLsbD k = true → f.lanes.getLsbD k = true → (ra k).toNat % 4 = 0) →
       exec (.ret hd) s = .next (trapCtx { s with flights := tdel s.flights fid }
         { c with path := c.path &&& f.lanes, E := c.E &&& f.lanes } 3 (ra l).toNat)) ∧
     ((c.w.cspOf l).toNat % 8 ≠ 0 → (∀ k, k < l → c.E.getLsbD k = true → (c.w.cspOf k).toNat % 8 = 0) →
       (Runs hd (.call hd off) s c → exec (.call hd off) s = .next (trapCtx s c 3 (c.w.cspOf l).toNat)) ∧
       (Runs hd (.ret hd) s c → retFlight s c.id c.pc = none →
         exec (.ret hd) s = .next (trapCtx s c 3 (c.w.cspOf l).toNat)))) ∧
  (∀ hd off,
     (∀ s c s1 xs, Runs hd (.call hd off) s c → c.E ≠ 0 →
       let T : DWord := c.pc + 12 * BitVec.signExtend 64 (off : Word)
       let eas : List (Nat × Nat) := (lanesOf c.E).map fun l => (l, (c.w.cspOf l - 8).toNat)
       T.toNat % 4 = 0 → (∀ l, l < 32 → c.E.getLsbD l = true → (c.w.cspOf l).toNat % 8 = 0) →
       Translates s c (eas.map fun e => (e.2, .write)) xs s1 → MaySend s c c.E eas.length eas.length →
       ∃ t, exec (.call hd off) s = .next t ∧
         Sends s t c (s.nextId + 1) ((laneAccs eas xs).map fun x => laneReq s c
           (.write (natBytes (c.pc + 12).toNat 8)) x.lane s.nextId x.pa x.va 8 (homeOf x.pa x.e.ms) 0 0) true ∧
         (∀ l, l < 32 → (t.wave c.id).cspOf l = if c.E.getLsbD l then c.w.cspOf l - 8 else c.w.cspOf l) ∧
         Moves c (t.wave c.id) (fun l => if c.E.getLsbD l then T else c.pc + 12) ∧
         (t.wave c.id).v = c.w.v ∧ (t.wave c.id).w = c.w.w ∧ (t.wave c.id).p = c.w.p ∧
         (∀ k, k ≠ c.id → tget t.waves k = tget s.waves k)) ∧
     (∀ s c fid f, Runs hd (.ret hd) s c → retFlight s c.id c.pc = some (fid, f) → f.left = 0 →
       let ra (l : Nat) : DWord := join (f.vals.getD (2 * l + 1) 0) (f.vals.getD (2 * l) 0)
       let E : LaneSet := c.E &&& f.lanes
       let P : LaneSet := c.path &&& f.lanes
       P ≠ 0 → (∀ l, l < 32 → E.getLsbD l = true → (ra l).toNat % 4 = 0) →
       ∃ t, exec (.ret hd) s = .next t ∧
         t = { s with waves := tput s.waves c.id (t.wave c.id), flights := tdel s.flights fid } ∧
         (∀ l, l < 32 → (t.wave c.id).cspOf l = if E.getLsbD l then c.w.cspOf l + 8 else c.w.cspOf l) ∧
         Moves { c with path := P } (t.wave c.id) (fun l => if E.getLsbD l then ra l else c.pc + 12) ∧
         t.wave c.id = { c.w with
           csp := (t.wave c.id).csp, pc := (t.wave c.id).pc, iss := (t.wave c.id).iss,
           gathers := (t.wave c.id).gathers, latches := (t.wave c.id).latches })) ∧
  (∀ hd s c, Runs hd (.exit hd) s c →
     ∃ t, exec (.exit hd) s = .next t ∧
       (c.E = 0 → Goes s t c hd fun _ => c.pc + 12) ∧
       (t.wave c.id).exited = c.w.exited ||| c.E ∧
       (∀ l k, l < 32 → k < 4 → c.E.getLsbD l = true → tget (t.wave c.id).cur (4 * l + k) = none) ∧
       ((∃ l, l < 32 ∧ c.w.live.getLsbD l = true ∧ c.E.getLsbD l = false ∧
           (({ c.w with gathers := c.w.gathers.filter fun g => g.pc != c.pc } : Wave).parked).getLsbD l = false) →
         (∀ a, memGet t.mem a = memGet s.mem a) ∧
         ((∀ l k, l < 32 → k < 4 → c.E.getLsbD l = true → tget c.w.cur (4 * l + k) = none) →
           ∀ k, k ≠ c.id → tget t.waves k = tget s.waves k) ∧
         (t.wave c.id).v = c.w.v ∧ (t.wave c.id).w = c.w.w ∧ (t.wave c.id).p = c.w.p ∧
         (t.wave c.id).latches.map (·.vals) = c.w.latches.map (·.vals) ∧
         (∀ l, l < 32 → (c.path &&& c.w.live).getLsbD l = true → c.E.getLsbD l = false → (t.wave c.id).pcOf l = c.pc + 12)))

/-- The checks of R264 in their order: a register beyond the wave's blocks gives TRAP_REG_RANGE (R52), then a pending
one TRAP_SCOREBOARD (R251), then an invalid latch TRAP_LATCH_STALE (R259); the trap is taken and nothing of the
instruction is performed. Where no check fails, a word that the instruction reads in storage with an uncorrectable error raises
TRAP_STORAGE for the team (R443). A word that is no instruction gives TRAP_WRONG_ENGINE for the Roller's opcodes and else
TRAP_ILLEGAL with its bits 95:32 (R263, R396). -/
def Obligations.ChecksStopAnInstruction : Prop :=
  (∀ i hd s c code info, hdrOf i = some hd → gatherMask i = none → Stopped hd i s c code info →
    exec i s = .next (trapCtx s c code info)) ∧
  (∀ i hd f s c0 s1 c code info, hdrOf i = some hd → gatherMask i = some f → s.ctx hd = some c0 →
    MaskRead c0 (gatherReads i) → gathered s c0 hd (f c0.w) (gatherKeeps i) = (some c, s1) → c.w.checks hd.g (useOf i) = some (code, info) →
    exec i s = .next (trapCtx s1 c code info)) ∧
  (∀ i hd s c unit, hdrOf i = some hd → gatherMask i = none → s.ctx hd = some c → c.w.checks hd.g (useOf i) = none →
    c.w.badOperand (useOf i) c.E = some unit → exec i s = .next (coreTrap s c.id unit)) ∧
  (∀ (w : Wave) g u code info, w.checks g u = some (code, info) ↔
    (code = 5 ∧ ∃ a b, u.regs = a ++ info :: b ∧ info < 256 ∧ 8 * w.blocks ≤ info ∧ ∀ n ∈ a, n < 256 → n < 8 * w.blocks) ∨
    ((∀ n ∈ u.regs, n < 256 → n < 8 * w.blocks) ∧
      ((code = 6 ∧ ∃ a b, u.regs ++ [384 + BitVec.toNat (g.p : Pred)] = a ++ info :: b ∧ info ∈ w.pend ∧ ∀ n ∈ a, n ∉ w.pend) ∨
      ((∀ n ∈ u.regs ++ [384 + BitVec.toNat (g.p : Pred)], n ∉ w.pend) ∧
        code = 7 ∧ ∃ a b, u.lats = a ++ info :: b ∧ (w.latch info).valid = false ∧ ∀ n ∈ a, (w.latch n).valid = true)))) ∧
  (∀ raw s c, s.ctx plainHdr = some c →
    exec (.unassignedEncoding raw) s = .next (
      if BitVec.toNat raw.op / 16 = 14 then trapCtx s c 2 (BitVec.toNat raw.op)
      else trapCtx s c 1 (raw.pack.toNat / 2 ^ 32)))

/-- TRAP and BKPT trap for their enabled lanes, with their code or tag, and do nothing with none (R393). A trap that its
Handler entry allows, with TRAP_VEC.EN = 1 and IN = 0, enters the handler: the trap registers are written, the trapping
lanes go to the vector, other lanes of the path to PC + 12, and every other path is held (R390, R391). Every other trap
of a wave goes to the policy: the wave is suspended, its trap registers and other registers keep what they hold, and a
fault record with the trap's code, kind, info, PC and lanes asks a decision (R390, R394, R395). ERET, once the live
lanes of TRAP_LANES, as it stood when the first lane came, stand at it: they go to TRAP_PC, or TRAP_PC + 12 with NEXT,
IN becomes 0, held paths are released and the latches are invalid. With IN = 0 it raises TRAP_ILLEGAL, with a misaligned
target TRAP_MISALIGN while IN stays 1 (R392). -/
def Obligations.TrapsAreTakenAndReturnedFrom : Prop :=
  ((∀ hd code s c, (Runs hd (.trap hd code) s c →
       (c.E ≠ 0 → exec (.trap hd code) s = .next (takeTrap s c.id c.pc c.path c.E 19 (BitVec.setWidth 64 (code : BitVec 12)))) ∧
       (c.E = 0 → ∃ t, exec (.trap hd code) s = .next t ∧ Goes s t c hd fun _ => c.pc + 12)) ∧
     (Runs hd (.bkpt hd code) s c →
       (c.E ≠ 0 → exec (.bkpt hd code) s = .next (takeTrap s c.id c.pc c.path c.E 20 (BitVec.setWidth 64 (code : BitVec 12)))) ∧
       (c.E = 0 → ∃ t, exec (.bkpt hd code) s = .next t ∧ Goes s t c hd fun _ => c.pc + 12))) ∧
   (∀ s id w pc path E code info, tget s.waves id = some w →
     code ∈ [1, 2, 3, 4, 5, 6, 7, 8, 9, 11, 13, 14, 15, 16, 19, 20] → (s.teamOf w).trapVec.getLsbD 0 = true →
     w.trap.inn = false →
     let t := takeTrap s id pc path E code info
     let lanes : LaneSet := if code = 19 ∨ code = 20 then E else path
     let vec : DWord := (s.teamOf w).trapVec &&& ~~~(3 : DWord)
     let parked := ({ w with gathers := w.gathers.filter fun g => g.pc != pc } : Wave).parked
     t = { s with waves := tput s.waves id (t.wave id) } ∧
     (t.wave id).trap = { inn := true, code := BitVec.ofNat 8 code, pc := pc, lanes := lanes, info := info } ∧
     (∀ l, l < 32 → (t.wave id).pcOf l = if lanes.getLsbD l then vec
       else if path.getLsbD l then pc + 12 else w.pcOf l) ∧
     (∀ l, l < 32 → w.live.getLsbD l = true → parked.getLsbD l = false → w.held.getLsbD l = false →
       ((t.wave id).held.getLsbD l = true ↔ (lanes.getLsbD l = false ∧ (t.wave id).pcOf l ≠ vec))) ∧
     (∀ x ∈ (t.wave id).latches, x.valid = false) ∧
     t.wave id = { w with
       pc := (t.wave id).pc, trap := (t.wave id).trap, held := (t.wave id).held, iss := (t.wave id).iss,
       latches := (t.wave id).latches, gathers := (t.wave id).gathers })) ∧
  (∀ s id w pc path E code info, tget s.waves id = some w → (tget s.parts (s.partNo w)).isSome →
     (code ∉ [1, 2, 3, 4, 5, 6, 7, 8, 9, 11, 13, 14, 15, 16, 19, 20] ∨ (s.teamOf w).trapVec.getLsbD 0 = false ∨
       w.trap.inn = true) →
     let t := takeTrap s id pc path E code info
     let p := s.partNo w
     (t.wave id).susp = .trap code ∧ (t.wave id).trap = w.trap ∧ (t.wave id).pc = w.pc ∧
     (t.wave id).v = w.v ∧ (t.wave id).w = w.w ∧ (t.wave id).p = w.p ∧ (∀ x ∈ (t.wave id).latches, x.valid = false) ∧
     (t.part p).decReqs = (s.part p).decReqs ++ [.fault (s.part p).nextF] ∧ (t.part p).nextF = (s.part p).nextF + 1 ∧
     ∃ r, tget (t.part p).faults (s.part p).nextF = some r ∧ r.pages = [0] ∧ r.pc = pc ∧
       r.lanes = (if code = 19 ∨ code = 20 then E else path) ∧ r.code = code ∧ r.kind = (if w.trap.inn then 3 else 1) ∧
       r.info = info ∧ r.dup = false ∧ r.waveId = id ∧ r.team = w.team ∧ r.gen = w.gen ∧ r.core = w.core ∧ r.part = p) ∧
  (∀ hd next s c, RunsGathered hd (.eret hd next) s c →
     let target : DWord := if next then c.w.trap.pc + 12 else c.w.trap.pc
     let mask : LaneSet := match c.w.gatherAt c.pc with
       | some g => g.mask
       | none => c.w.trap.lanes
     ∃ t, exec (.eret hd next) s = .next t ∧
       (c.E = 0 → Goes s t c hd fun _ => c.pc + 12) ∧
       (c.E ≠ 0 → c.w.trap.inn = true → target.toNat % 4 = 0 →
         t = { s with waves := tput s.waves c.id (t.wave c.id) } ∧
         (t.wave c.id).trap = { c.w.trap with inn := false } ∧ (t.wave c.id).held = 0 ∧
         (∀ l, l < 32 → (t.wave c.id).pcOf l =
           if mask.getLsbD l ∧ c.w.live.getLsbD l then target
           else if (c.path &&& c.w.live).getLsbD l then c.pc + 12 else c.w.pcOf l) ∧
         (∀ x ∈ (t.wave c.id).latches, x.valid = false) ∧
         t.wave c.id = { c.w with
           pc := (t.wave c.id).pc, trap := (t.wave c.id).trap, held := 0, iss := (t.wave c.id).iss,
           latches := (t.wave c.id).latches, gathers := (t.wave c.id).gathers }) ∧
       (c.E ≠ 0 → c.w.trap.inn = false →
         t = trapCtx (s.setWave c.id c.w) c 1 ((encode (.eret hd next)).toNat / 2 ^ 32)) ∧
       (c.E ≠ 0 → c.w.trap.inn = true → target.toNat % 4 ≠ 0 →
         t = trapCtx (s.setWave c.id c.w) c 3 target.toNat))

/-- RDSYS reads a register that Table 18-2 lists for the destination pair of every enabled lane, with no latch shift
(R382 to R384); it is in flight with that value, its pending bits and its scoreboard, until READ_REPLY writes it (R250,
R251; log entry 17). The table's other indices raise TRAP_ILLEGAL. WRSYS writes the value of the lowest enabled lane
into a register that waves may write, its reserved and RO fields ignored; a register that is RO to waves raises
TRAP_PRIV with its index, an unassigned index TRAP_ILLEGAL (R382 to R384). No memory, vector, uniform or predicate
register changes. A format register that it writes is the wave's own view (R242). RDTS reads the core's pts once no
access of the path's threads awaits its reply (R385); RDCLK the cycles since the die's last reset (R386); SETPRIO sets
the gang's priority to the lesser of n and its launch queue (R387). -/
def Obligations.SystemInstructions : Prop :=
  (∀ hd d idx s c, Runs hd (.rdsys hd d idx) s c → c.E ≠ 0 →
     let n : Nat := BitVec.toNat (idx : BitVec 12)
     let t := s.teamOf c.w
     let r := (s.part (s.partNo c.w)).regs
     let gets (x : DWord) : Prop := ∃ u, exec (.rdsys hd d idx) s = .next u ∧
       Keeps s u c hd 2 d [fun _ => x.setWidth 32, fun _ => (x >>> 32).setWidth 32] ∧
       u = { s with waves := tput s.waves c.id (u.wave c.id), flights := u.flights, nextId := u.nextId }
     (n = 0x000 → gets (BitVec.setWidth 64 c.w.fstatus)) ∧
     (n = 0x001 → gets ((0#55 ++ BitVec.ofBool c.w.trap.inn) ++ c.w.trap.code)) ∧
     (n = 0x002 → gets c.w.trap.pc) ∧
     (n = 0x003 → gets (BitVec.setWidth 64 c.w.trap.lanes)) ∧
     (n = 0x004 → gets c.w.trap.info) ∧
     (0x100 ≤ n → n ≤ 0x107 → gets (((tget c.w.fmts (n - 0x100)).map (·.val)).getD 0)) ∧
     (n = 0x110 → gets t.trapVec) ∧
     (n = 0x120 → gets (BitVec.ofNat 64 (s.gangOf c.w).runPrio)) ∧
     (n = 0x200 → gets (BitVec.ofNat 64 r.lease)) ∧
     (n = 0x201 → gets (BitVec.ofNat 64 s.ceil)) ∧
     (n = 0x202 → gets (BitVec.setWidth 64 (BitVec.ofNat 8 (s.die 3).gen ++ BitVec.ofNat 8 (s.die 2).gen ++
       BitVec.ofNat 8 (s.die 1).gen ++ BitVec.ofNat 8 (s.die 0).gen))) ∧
     (n = 0x210 → gets (BitVec.ofNat 64 r.accQuota)) ∧
     (n = 0x211 → gets (BitVec.ofNat 32 r.accForced ++ BitVec.ofNat 32 r.accRef)) ∧
     (n = 0x220 → gets (BitVec.ofNat 64 (r.thrLimit + 256 * r.thrEn.toNat))) ∧
     (n = 0x230 → gets (BitVec.ofNat 64 (r.wdPeriod + 2 ^ 62 * r.wdExt.toNat + 2 ^ 63 * r.wdFired.toNat))) ∧
     (n = 0x401 → gets r.polSrc) ∧ (n = 0x405 → gets r.decRing) ∧ (n = 0x600 → gets r.pasidTab) ∧
     (n = 0x603 → gets r.faultRing) ∧ (n = 0x605 → gets r.trapRing) ∧
     (n = 0x604 → r.fHead < 2 ^ 32 → gets (BitVec.ofNat 32 r.fTail ++ BitVec.ofNat 32 r.fHead)) ∧
     (n = 0x406 → r.decHead < 2 ^ 32 → gets (BitVec.ofNat 32 r.decTail ++ BitVec.ofNat 32 r.decHead)) ∧
     ((4 < n ∧ n < 0x100) ∨ (0x107 < n ∧ n < 0x110) ∨ (0x110 < n ∧ n < 0x120) ∨ (0x120 < n ∧ n < 0x200) ∨
       (0x202 < n ∧ n < 0x210) ∨ (0x211 < n ∧ n < 0x220) ∨ (0x220 < n ∧ n < 0x230) ∨ (0x230 < n ∧ n < 0x400) ∨
       (0x406 < n ∧ n < 0x500) ∨ (0x50F < n ∧ n < 0x600) ∨ 0x605 < n →
       exec (.rdsys hd d idx) s = .next (trapCtx s c 1 ((encode (.rdsys hd d idx)).toNat / 2 ^ 32)))) ∧
  (∀ hd idx a s c l, Runs hd (.wrsys hd idx a) s c → lowLane c.E = some l → (tget s.teams c.w.team).isSome →
     let n : Nat := BitVec.toNat (idx : BitVec 12)
     let x : DWord := rd64 s c.w l a
     let w := c.w
     let goes (f : State → Wave → Prop) : Prop := ∃ u, exec (.wrsys hd idx a) s = .next u ∧ f u (u.wave c.id) ∧
       u = { s with waves := tput s.waves c.id (u.wave c.id), teams := u.teams, nextId := u.nextId } ∧
       (n ≤ 4 ∨ n = 0x110 → (u.wave c.id).fmts = w.fmts) ∧ (∀ k, k ≠ c.w.team → tget u.teams k = tget s.teams k) ∧
       (u.wave c.id).v = w.v ∧ (u.wave c.id).w = w.w ∧ (u.wave c.id).p = w.p ∧
       Moves c (u.wave c.id) fun _ => c.pc + 12
     let sameTeam (u : State) : Prop := u.team c.w.team = s.team c.w.team
     (n = 0 → goes fun u v => v.fstatus = x.setWidth 5 ∧ v.trap = w.trap ∧ sameTeam u) ∧
     (n = 1 → goes fun u v => v.trap = { w.trap with code := x.setWidth 8 } ∧ v.fstatus = w.fstatus ∧ sameTeam u) ∧
     (n = 2 → goes fun u v => v.trap = { w.trap with pc := x } ∧ v.fstatus = w.fstatus ∧ sameTeam u) ∧
     (n = 3 → goes fun u v => v.trap = { w.trap with lanes := x.setWidth 32 } ∧ v.fstatus = w.fstatus ∧ sameTeam u) ∧
     (n = 4 → goes fun u v => v.trap = { w.trap with info := x } ∧ v.fstatus = w.fstatus ∧ sameTeam u) ∧
     (n = 0x110 → goes fun u v => v.trap = w.trap ∧ v.fstatus = w.fstatus ∧
       u.team c.w.team = { s.team c.w.team with trapVec := x &&& 0xFFFFFFFFFFFFFFFD }) ∧
     (0x100 ≤ n → n ≤ 0x107 → goes fun u v => v.trap = w.trap ∧ v.fstatus = w.fstatus ∧
       v.fmts = tput w.fmts (n - 0x100) { stamp := s.nextId, val := x &&& 0x3FFC07F, own := true } ∧ sameTeam u) ∧
     (n ∈ [0x120, 0x200, 0x201, 0x202, 0x210, 0x211, 0x220, 0x230, 0x400, 0x401, 0x402, 0x403, 0x404, 0x405, 0x406,
         0x600, 0x601, 0x602, 0x603, 0x604, 0x605] ∨ (0x500 ≤ n ∧ n ≤ 0x50F) →
       exec (.wrsys hd idx a) s = .next (trapCtx s c 8 n)) ∧
     ((4 < n ∧ n < 0x100) ∨ (0x107 < n ∧ n < 0x110) ∨ (0x110 < n ∧ n < 0x120) ∨ (0x120 < n ∧ n < 0x200) ∨
       (0x202 < n ∧ n < 0x210) ∨ (0x211 < n ∧ n < 0x220) ∨ (0x220 < n ∧ n < 0x230) ∨ (0x230 < n ∧ n < 0x400) ∨
       (0x406 < n ∧ n < 0x500) ∨ (0x50F < n ∧ n < 0x600) ∨ 0x605 < n →
       exec (.wrsys hd idx a) s = .next (trapCtx s c 1 ((encode (.wrsys hd idx a)).toNat / 2 ^ 32)))) ∧
  (∀ hd d n s c,
     let gets (i : Instr) (x : DWord) : Prop := ∃ u, exec i s = .next u ∧
       Keeps s u c hd 2 d [fun _ => x.setWidth 32, fun _ => (x >>> 32).setWidth 32] ∧
       u = { s with waves := tput s.waves c.id (u.wave c.id), flights := u.flights, nextId := u.nextId }
     (Runs hd (.rdts hd d) s c → c.E ≠ 0 → lanesAwait s c.id c.path = false →
       gets (.rdts hd d) (BitVec.ofNat 64 (s.core c.w.core).pts)) ∧
     (Runs hd (.rdclk hd d) s c → c.E ≠ 0 →
       gets (.rdclk hd d) (BitVec.ofNat 64 (s.cycle - (s.die (c.w.core / 96)).clk))) ∧
     (Runs hd (.setprio hd n) s c → c.E ≠ 0 → (tget s.gangs (s.teamOf c.w).gang).isSome →
       ∃ u, exec (.setprio hd n) s = .next u ∧
         u = { s with waves := tput s.waves c.id (u.wave c.id), gangs := u.gangs } ∧
         Goes { s with gangs := u.gangs } u c hd (fun _ => c.pc + 12) ∧
         u.gangOf c.w = { s.gangOf c.w with runPrio := min (BitVec.toNat (n : BitVec 4)) (s.gridOf c.w).queue } ∧
         ∀ k, k ≠ (s.teamOf c.w).gang → tget u.gangs k = tget s.gangs k))

/-- A local access checks every lane's alignment before any lane's range, and the lowest failing lane names the offset
(R44, R328); a global access checks alignment (R21, R327, R329, R332, R334). Nothing of the instruction is performed.
-/
def Obligations.MisalignedAndOutOfRangeAccessesTrap : Prop :=
  ∀ hd d a b off ch mt aop ty i n load s c l, l < 32 → c.E.getLsbD l = true →
    (((i, n, load) = (Instr.ldl hd d a off mt, memBytes mt, true) ∨ (i, n, load) = (Instr.stl hd a off b mt, memBytes mt, false) ∨
        (i, n, load) = (Instr.atomLocal hd d a off b aop ty, 4 * tyRegs ty, false)) → Runs hd i s c →
      let ea (k : Nat) : Nat := (rd32 s c.w k a + BitVec.signExtend 32 (off : BitVec 24)).toNat
      let bad (k : Nat) : Prop :=
        (ea k < 0xFF000000 ∧ localSize s (s.teamOf c.w).gang ≤ ea k) ∨ 0xFF010000 ≤ ea k ∨
          (0xFF000000 ≤ ea k ∧ (load = false ∨ n < 4))
      (ea l % n ≠ 0 → (∀ k, k < l → c.E.getLsbD k = true → ea k % n = 0) → exec i s = .next (trapCtx s c 3 (ea l))) ∧
      ((∀ k, k < 32 → c.E.getLsbD k = true → ea k % n = 0) → bad l → (∀ k, k < l → c.E.getLsbD k = true → ¬ bad k) →
        exec i s = .next (trapCtx s c 4 (ea l)))) ∧
    (((i, n) = (Instr.ld hd d a off ch mt, memBytes mt) ∨ (i, n) = (Instr.st hd a off b ch mt, memBytes mt) ∨
        (i, n) = (Instr.atom hd d a off b ch aop ty, 4 * tyRegs ty)) → Runs hd i s c →
      let ea (k : Nat) : Nat := (rd64 s c.w k a + BitVec.signExtend 64 (off : BitVec 24)).toNat
      ea l % n ≠ 0 → (∀ k, k < l → c.E.getLsbD k = true → ea k % n = 0) → exec i s = .next (trapCtx s c 3 (ea l)))

/-- LDL reads the bytes of local memory, or of the residual window, and moves no byte; STL writes its operand's low
bytes, the highest lane standing where several write one byte; a local ATOM returns each lane's old value and leaves
what the lanes of one word make of it in rising order (R328, R332, R333). Every lane of E aligned and in range is the
condition, with no earlier access of a lane still on its way (R142) and no error in a word that it reads (R443); with no
lane enabled nothing happens. The words that a lane reads stand in flight, with their pending bits and scoreboard, until
READ_REPLY writes them (R250, R251; log entry 17). The local timestamp of R143: an access of one
block by one core is performed at T, the greater of the core's pts (no lower than the thread's accesses whose replies
are on their way, R148) and the block's timestamp, and both become T. The values that atomics and accumulates write
(Table 15-4, R123, R332): integers modulo 2^N, minimum and maximum by the type's sign, floating sums rounded to
nearest even, cas writing its new value exactly when the old one equals cmp. -/
def Obligations.LocalMemoryAccesses : Prop :=
  (∀ hd d a b off mt aop ty s c,
     let gid := (s.teamOf c.w).gang
     let g := s.gang gid
     let ea (l : Nat) : Nat := (rd32 s c.w l a + BitVec.signExtend 32 (off : BitVec 24)).toNat
     let size : Nat := 256 * (s.gridOf c.w).loc
     let lanes (p : Nat → Prop) : Prop := ∀ l, l < 32 → c.E.getLsbD l = true → p l
     let idle : Prop := lanesBusy s c.id c.E = false ∧ peerBusy s c.id c.E = false
     let sound (n : Nat) : Prop := lanes fun l => g.badAt (ea l) n = false
     let inner (n : Nat) : Prop := lanes fun l => ea l % n = 0 ∧ ea l < size ∧ ea l < 0xFF000000
     let only (t : State) : Prop := t = { s with
       waves := tput s.waves c.id (t.wave c.id), gangs := t.gangs, cores := t.cores, flights := t.flights, nextId := t.nextId }
     let aw : Nat := 4 * tyRegs ty
     let arg (l : Nat) : DWord × DWord := atomArgs s c.w l b aop ty
     let stepA (x k : Nat) : Nat := (atomOp aop ty (BitVec.ofNat 64 x) (arg k).1 (arg k).2).toNat % 2 ^ (8 * aw)
     let upTo (o m : Nat) : Nat :=
       ((lanesOf c.E).filter fun k => decide (k < m) && ea k == o).foldl stepA (g.locValue o aw)
     (Runs hd (.ldl hd d a off mt) s c → c.E ≠ 0 → idle → sound (memBytes mt) →
       lanes (fun l => ea l % memBytes mt = 0 ∧ ((ea l < size ∧ ea l < 0xFF000000) ∨
         (4 ≤ memBytes mt ∧ 0xFF000000 ≤ ea l ∧ ea l < 0xFF010000))) →
       let value (l : Nat) : Nat := if ea l < 0xFF000000 then g.locValue (ea l) (memBytes mt)
         else bytesNat (rdWindow s (coreCluster c.w.core) (s.partNo c.w) (ea l) (memBytes mt))
       ∃ t, exec (.ldl hd d a off mt) s = .next t ∧ (t.gang gid).loc = g.loc ∧
         Keeps s t c hd (memRegs mt) d (loadedWords mt value) ∧ only t) ∧
     (Runs hd (.stl hd a off b mt) s c → c.E ≠ 0 → idle → inner (memBytes mt) →
       ∃ t, exec (.stl hd a off b mt) s = .next t ∧
         (∀ o, (t.gang gid).locByte o =
           match (lanesOf c.E).reverse.find? fun l => decide (ea l ≤ o) && decide (o < ea l + memBytes mt) with
           | some l => BitVec.ofNat 8 (storedValue s c.w l b mt / 256 ^ (o - ea l))
           | none => g.locByte o) ∧
         Keeps s t c hd 0 .zero [] ∧ only t) ∧
     (Runs hd (.atomLocal hd d a off b aop ty) s c → c.E ≠ 0 → idle → inner aw → sound aw →
       ∃ t, exec (.atomLocal hd d a off b aop ty) s = .next t ∧
         (lanes fun l => (t.gang gid).locValue (ea l) aw = upTo (ea l) 32) ∧
         (∀ o, (∀ l, l < 32 → c.E.getLsbD l = true → ¬ (ea l ≤ o ∧ o < ea l + aw)) → (t.gang gid).locByte o = g.locByte o) ∧
         Keeps s t c hd (tyRegs ty) d ((List.range (tyRegs ty)).map fun j l => BitVec.ofNat 32 (upTo (ea l) l / 2 ^ (32 * j))) ∧
         only t) ∧
     (c.E = 0 → ∀ i, (i = .ldl hd d a off mt ∨ i = .stl hd a off b mt ∨ i = .atomLocal hd d a off b aop ty) → Runs hd i s c →
       ∃ t, exec i s = .next t ∧ Goes s t c hd fun _ => c.pc + 12)) ∧
  (∀ s gang core o pts bs,
     let T : Nat := max pts ((s.gang gang).ltOf (o / 256))
     let t := localStore s gang core o pts bs
     ((t.gang gang).ltOf (o / 256) = T) ∧ (∀ k, k ≠ o / 256 → (t.gang gang).ltOf k = (s.gang gang).ltOf k) ∧
     (t.core core).pts = max (s.core core).pts T ∧ (∀ k, k ≠ core → t.core k = s.core k) ∧
     (∀ x, (t.gang gang).locByte x = if o ≤ x ∧ x < o + bs.length then bs.getD (x - o) 0 else (s.gang gang).locByte x) ∧
     ∀ k, k ≠ gang → tget t.gangs k = tget s.gangs k) ∧
  (∀ (ty : Ty) (old b cmp : DWord),
     let n : Nat := if ty.is64 then 64 else 32
     let fits (x : DWord) : Prop := x.toNat < 2 ^ n
     let val (x : DWord) : Int := if ty.isSigned then (if n = 64 then x.toInt else (BitVec.setWidth 32 x).toInt) else (x.toNat : Int)
     fits old → fits b → fits cmp →
     (ty ∈ [.i32, .n32, .i64, .n64] → (atomOp .add ty old b cmp).toNat = (old.toNat + b.toNat) % 2 ^ n ∧
       (atomOp .min ty old b cmp = old ∨ atomOp .min ty old b cmp = b) ∧
       val (atomOp .min ty old b cmp) = min (val old) (val b) ∧
       (atomOp .max ty old b cmp = old ∨ atomOp .max ty old b cmp = b) ∧
       val (atomOp .max ty old b cmp) = max (val old) (val b)) ∧
     (ty ∈ [.b32, .b64] → atomOp .and ty old b cmp = old &&& b ∧ atomOp .or ty old b cmp = old ||| b ∧
       atomOp .xor ty old b cmp = old ^^^ b ∧ atomOp .exch ty old b cmp = b ∧
       atomOp .cas ty old b cmp = if old = cmp then b else old) ∧
     (ty = .f32 → atomOp .add ty old b cmp = BitVec.ofNat 64 (fAddOp f32 ⟨.rn, false, false, false⟩ old.toNat b.toNat).bits) ∧
     (ty = .f64 → atomOp .add ty old b cmp = BitVec.ofNat 64 (fAddOp f64 ⟨.rn, false, false, false⟩ old.toNat b.toNat).bits))

/-- ST and a global ATOM, aligned, translated and with room, send one request for each enabled lane in rising order,
each with a token, and are in flight until every reply has come (R327, R332, R333, R437). ACC, aligned, translated and
with room in the combining buffer, becomes one operation of its wave's accumulate class and moves neither register nor
byte (R124 to R126, R138, R334). With one enabled lane and a target of this module, its addend joins the word of its
group in the cluster's buffer, or a new entry holds it alone. -/
def Obligations.StoresAtomicsAndAccumulatesAreSent : Prop :=
  (∀ hd d a off b ch mt aop ty s c xs s1, c.E ≠ 0 →
     let ea (l : Nat) : Nat := (rd64 s c.w l a + BitVec.signExtend 64 (off : BitVec 24)).toNat
     let eas : List (Nat × Nat) := (lanesOf c.E).map fun l => (l, ea l)
     let aligned (n : Nat) : Prop := ∀ l, l < 32 → c.E.getLsbD l = true → ea l % n = 0
     let req (n : Nat) (kind : Nat → ReqKind) (x : LaneAcc) : Req :=
       laneReq s c (kind x.lane) x.lane s.nextId x.pa x.va n (homeOf x.pa x.e.ms) (BitVec.toNat ch.l1) (BitVec.toNat ch.home)
     (Runs hd (.st hd a off b ch mt) s c → aligned (memBytes mt) → Translates s c (eas.map fun e => (e.2, .write)) xs s1 →
       MaySend s c c.E eas.length eas.length →
       ∃ t fl, exec (.st hd a off b ch mt) s = .next t ∧ Departs s t c hd fl ∧
         fl.left = c.E ∧ fl.dest = .none ∧ fl.regs = [] ∧
         Sends s t c (s.nextId + 1) ((laneAccs eas xs).map (req (memBytes mt) fun l =>
           .write (natBytes (storedValue s c.w l b mt) (memBytes mt)))) true) ∧
     (Runs hd (.atom hd d a off b ch aop ty) s c → aligned (4 * tyRegs ty) →
       Translates s c (eas.map fun e => (e.2, .rmw)) xs s1 → MaySend s c c.E eas.length eas.length →
       ∃ t fl, exec (.atom hd d a off b ch aop ty) s = .next t ∧ Departs s t c hd fl ∧
         fl.left = c.E ∧ fl.dest = .words (tyRegs ty) ∧ fl.d = d ∧ fl.first = firstLane c.E ∧
         fl.regs = (useReg (tyRegs ty) d).regs ∧
         Sends s t c (s.nextId + 1) ((laneAccs eas xs).map (req (4 * tyRegs ty) fun l =>
           .atom aop ty (atomArgs s c.w l b aop ty).1 (atomArgs s c.w l b aop ty).2)) true)) ∧
  (∀ hd a off b ch aop ty s c xs s1, Runs hd (.acc hd a off b ch aop ty) s c → c.E ≠ 0 →
     let ea (l : Nat) : Nat := (rd64 s c.w l a + BitVec.signExtend 64 (off : BitVec 24)).toNat
     let eas : List (Nat × Nat) := (lanesOf c.E).map fun l => (l, ea l)
     let as : List LaneAcc := laneAccs eas xs
     let cl : Nat := c.w.core / 4
     let val (l : Nat) : DWord := if ty.is64 then rd64 s c.w l b else (rd32 s c.w l b).setWidth 64
     (∀ l, l < 32 → c.E.getLsbD l = true → ea l % (4 * tyRegs ty) = 0) →
     Translates s c (eas.map fun e => (e.2, .rmw)) xs s1 → lanesBusy s c.id c.path = false →
     classCount c.w .acc < 63 → (s.cluster cl).comb.length + as.length ≤ 64 → roomFor s c.w c.id as.length as.length = true →
     ∃ t, exec (.acc hd a off b ch aop ty) s = .next t ∧ (∀ x, memGet t.mem x = memGet s.mem x) ∧
       (t.wave c.id).v = c.w.v ∧ (t.wave c.id).w = c.w.w ∧ (t.wave c.id).p = c.w.p ∧
       Moves c (t.wave c.id) (fun _ => c.pc + 12) ∧ (∀ k, k ≠ c.id → tget t.waves k = tget s.waves k) ∧
       (t.wave c.id).ops = c.w.ops ++ [{ id := s.nextId, cls := .acc, touch := { loc := false, glob := true, grph := false },
                                         done := false, t := 0, pc := c.pc, lanes := c.path,
                                         names := as.map fun x => (x.pa / 128, x.va) }] ∧
       ∀ x, as = [x] → homeOf x.pa x.e.ms < 1024 →
         let key : AccKey := { part := s.partNo c.w, line := x.pa / 128, aop := aop, ty := ty }
         match (s.cluster cl).comb.find? fun e => e.2.key == key with
         | some (i, e) => ∃ e', tget (t.cluster cl).comb i = some e' ∧ e'.key = key ∧ e'.due = e.due ∧
             e'.waits = (c.id, s.nextId) :: e.waits ∧
             e'.words = match e.words.find? fun w => w.off == x.pa % 128 with
               | none => e.words ++ [{ off := x.pa % 128, val := val x.lane, carried := false, due := false }]
               | some _ => (e.words.takeWhile fun w => w.off != x.pa % 128) ++
                   match e.words.dropWhile fun w => w.off != x.pa % 128 with
                   | [] => []
                   | w :: ws => { w with val := accCombine aop ty w.val (val x.lane) } :: ws
         | none => ∃ i, i < 64 ∧ tget (s.cluster cl).comb i = none ∧
             tget (t.cluster cl).comb i = some {
               key := key, home := homeOf x.pa x.e.ms, hint := BitVec.toNat ch.home,
               words := [{ off := x.pa % 128, val := val x.lane, carried := false, due := false }], born := s.cycle,
               pts := lanePts { s with nextId := s.nextId + 1 } c.w.core c.id x.lane, due := false,
               waits := [(c.id, s.nextId)], flush := [] })

/-- LD and LDW, aligned, translated and with room. Where no lane finds a copy that it may use, each lane sends a read
to its line's home, a renewal that carries the copy's wts when the L1 holds an expired copy (R100, R102, R327, R329).
A load whose lanes all find sound copies that are valid up to some timestamp M, where nothing earlier of them is on its way:
it delivers the copies' bytes at once, sends nothing, and raises the core's pts to at least each copy's wts and at
most M (R101). -/
def Obligations.LoadsReadOrUseCopies : Prop :=
  (∀ hd d dw a aw off ch mt ty s c xs s1, c.E ≠ 0 →
     let reads (i : Instr) (n : Nat) (lanes : List Nat) (ea : Nat → Nat) (dest : DestKind) (dr : DReg) (k : Nat) : Prop :=
       let eas : List (Nat × Nat) := lanes.map fun l => (l, ea l)
       let m : LaneSet := laneSet fun l => lanes.contains l
       Runs hd i s c → (∀ l ∈ lanes, ea l % n = 0) → Translates s c (eas.map fun e => (e.2, .read)) xs s1 →
       MaySend s c m eas.length 0 →
       (∀ x ∈ laneAccs eas xs, laneBusy s c.id x.lane = true ∨ 1024 ≤ homeOf x.pa x.e.ms ∨
         ∀ cp, tget (s.core c.w.core).l1 (x.pa / 128) = some cp → cp.rts < (s.core c.w.core).pts) →
       ∃ t fl, exec i s = .next t ∧ Departs s t c hd fl ∧
         fl.left = m ∧ fl.dest = dest ∧ fl.d = dr ∧ fl.first = firstLane c.E ∧ fl.regs = (useReg k dr).regs ∧
         Sends s t c (s.nextId + 1) ((laneAccs eas xs).map fun x =>
           laneReq s c (.read ((tget (s.core c.w.core).l1 (x.pa / 128)).map (·.wts))) x.lane s.nextId x.pa x.va n
             (homeOf x.pa x.e.ms) (BitVec.toNat ch.l1) (BitVec.toNat ch.home)) false
     reads (.ld hd d a off ch mt) (memBytes mt) (lanesOf c.E)
       (fun l => (rd64 s c.w l a + BitVec.signExtend 64 (off : BitVec 24)).toNat)
       (match mt with
         | .i8 => .ext true 8
         | .n8 => .ext false 8
         | .i16 => .ext true 16
         | .n16 => .ext false 16
         | _ => .words (memRegs mt)) d (memRegs mt) ∧
     reads (.ldw hd dw aw off ch ty) (4 * tyRegs ty) ((lanesOf c.E).take 1)
       (fun _ => (c.w.wget2 (BitVec.toNat aw) + BitVec.signExtend 64 (off : BitVec 24)).toNat)
       (.words (tyRegs ty)) (.w dw) (tyRegs ty)) ∧
  (∀ hd d a off ch mt s c xs s1 M, Runs hd (.ld hd d a off ch mt) s c → c.E ≠ 0 → c.E &&& ~~~c.w.live = 0 →
     let ea (l : Nat) : Nat := (rd64 s c.w l a + BitVec.signExtend 64 (off : BitVec 24)).toNat
     let eas : List (Nat × Nat) := (lanesOf c.E).map fun l => (l, ea l)
     let copy (x : LaneAcc) : Option L1Line := tget (s.core c.w.core).l1 (x.pa / 128)
     (∀ l, l < 32 → c.E.getLsbD l = true → ea l % memBytes mt = 0) →
     Translates s c (eas.map fun e => (e.2, .read)) xs s1 → MaySend s c c.E eas.length 0 →
     (s.core c.w.core).pts ≤ M → (∀ e ∈ s.reps, e.2.req.wave = c.id → e.2.t ≤ M) →
     (∀ x ∈ laneAccs eas xs, homeOf x.pa x.e.ms < 1024 ∧ laneBusy s c.id x.lane = false ∧
       ∃ cp, copy x = some cp ∧ cp.wts ≤ M ∧ M ≤ cp.rts ∧ cp.bad = false) →
     (∀ r ∈ s.reqs, r.2.flight < s.nextId) → (∀ r ∈ s.reps, r.2.req.flight < s.nextId) →
     ∃ t, exec (.ld hd d a off ch mt) s = .next t ∧ t.reqs = s.reqs ∧ t.reps = s.reps ∧
       (∀ x, memGet t.mem x = memGet s.mem x) ∧
       (s.core c.w.core).pts ≤ (t.core c.w.core).pts ∧ (t.core c.w.core).pts ≤ M ∧
       (∀ x ∈ laneAccs eas xs, ∀ cp, copy x = some cp → cp.wts ≤ (t.core c.w.core).pts) ∧
       (let value (l : Nat) : Nat := match (laneAccs eas xs).find? fun x => x.lane == l with
           | none => 0
           | some x => match copy x with
             | none => 0
             | some cp => bytesNat ((cp.data.drop (x.pa % 128)).take (memBytes mt))
         (∀ x ∈ laneAccs eas xs, x.pa % memBytes mt = 0 ∧ ∀ cp, copy x = some cp → cp.data.length = 128) →
         (∀ n l, l < 32 → (t.wave c.id).vget n l = newVec c.w c.E ⟨false, d⟩ (loadedWords mt value) n l) ∧
         (∀ n, (t.wave c.id).wget n = newUni c.w c.E ⟨false, d⟩ (loadedWords mt value) n)) ∧
       (t.wave c.id).p = c.w.p ∧ Moves c (t.wave c.id) fun _ => c.pc + 12)

/-- MWAIT, aligned, translated and with room, sends one read for each distinct word and operand of its lanes and blocks its
wave until they return (R154, R221, R339). Cache control moves no byte and no register. CCTL.l1drop drops the core's copy
of every lane's line; CCTL.wb leaves every such line that its home holds clean; CCTL.use fills the highest lane's line and
sets its count, mark and home hint, and every lane's reply is on its way under a token. A line that no L2 bank homes is
left alone (R325, R331, R437, Table 15-3). PREF of translated lanes asks each home
of a line that an L1 may keep for a copy (R330). -/
def Obligations.MonitoredWaitsAndCacheControl : Prop :=
  (∀ hd d a off b ch cmp ty s c xs s1, Runs hd (.mwait hd d a off b ch cmp ty) s c → c.E ≠ 0 →
     let ea (l : Nat) : Nat := (rd64 s c.w l a + BitVec.signExtend 64 (off : BitVec 24)).toNat
     let eas : List (Nat × Nat) := (lanesOf c.E).map fun l => (l, ea l)
     (∀ l, l < 32 → c.E.getLsbD l = true → ea l % (4 * tyRegs ty) = 0) →
     Translates s c (eas.map fun e => (e.2, .read)) xs s1 → MaySend s c c.E eas.length 0 →
     ∃ t fl, exec (.mwait hd d a off b ch cmp ty) s = .next t ∧ tget t.flights s.nextId = some fl ∧
       fl.wave = c.id ∧ fl.left = c.E ∧ fl.dest = .words (tyRegs ty) ∧ fl.d = d ∧ fl.sb = hd.h.set.map (·.toNat) ∧
       (t.wave c.id).blocked = .mwait s.nextId ∧ (t.wave c.id).pc = c.w.pc ∧
       (t.wave c.id).v = c.w.v ∧ (t.wave c.id).w = c.w.w ∧ (t.wave c.id).p = c.w.p ∧
       (t.wave c.id).pend = fl.regs ++ c.w.pend ∧ fl.regs = (useReg (tyRegs ty) d).regs ∧
       (∀ x ∈ (t.wave c.id).latches, x.valid = false) ∧ (∀ k, k ≠ c.id → tget t.waves k = tget s.waves k) ∧
       let val (l : Nat) : DWord := if ty.is64 then rd64 s c.w l b else (rd32 s c.w l b).setWidth 64
       let gs := mwaitGroup val (laneAccs eas xs) []
       (∀ x ∈ laneAccs eas xs, (∃ g ∈ gs, g.1.pa = x.pa ∧ g.2.1 = val x.lane) ∧
         ∀ g ∈ gs, g.2.2.getLsbD x.lane = (decide (g.1.pa = x.pa) && decide (g.2.1 = val x.lane))) ∧
       Sends s t c (s.nextId + 1) (gs.map fun g => laneReq s c (.mwait cmp ty g.2.1 g.2.2) g.1.lane s.nextId g.1.pa g.1.va
         (4 * tyRegs ty) (homeOf g.1.pa g.1.e.ms) 3 (BitVec.toNat ch.home)) false) ∧
  (∀ hd a off b ch s c xs s1, c.E ≠ 0 →
     let ea (l : Nat) : Nat := (rd64 s c.w l a + BitVec.signExtend 64 (off : BitVec 24)).toNat
     let eas : List (Nat × Nat) := (lanesOf c.E).map fun l => (l, ea l)
     let as : List LaneAcc := laneAccs eas xs
     let home (x : LaneAcc) : Nat := homeOf x.pa x.e.ms
     let online : Prop := ∀ x ∈ as, home x < 768 → homeOffline s (home x) = false
     let still (t : State) : Prop := Keeps s t c hd 0 .zero [] ∧ (t.wave c.id).fstatus = c.w.fstatus ∧ t.reqs = s.reqs
     (Runs hd (.cctlL1drop hd a off ch) s c → Translates s c (eas.map fun e => (e.2, .read)) xs s1 →
       lanesBusy s c.id c.E = false → online →
       ∃ t, exec (.cctlL1drop hd a off ch) s = .next t ∧ still t ∧ t.lines = s.lines ∧
         ∀ k, tget (t.core c.w.core).l1 k =
           if ∃ x ∈ as, home x < 768 ∧ k = x.pa / 128 then none else tget (s.core c.w.core).l1 k) ∧
     (Runs hd (.cctlWb hd a off ch) s c → Translates s c (eas.map fun e => (e.2, .read)) xs s1 →
       lanesBusy s c.id c.E = false → online →
       ∃ t, exec (.cctlWb hd a off ch) s = .next t ∧ still t ∧
         ∀ k, tget t.lines k = (tget s.lines k).map fun ln =>
           if ∃ x ∈ as, home x < 768 ∧ k = lineKey (home x) x.pa then { ln with dirty := false, backing := [] } else ln) ∧
     (Runs hd (.cctlUse hd a off b ch) s c →
       Translates s c ((lanesOf c.E).map fun l => (ea l, if (rd32 s c.w l b).getLsbD 8 then .rmw else .read)) xs s1 →
       lanesBusy s c.id c.E = false → online → roomFor s c.w c.id eas.length eas.length = true →
       ∃ t fl, exec (.cctlUse hd a off b ch) s = .next t ∧ Departs s t c hd fl ∧ fl.left = c.E ∧ fl.dest = .none ∧ fl.regs = [] ∧
         (t.wave c.id).fstatus = c.w.fstatus ∧ (∀ k, k < s.nextId → tget t.reqs k = tget s.reqs k) ∧
         (∀ x ∈ as, ∃ k rep tok, tget t.reps k = some rep ∧ rep.req.kind = .cctl ∧ rep.req.lane = x.lane ∧
           rep.req.flight = s.nextId ∧ rep.t = 0 ∧ rep.words = [] ∧ rep.req.token = some tok ∧ (tget t.toks tok).isSome) ∧
         ∀ x, as.getLast? = some x → home x < 768 →
           ∃ ln, tget t.lines (lineKey (home x) x.pa) = some ln ∧ ln.use = (rd32 s c.w x.lane b).toNat % 256 ∧
             ln.dead = (decide (ln.use ≠ 0) && (rd32 s c.w x.lane b).getLsbD 8) ∧
             (ch.home ≠ 0 → ln.hint = BitVec.toNat ch.home)) ∧
     (Runs hd (.pref hd a off ch) s c → roomFor s c.w c.id eas.length 0 = true →
       xlatAll (.pref c.id) c.w (eas.map fun e => (e.2, .read)) s = (s1, xs.map fun x => .ok x.1 x.2) →
       let asked := as.filter fun x => decide (home x < 796) && copyable (home x) (s.line (lineKey (home x) x.pa))
       ∃ t, exec (.pref hd a off ch) s = .next t ∧ (∀ x, memGet t.mem x = memGet s.mem x) ∧
         (t.wave c.id).v = c.w.v ∧ (t.wave c.id).w = c.w.w ∧ (t.wave c.id).p = c.w.p ∧
         Moves c (t.wave c.id) (fun _ => c.pc + 12) ∧ (t.core c.w.core).pts = (s.core c.w.core).pts ∧
         Sends s t c (s.nextId + 1) (asked.map fun x =>
           laneReq s c (.pref (ch.l1 ≠ 3)) x.lane s.nextId (x.pa / 128 * 128) x.va 1 (home x) (BitVec.toNat ch.l1)
             (BitVec.toNat ch.home)) false))

/-- A read that may be performed at its home, or a prefetch, is answered at max(pts, wts) with the line's bytes of
memory where a copy is allowed and no word of it is poisoned (R58, R443), a renewal likewise; the line's rts rises as
R100 and R102 say, and a read that the ceiling holds waits with
the timestamp that the ceiling must reach (R100, R102, R117, R330). A line that the home does not hold takes the
retired maxima (R111). -/
def Obligations.HomeReadsFollowTheirLease : Prop :=
  ∀ s id r renew, tget s.reqs id = some r →
    (r.kind = .read renew ∨ ((∃ keep, r.kind = .pref keep) ∧ renew = none)) →
    mayPerform s id r = true → r.held = none → r.armed = false → r.pa < 2 ^ 52 →
    let i : Instr := match renew with
      | none => .homeRead id
      | some _ => .leaseRenewal id
    let k := lineKey r.home r.pa
    let l : Line := (tget s.lines k).getD { Line.fresh with wts := (s.home r.home).rw, rts := (s.home r.home).rd }
    let pts := max (s.core r.core).pts r.low
    let lease := (s.part r.part).regs.lease
    let copy : Prop := (r.home < 768 ∧ l.use = 0) ∨ 780 ≤ r.home
    let T := max pts l.wts
    ∃ t rts', exec i s = .next t ∧
      (renew = some l.wts → rts' = max l.rts (pts + lease)) ∧
      (renew ≠ some l.wts → copy → rts' = max l.rts (max (l.wts + lease) (pts + lease))) ∧
      (renew ≠ some l.wts → ¬ copy → rts' = max l.rts T) ∧
      (max T rts' ≤ s.ceil →
        tget t.reqs id = none ∧
        (∃ rep, tget t.reps id = some rep ∧ rep.req = r ∧ rep.t = T ∧ rep.wts = l.wts ∧ rep.rts = rts' ∧ rep.status = 0 ∧
          rep.words = bytesWords ((List.range r.size).map fun j => memGet s.mem (r.pa + j)) ∧
          (copy → poisoned s (r.pa / 128 * 128) 128 = false →
            rep.line = (List.range 128).map fun j => memGet s.mem (r.pa / 128 * 128 + j)) ∧
          (¬ copy ∨ poisoned s (r.pa / 128 * 128) 128 = true → rep.line = [])) ∧
        (∀ j e, j ≠ id → tget s.reqs j = some e → ∃ e', tget t.reqs j = some e' ∧ e' = { e with low := e'.low } ∧ e.low ≤ e'.low) ∧
        (l.use = 0 → (∃ ln, tget t.lines k = some ln ∧ ln = { l with rts := rts', last := ln.last, hint := ln.hint }) ∧
          ∀ a, memGet t.mem a = memGet s.mem a) ∧
        (2 ≤ l.use → (∃ ln, tget t.lines k = some ln ∧ ln = { l with rts := rts', last := ln.last, hint := ln.hint, use := l.use - 1 }) ∧
          ∀ a, memGet t.mem a = memGet s.mem a) ∧
        (l.use = 1 → tget t.lines k = none ∧ l.wts ≤ (t.home r.home).rw ∧ rts' ≤ (t.home r.home).rd)) ∧
      (s.ceil < max T rts' → tget t.reqs id = some { r with held := some (max T rts') } ∧ t.reps = s.reps ∧
        ∀ a, memGet t.mem a = memGet s.mem a) ∧
      t = { s with lines := t.lines, homes := t.homes, nextId := t.nextId, mem := t.mem, reqs := t.reqs, reps := t.reps }

/-- A store or an atomic that may be performed at its home writes at max(pts, rts + 1): its bytes stand in memory, every
other byte as before, the line's wts and rts become that timestamp, the writer's own copy takes the new line, or leaves
its core where a word of the line stays poisoned (R443), and the reply carries an atomic's old words (R58, R104, R333).
With a token whose entry its home keeps, the stored result is answered and nothing written (R437); above the ceiling it
waits (R117). A write wakes a monitor of its home whose word it touches and whose compare now holds: the waiter's read
is answered with the new word at the write's timestamp, and the monitor is gone (R222). -/
def Obligations.HomeWritesFollowEveryRead : Prop :=
  (∀ s id r new ret i, tget s.reqs id = some r →
     ((r.kind = .write new ∧ ret = [] ∧ i = Instr.homeWrite id) ∨
       (∃ aop ty b cmp, r.kind = .atom aop ty b cmp ∧ i = .readModifyWrite id ∧ overShare s r.home r.part = false ∧ ret = bytesWords (s.rd r.pa r.size) ∧
         new = natBytes (atomOp aop ty (BitVec.ofNat 64 (bytesNat (s.rd r.pa r.size))) b cmp).toNat r.size)) →
     mayPerform s id r = true → r.held = none → r.armed = false →
     let k := lineKey r.home r.pa
     let l : Line := (tget s.lines k).getD { Line.fresh with wts := (s.home r.home).rw, rts := (s.home r.home).rd }
     let T := max (max (s.core r.core).pts r.low) (l.rts + 1)
     let seen : Option TokEntry := match r.token with
       | none => none
       | some tok => tget s.toks tok
     ∃ t, exec i s = .next t ∧
       (∀ e, seen = some e → tget t.reqs id = none ∧ (∃ rep, tget t.reps id = some rep ∧ rep.req = r ∧ rep.words = e.result ∧ rep.t = e.t) ∧
         (∀ a, memGet t.mem a = memGet s.mem a) ∧ t.lines = s.lines) ∧
       (seen = none → writeWaits s r.home r.pa = true → tget t.reqs id = some { r with armed := true } ∧
         (∀ a, memGet t.mem a = memGet s.mem a) ∧ t.lines = s.lines) ∧
       (seen = none → writeWaits s r.home r.pa = false → s.ceil < T → tget t.reqs id = some { r with held := some T } ∧
         ∀ a, memGet t.mem a = memGet s.mem a) ∧
       (seen = none → writeWaits s r.home r.pa = false → T ≤ s.ceil →
         tget t.reqs id = none ∧
         (∃ rep, tget t.reps id = some rep ∧ rep.req = { r with low := rep.req.low } ∧ rep.words = ret ∧ rep.t = T) ∧
         (deadTier s r.pa = false → ∀ a, memGet t.mem a =
           if r.pa ≤ a ∧ a < r.pa + new.length then new.getD (a - r.pa) 0 else memGet s.mem a) ∧
         (deadTier s r.pa = true → ∀ a, memGet t.mem a = memGet s.mem a) ∧
         (∃ ln, tget t.lines k = some ln ∧ ln.wts = T ∧ ln.rts = T ∧ ln.use = l.use ∧ ln.dead = l.dead ∧
           ln.dirty = (decide (r.home < 768) || decide (780 ≤ r.home))) ∧
         (∀ tok, r.token = some tok → tget t.toks tok = some { home := r.home, result := ret, t := T }) ∧
         (∀ cp, liveReq s r = true → tget (s.core r.core).l1 (r.pa / 128) = some cp →
           tget (t.core r.core).l1 (r.pa / 128) = if poisoned t (r.pa / 128 * 128) 128 then none else some { cp with
             wts := T, rts := T, data := (List.range 128).map fun j => memGet t.mem (r.pa / 128 * 128 + j) })) ∧
       t.waves = s.waves ∧ t.teams = s.teams ∧ t.gangs = s.gangs ∧ t.parts = s.parts) ∧
  (∀ s id r new m mon e, tget s.reqs id = some r → r.kind = .write new → mayPerform s id r = true → r.held = none →
     r.armed = false → r.token = none → writeWaits s r.home r.pa = false →
     let l : Line := (tget s.lines (lineKey r.home r.pa)).getD
       { Line.fresh with wts := (s.home r.home).rw, rts := (s.home r.home).rd }
     let T := max (max (s.core r.core).pts r.low) (l.rts + 1)
     T ≤ s.ceil → deadTier s r.pa = false → (m, mon) ∈ s.monitors → (∀ x ∈ s.monitors, x.2.req = mon.req → x = (m, mon)) →
     mon.home = r.home → mon.req ≠ id → tget s.reqs mon.req = some e → mon.pa < r.pa + new.length → r.pa < mon.pa + e.size →
     let word (t : State) : List Byte := (List.range e.size).map fun j => memGet t.mem (mon.pa + j)
     ∃ t, exec (.homeWrite id) s = .next t ∧
       (waitHolds e (bytesNat (word t)) = true → tget t.reqs mon.req = none ∧ tget t.monitors m = none ∧
         ∃ rep, tget t.reps mon.req = some rep ∧ rep.t = T ∧ rep.words = bytesWords (word t)) ∧
       (waitHolds e (bytesNat (word t)) = false → ∃ e', tget t.reqs mon.req = some e' ∧ e' = { e with low := e'.low }))

/-- MWAIT_HOME_READ and MONITOR_REREAD read a waiter's word without a lease: a compare that holds is answered at
max(pts, wts), any other leaves the waiter watching, with a monitor on its first read where its home has room for those of
all its operands (R221, R223). PEER_WORD_POLL compares the word that the peer answered: one that holds is answered, any
other leaves the waiter to read again (R223). CEILING_HOLD_RELEASE performs a held read, store or atomic once the ceiling
has reached its timestamp: a read is answered with its bytes at max(pts, wts), a store or atomic writes its bytes at
max(pts, rts + 1) (R100, R104, R117). L2_LINE_FILL gives an absent line the retired maxima of its home (R111). -/
def Obligations.HomesServeWaitersHoldsAndFills : Prop :=
  (∀ s id r first, tget s.reqs id = some r → r.kind.isMwait = true → r.orphan = false → r.held = none → r.armed = !first →
    watched s id = false → (first = true → mayPerform s id r = true) →
    (first = false → r.home < 1024 ∧ homeOffline s r.home = false) →
    let k := lineKey r.home r.pa
    let l : Line := (tget s.lines k).getD { Line.fresh with wts := (s.home r.home).rw, rts := (s.home r.home).rd }
    let T := max (max (s.core r.core).pts r.low) l.wts
    let word : List Byte := (List.range r.size).map fun j => memGet s.mem (r.pa + j)
    max T (max l.rts T) ≤ s.ceil →
    ∃ t, exec (if first then .mwaitHomeRead id else .monitorReread id) s = .next t ∧
      (waitHolds r (bytesNat word) = true → tget t.reqs id = none ∧
        ∃ rep, tget t.reps id = some rep ∧ rep.req = { r with low := rep.req.low } ∧ rep.t = T ∧ rep.words = bytesWords word) ∧
      (waitHolds r (bytesNat word) = false → tget t.reps id = tget s.reps id ∧
        (∃ r', tget t.reqs id = some r' ∧ r' = { r with armed := true, low := r'.low } ∧ r.low ≤ r'.low) ∧
        (first = true → (s.monitors.filter fun m => m.2.home == r.home).length + (mwaitMates s r).length ≤ monitorRoom r.home →
          ∃ m ∈ t.monitors, m.2 = { home := r.home, pa := r.pa, req := id })) ∧
      t.waves = s.waves ∧ ∀ a, l.use = 0 → memGet t.mem a = memGet s.mem a) ∧
  (∀ s id r value, tget s.reqs id = some r → r.kind.isMwait = true → r.orphan = false → 1024 ≤ r.home →
    let word : List Byte := natBytes (BitVec.toNat (value : DWord)) r.size
    ∃ t, exec (.peerWordPoll id value) s = .next t ∧ t = { s with reqs := t.reqs, reps := t.reps } ∧
      (waitHolds r (bytesNat word) = true → tget t.reqs id = none ∧
        ∃ rep, tget t.reps id = some rep ∧ rep.req = r ∧ rep.words = bytesWords word) ∧
      (waitHolds r (bytesNat word) = false → tget t.reqs id = some { r with armed := true } ∧ t.reps = s.reps)) ∧
  (∀ s id r H, tget s.reqs id = some r → r.held = some H → H ≤ s.ceil → mayPerform s id r = true → r.armed = false →
    let k := lineKey r.home r.pa
    let l : Line := (tget s.lines k).getD { Line.fresh with wts := (s.home r.home).rw, rts := (s.home r.home).rd }
    let pts := max (s.core r.core).pts r.low
    let lease := (s.part r.part).regs.lease
    let old : List Byte := (List.range r.size).map fun j => memGet s.mem (r.pa + j)
    let done (t : State) (T : Nat) (words : List Word) : Prop := tget t.reqs id = none ∧
      ∃ rep, tget t.reps id = some rep ∧ rep.req = { r with held := none, low := rep.req.low } ∧ rep.t = T ∧ rep.words = words
    (((∃ w, r.kind = .read w) ∨ ∃ keep, r.kind = .pref keep) →
      max (max l.rts (max pts l.wts)) (max (l.wts + lease) (pts + lease)) ≤ s.ceil →
      ∃ t, exec (.ceilingHoldRelease id) s = .next t ∧ done t (max pts l.wts) (bytesWords old)) ∧
    (∀ new ret, ((r.kind = .write new ∧ ret = []) ∨
        (∃ aop ty b cmp, r.kind = .atom aop ty b cmp ∧ overShare s r.home r.part = false ∧ ret = bytesWords old ∧
          new = natBytes (atomOp aop ty (BitVec.ofNat 64 (bytesNat old)) b cmp).toNat r.size)) →
      (∀ tok, r.token = some tok → tget s.toks tok = none) → writeWaits s r.home r.pa = false → deadTier s r.pa = false →
      max pts (l.rts + 1) ≤ s.ceil →
      ∃ t, exec (.ceilingHoldRelease id) s = .next t ∧ done t (max pts (l.rts + 1)) ret ∧
        (∀ a, memGet t.mem a = if r.pa ≤ a ∧ a < r.pa + new.length then new.getD (a - r.pa) 0 else memGet s.mem a) ∧
        ∃ ln, tget t.lines k = some ln ∧ ln.wts = max pts (l.rts + 1) ∧ ln.rts = max pts (l.rts + 1))) ∧
  (∀ s home line, home < 796 → (homeOf (128 * line) false = home ∨
      (homeOf (128 * line) true = home ∧ ∃ e ∈ s.reqs, e.2.home = home ∧ e.2.pa / 128 = line)) → homeOffline s home = false →
    tget s.lines (lineKey home (128 * line)) = none →
    ∃ t ln, exec (.l2LineFill home line) s = .next t ∧ tget t.lines (lineKey home (128 * line)) = some ln ∧
      ln = { Line.fresh with wts := (s.home home).rw, rts := (s.home home).rd, last := ln.last } ∧
      t = { s with lines := t.lines, homes := t.homes, nextId := t.nextId })

/-- A reply whose wave still holds the request's tag, and whose die its agent generation (R121), raises the core's pts
to its timestamp, is kept as a copy where its hint allows one, consumes its token and writes its lane; the last lane
clears the pending bits and lets the scoreboard count down, and ends an MWAIT. Any other reply to a wave that is there
is dropped with no effect (R100, R104, R250, R325, R327, R339, R435, R437); one to a wave that has retired tells how far
the work of its partition has reached (R155, R298). The results of an instruction that is performed at its issue are
written together, with the predicate of a graph status, and its pending bits and its scoreboard count go (R250, R251,
R345; log entry 17). The replies of a RET and of poisoned data are stated apart. A RET's reply keeps its lane's return
address for the RET; poisoned data reaches no register, and its team takes TRAP_STORAGE with the address of the data's
line (R297, R443). A token is released once its reply is consumed and no request carries it, and its home's entry goes
with it (R437). A peer acknowledges a request eight bytes at a time, and with the last of them the request goes back to
its lane with timestamp 0, since a peer's order has no timestamp here, or with the result that its token has kept (R149,
R151, R437, R461). An unreachable peer frees the entries that no wave awaits (R436). A home that is offline turns back
the requests of an instruction but those that it holds already: they are saved as packets and their wave is suspended
(R442, R446). -/
def Obligations.RepliesReachTheirWaves : Prop :=
  (∀ s id rep f w i, tget s.reps id = some rep →
     ((i = Instr.readReply id ∧ tget s.flights id = none ∧ ((∃ n, rep.req.kind = .read n) ∨ rep.req.kind.isMwait = true)) ∨
       (i = .writeReply id ∧ ((∃ bs, rep.req.kind = .write bs) ∨ rep.req.kind = .cctl ∨ rep.req.kind.isAtom = true))) →
     let r := rep.req
     let first : Word := rep.words.getD 0 0
     let ws : List Word := match f.dest with
       | .words n => rep.words.take n
       | .ext true 8 => [(BitVec.setWidth 8 first).signExtend 32]
       | .ext true _ => [(BitVec.setWidth 16 first).signExtend 32]
       | .ext false 8 => [(BitVec.setWidth 8 first).setWidth 32]
       | .ext false _ => [(BitVec.setWidth 16 first).setWidth 32]
       | _ => []
     let m : LaneSet := r.lanes
     let left := f.left &&& ~~~m
     let present : Prop := r.agen = (s.die (coreDie r.core)).gen
     (liveReq s r = false ∨ ¬ present → (tget s.waves r.wave).isSome → exec i s = .next { s with reps := tdel s.reps id }) ∧
     (tget s.waves r.wave = none → ∃ t, exec i s = .next t ∧ t.reps = tdel s.reps id ∧ t.waves = s.waves ∧
       (∀ a, memGet t.mem a = memGet s.mem a) ∧
       ∀ k g, tget s.grids k = some g → tget t.grids k = some (if g.part = r.part then { g with top := max g.top rep.t } else g)) ∧
     (liveReq s r = true → present → tget s.waves r.wave = some w → tget s.flights r.flight = some f → f.wave = r.wave →
       f.dest ≠ .ret → f.dest ≠ .desc → (∀ sg n, f.dest = .ext sg n → n = 8 ∨ n = 16) → rep.poisoned = false → m ≠ 0 →
       ∃ t v, exec i s = .next t ∧ tget t.waves r.wave = some v ∧ t.reps = tdel s.reps id ∧
         (∀ a, memGet t.mem a = memGet s.mem a) ∧ (t.core r.core).pts = max (s.core r.core).pts rep.t ∧
         (∀ n l, l < 32 → v.vget n l = newVec w (m &&& w.live) ⟨false, f.d⟩ (ws.map fun x _ => x) n l) ∧
         (∀ n, v.wget n = if (m &&& w.live).getLsbD f.first then newUni w (1 <<< f.first) ⟨false, f.d⟩ (ws.map fun x _ => x) n
           else w.wget n) ∧
         v.p = w.p ∧ v.fstatus = w.fstatus ∧ v.ops = w.ops ∧
         (left ≠ 0 → t.flights = tput s.flights r.flight { f with left := left } ∧ v.pend = w.pend ∧ v.sb = w.sb ∧
           ((∀ n, w.blocked = .mwait n → n = r.flight) → v.blocked = w.blocked ∧ v.pc = w.pc)) ∧
         (left = 0 → tget t.flights r.flight = none ∧ v.pend = w.pend.filter (fun n => !f.regs.contains n) ∧
           (∀ n, n < w.sb.length → v.sbOf n = if f.sb = some n then w.sbOf n - 1 else w.sbOf n) ∧
           ((∀ n, w.blocked ≠ .mwait n) → v.blocked = w.blocked ∧ v.pc = w.pc ∧ v.latches = w.latches) ∧
           (w.blocked = .mwait r.flight → v.blocked = .none ∧ ∀ pc, w.iss.runPc = some pc →
             ∀ l, l < 32 → v.pcOf l = if (w.pathAt pc &&& w.live).getLsbD l then pc + 12 else w.pcOf l)) ∧
         (∀ k, k ≠ r.wave → tget t.waves k = tget s.waves k) ∧
         (∀ tok, r.token = some tok → tget t.tokens tok = (tget s.tokens tok).map fun x => { x with consumed := true }) ∧
         (rep.line ≠ [] → r.l1 ≠ 3 → ∃ cp, tget (t.core r.core).l1 (r.pa / 128) = some cp ∧
           cp.wts = rep.wts ∧ cp.rts = rep.rts ∧ cp.data = rep.line))) ∧
  (∀ s fid f n w, tget s.flights fid = some f → f.dest = .kept n → f.vals.length = 32 * n → tget s.waves f.wave = some w →
     let m : LaneSet := f.left &&& w.live
     let ws : List (Nat → Word) := (List.range n).map fun j l => f.vals.getD (n * l + j) 0
     ∃ t v, exec (.readReply fid) s = .next t ∧ tget t.waves f.wave = some v ∧ tget t.flights fid = none ∧
       t = { s with waves := tput s.waves f.wave v, flights := t.flights } ∧
       (∀ k, k ≠ fid → tget t.flights k = tget s.flights k) ∧
       (∀ k l, l < 32 → v.vget k l = newVec w m ⟨false, f.d⟩ ws k l) ∧
       (∀ k, v.wget k = if m.getLsbD f.first then newUni w (1 <<< f.first) ⟨false, f.d⟩ ws k else w.wget k) ∧
       (∀ p l, l < 32 → v.pbit p l = if p = f.pd ∧ p ≠ 7 ∧ m.getLsbD l then f.vals.getD (n * l) 0 == 0 else w.pbit p l) ∧
       v.pend = w.pend.filter (fun k => !f.regs.contains k) ∧
       (∀ k, k < w.sb.length → v.sbOf k = if f.sb = some k then w.sbOf k - 1 else w.sbOf k) ∧
       v = { w with v := v.v, w := v.w, p := v.p, pend := v.pend, sb := v.sb, bad := v.bad }) ∧
  ((∀ s id rep f n, tget s.reps id = some rep → rep.req.kind = .read n → liveReq s rep.req = true →
     rep.req.agen = (s.die (coreDie rep.req.core)).gen → tget s.flights id = none → (tget s.waves rep.req.wave).isSome → tget s.flights rep.req.flight = some f → f.wave = rep.req.wave →
     (f.dest = .ret → rep.poisoned = false → f.vals.length = 64 → rep.req.lane < 32 →
       (∀ n, (s.wave rep.req.wave).blocked ≠ .mwait n) →
       ∃ t g, exec (.readReply id) s = .next t ∧ tget t.flights rep.req.flight = some g ∧
         (∀ k, g.vals.getD k 0 = if k = 2 * rep.req.lane then rep.words.getD 0 0
           else if k = 2 * rep.req.lane + 1 then rep.words.getD 1 0 else f.vals.getD k 0) ∧
         g.left = f.left &&& ~~~((1 : LaneSet) <<< rep.req.lane) ∧ t.waves = s.waves ∧ t.teams = s.teams) ∧
     (rep.poisoned = true →
       let tm := (s.wave rep.req.wave).team
       let p := (s.gang (s.team tm).gang).part
       ∃ t, exec (.readReply id) s = .next t ∧ ((tget s.parts p).isSome →
           ∃ x, tget (t.part p).faults (s.part p).nextF = some x ∧ x.code = 18 ∧ x.team = tm ∧
             x.info = BitVec.ofNat 64 (rep.req.pa / 128 * 128)) ∧ (t.wave rep.req.wave).v = (s.wave rep.req.wave).v ∧
         (t.wave rep.req.wave).w = (s.wave rep.req.wave).w ∧ (t.wave rep.req.wave).p = (s.wave rep.req.wave).p ∧
         ((tget s.teams (s.wave rep.req.wave).team).isSome → (t.team (s.wave rep.req.wave).team).stopped = true))) ∧
   (∀ s tok x, tget s.tokens (BitVec.toNat (tok : BitVec 32)) = some x → x.consumed = true →
     (∀ e ∈ s.reqs, e.2.token ≠ some (BitVec.toNat tok)) →
     ∃ t, exec (.tokenRelease tok) s = .next t ∧ tget t.tokens (BitVec.toNat tok) = none ∧ tget t.toks (BitVec.toNat tok) = none ∧
       (∀ k, k ≠ BitVec.toNat tok → tget t.tokens k = tget s.tokens k ∧ tget t.toks k = tget s.toks k) ∧
       t = { s with tokens := t.tokens, toks := t.toks })) ∧
  ((∀ s id r data e, tget s.reqs id = some r → 1024 ≤ r.home → r.kind.isMwait = false → tget s.hops r.wave = none →
     tget (s.part r.part).peers (r.home - 1024) = some e → (∃ n, n < 16 ∧ e.getLsbD (48 + n) = true ∧ n ∉ s.ctrl.retPort) →
     earlierReq s id r = false → r.core ≠ xdCore →
     data.length = (match r.kind with
       | .read _ | .atom .. => min 8 r.size
       | _ => 0) →
     let seen : Option TokEntry := match r.token with
       | none => none
       | some tok => tget s.toks tok
     ∃ t, exec (.peerAcknowledgement id data) s = .next t ∧
       (8 * (r.acks + 1) < r.size → t = { s with reqs := tput s.reqs id { r with acks := r.acks + 1, got := r.got ++ data } }) ∧
       (r.size ≤ 8 * (r.acks + 1) → tget t.reqs id = none ∧ (∃ rep, tget t.reps id = some rep ∧ rep.req = r ∧
           (∀ e, seen = some e → rep.words = e.result ∧ rep.t = e.t) ∧
           (seen = none → rep.words = bytesWords (r.got ++ data) ∧ rep.t = 0)) ∧
         (∀ a, memGet t.mem a = memGet s.mem a) ∧ t.waves = s.waves)) ∧
   (∀ s peer, ∃ t, exec (.peerUnreachable peer) s = .next t ∧ t = { s with reqs := t.reqs } ∧
     ∀ id r, tget s.reqs id = some r →
       (r.home = 1024 + peer → r.orphan = true → r.core ≠ xdCore → tget s.hops r.flight = none → ∀ x ∈ t.reqs, x ≠ (id, r)) ∧
       (r.home ≠ 1024 + peer ∨ r.orphan = false ∨ r.core = xdCore → (id, r) ∈ t.reqs)) ∧
   (∀ s id r, tget s.reqs id = some r → r.home < 1024 → homeOffline s r.home = true → (∀ g o, r.kind ≠ .graph g o) →
     let present : Prop := r.agen = (s.die (coreDie r.core)).gen
     (r.holds = true ∨ watched s id = true ∨ tget s.waves r.wave = none → exec (.homeOfflineReply id) s = .next s) ∧
     (r.holds = false → watched s id = false → (tget s.waves r.wave).isSome →
       (liveReq s r = false ∨ ¬ present → exec (.homeOfflineReply id) s = .next { s with reqs := tdel s.reqs id }) ∧
       (liveReq s r = true → present → r.kind.isPref = false → (s.wave r.wave).susp = .none →
         ∃ t w, exec (.homeOfflineReply id) s = .next t ∧ tget t.waves r.wave = some w ∧ w.susp = .offline ∧
           (∀ x ∈ t.reqs, x ≠ (id, r)) ∧ w.v = (s.wave r.wave).v ∧ w.w = (s.wave r.wave).w ∧ w.p = (s.wave r.wave).p ∧
           ∃ p ∈ w.packets, p.seq = id ∧ p.req = { r with armed := false, held := none, acks := 0, got := [] }))))

/-- FLUSHRES makes the combining entries of its partition on its cluster due, and the residual entries whose home is
online; as one operation of the accumulate class it waits for the residual entries held then and for the words that its
own wave's operations have in combining entries and in requests on their way, and with none of them it is complete at once
(R136, R138, R160, R335; log entry 21). An age of 64 cycles makes a combining entry due (R126), an age of 4,096 cycles the
entries of a residual group whose home is online (R134, R136). A due combining entry, within its cluster's limits and with
no residual group waiting, leaves as a request of its group: the group's residual entries that are not in flight are
folded into its words and are in flight from then on, and where one of them has been refused three times the request bears
the must-accept mark, which FORCED counts. A due residual group, the next in order, is delivered by itself (R127, R128,
R131, R134, R140). -/
def Obligations.AccumulatesBecomeDueAndAreSent : Prop :=
  ((∀ hd s c, Runs hd (.flushres hd) s c → c.E ≠ 0 → lanesBusy s c.id c.path = false → classCount c.w .acc < 63 →
     let cl := c.w.core / 4
     let p := s.partNo c.w
     ∃ t, exec (.flushres hd) s = .next t ∧ (∀ a, memGet t.mem a = memGet s.mem a) ∧
       (t.wave c.id).v = c.w.v ∧ (t.wave c.id).w = c.w.w ∧ (t.wave c.id).p = c.w.p ∧
       Moves c (t.wave c.id) (fun _ => c.pc + 12) ∧
       (∀ slot e, tget (s.cluster cl).comb slot = some e →
         tget (t.cluster cl).comb slot = some { e with
           due := e.due || decide (e.key.part = p)
           flush := if e.key.part = p ∧ ∃ x ∈ e.waits, x.1 = c.id then (c.id, s.nextId) :: e.flush else e.flush }) ∧
       (∀ k r, tget s.areqs k = some r → tget t.areqs k = some { r with
         flush := if r.cluster = cl ∧ r.key.part = p ∧ ∃ x ∈ r.waits, x.1 = c.id then (c.id, s.nextId) :: r.flush else r.flush }) ∧
       (∀ slot e, tget (s.cluster cl).resid slot = some e →
         tget (t.cluster cl).resid slot = some { e with
           due := e.due || (decide (e.key.part = p) && !homeOffline s e.home)
           waits := if e.key.part = p then (c.id, s.nextId) :: e.waits else e.waits }) ∧
       ((∃ slot e, tget (s.cluster cl).resid slot = some e ∧ e.key.part = p) ∨
           (∃ slot e, tget (s.cluster cl).comb slot = some e ∧ e.key.part = p ∧ ∃ x ∈ e.waits, x.1 = c.id) ∨
           (∃ k r, tget s.areqs k = some r ∧ r.cluster = cl ∧ r.key.part = p ∧ ∃ x ∈ r.waits, x.1 = c.id) →
         (t.wave c.id).ops = c.w.ops ++ [{ id := s.nextId, cls := .acc, touch := { loc := false, glob := true, grph := false },
                                           done := false, t := 0, pc := c.pc, lanes := c.path, names := [] }]) ∧
       (opHeld s s.nextId = false → (∀ e ∈ (s.cluster cl).resid, e.2.key.part ≠ p) →
         (∀ e ∈ (s.cluster cl).comb, e.2.key.part = p → ∀ x ∈ e.2.waits, x.1 ≠ c.id) →
         (∀ e ∈ s.areqs, e.2.cluster = cl → e.2.key.part = p → ∀ x ∈ e.2.waits, x.1 ≠ c.id) →
         ∀ o ∈ (t.wave c.id).ops, o.id = s.nextId → o.done = true)) ∧
   (∀ hd s c, Runs hd (.flushres hd) s c → c.E = 0 → ∃ t, exec (.flushres hd) s = .next t ∧ Goes s t c hd fun _ => c.pc + 12) ∧
   (∀ s cl n e, tget (s.cluster cl).comb n = some e → e.born + 64 ≤ s.cycle →
     ∃ t, exec (.combiningEntryAge cl n) s = .next t ∧ t = { s with clusters := t.clusters } ∧
       t.cluster cl = { s.cluster cl with comb := (t.cluster cl).comb } ∧
       ∀ k, tget (t.cluster cl).comb k = if k = n then some { e with due := true } else tget (s.cluster cl).comb k) ∧
   (∀ s cl n e, tget (s.cluster cl).resid n = some e → e.born + 4096 ≤ s.cycle →
     ∃ t, exec (.residualAgeExpiry cl n) s = .next t ∧ t = { s with clusters := t.clusters } ∧
       t.cluster cl = { s.cluster cl with resid := (t.cluster cl).resid } ∧
       ∀ k, tget (t.cluster cl).resid k = (tget (s.cluster cl).resid k).map fun x =>
         if x.key = e.key ∧ homeOffline s x.home = false then { x with due := true } else x)) ∧
  (∀ s cl n,
     let c := s.cluster cl
     let sent (i : Instr) (key : AccKey) (home : Nat) (words : List AccWord) (pts hint : Nat) (waits flush : List (Nat × Nat))
         (deliver : Bool) (P : State → Prop) : Prop :=
       let mine := c.resid.filter fun e => e.2.key == key && e.2.flying.isNone
       let forced : Bool := mine.any fun e => e.2.refusals == 3
       ∃ t r, exec i s = .next t ∧ tget t.areqs s.nextId = some r ∧
         r = { cluster := cl, agen := (s.die (clusterDie cl)).gen, key := key, words := r.words, hint := hint, must := forced,
               pts := mine.foldl (fun m e => max m e.2.pts) pts, home := home, deliver := deliver, waits := waits,
               flush := flush, stage := 0, t := 0, token := cl * 2 ^ 25 + c.tokSeq } ∧
         ((words.map (·.off)).Nodup → (mine.map (·.2.off)).Nodup → ∀ o,
           r.words.find? (fun w => w.off == o) = match words.find? (fun w => w.off == o), mine.find? (fun e => e.2.off == o) with
             | none, none => none
             | some w, none => some w
             | none, some e => some { off := o, val := e.2.val, carried := true, due := e.2.due }
             | some w, some e => some { w with val := accCombine key.aop key.ty w.val e.2.val, carried := true, due := e.2.due }) ∧
         (∀ k, tget (t.cluster cl).resid k = (tget c.resid k).map fun e =>
           if e.key = key ∧ e.flying = none then
             { e with flying := some e.val, val := 0, mixed := false, due := false, again := false } else e) ∧
         (∀ k, k ≠ s.nextId → tget t.areqs k = tget s.areqs k) ∧
         (∀ x, tget s.parts key.part = some x → ∃ y, tget t.parts key.part = some y ∧
           (forced = true → y.regs.accForced = (x.regs.accForced + 1) % 2 ^ 32) ∧
           (forced = false → y.regs.accForced = x.regs.accForced)) ∧
         t = { s with nextId := t.nextId, clusters := t.clusters, tokens := t.tokens, areqs := t.areqs, parts := t.parts } ∧ P t
     (∀ e, tget c.comb n = some e → e.due = true → maySend s cl e.home (foldAll c e.key e.words).length = true →
       (∀ x ∈ c.resid, x.2.due = true → x.2.flying ≠ none) → maySendNow s cl = true →
       sent (.accRequestSend cl n) e.key e.home e.words e.pts e.hint e.waits e.flush false fun t =>
         (t.cluster cl).comb = tdel c.comb n) ∧
     (∀ e, tget c.resid n = some e → e.due = true → e.flying = none → sendNext c e.key = true → maySendNow s cl = true →
       sent (.residualDelivery cl n) e.key e.home [] 0 0 [] [] true fun t => (t.cluster cl).comb = c.comb))

/-- A request that arrives at its home joins the ordinary queue while the line is below the partition's quota for the
window of 32 cycles, the partition is not over its share and the queue has room; else it is refused, unless it bears
the must-accept mark, which takes it to its cluster's own queue (R129, R130). The head of a queue is performed as one
read-modify-write at one timestamp above the line's rts, the ordinary queue only while no must-accept queue of the
home waits (R131, R132). -/
def Obligations.HomesPerformAccumulates : Prop :=
  ∀ s id r home, tget s.areqs id = some r → r.home = home → homeOffline s home = false →
    let pa := 128 * r.key.line
    let k := lineKey home pa
    let l : Line := (tget s.lines k).getD { Line.fresh with wts := (s.home home).rw, rts := (s.home home).rd }
    (r.stage = 0 →
      let count := (if l.win = s.cycle / 32 then l.count else 0) + 1
      let regs := (s.part r.key.part).regs
      let quota := if s.cycle / 32 ≤ regs.quotaWin then regs.quotaOld else regs.accQuota
      let refused : Prop := quota < count ∨ overShare s home r.key.part = true ∨ (unitQueue s home).length = 32
      ∃ t, exec (.homeAccumulate id) s = .next t ∧ (∀ a, memGet t.mem a = memGet s.mem a) ∧
        (r.must = true → tget t.areqs id = some { r with stage := 1 } ∧
          mustQueue t home r.cluster = mustQueue s home r.cluster ++ [id] ∧ unitQueue t home = unitQueue s home) ∧
        (r.must = false → refused → tget t.areqs id = some { r with stage := 3 } ∧ t.unitQ = s.unitQ ∧ t.mustQ = s.mustQ) ∧
        (r.must = false → ¬ refused → tget t.areqs id = some { r with stage := 1 } ∧
          unitQueue t home = unitQueue s home ++ [id] ∧ t.mustQ = s.mustQ) ∧
        (r.must = true ∨ ¬ refused →
          chargeOf t home r.key.part = chargeOf s home r.key.part + ((r.words.map (·.off / 16)).eraseDups).length)) ∧
    (∀ q, writeWaits s home pa = false → deadTier s pa = false →
      let T := max r.pts (l.rts + 1)
      let n := if r.key.ty.is64 then 8 else 4
      let old (st : State) (o : Nat) : Nat := bytesNat ((List.range n).map fun j => memGet st.mem (pa + o + j))
      T ≤ s.ceil → (∀ w ∈ r.words, w.off % n = 0 ∧ w.off + n ≤ 128) → (r.words.map (·.off)).Nodup →
      let performed (t : State) : Prop :=
        tget t.areqs id = some { r with stage := 2, t := T } ∧
        (∀ w ∈ r.words, old t w.off = (accCombine r.key.aop r.key.ty (BitVec.ofNat 64 (old s w.off)) w.val).toNat % 2 ^ (8 * n)) ∧
        (∀ a, (∀ w ∈ r.words, ¬ (pa + w.off ≤ a ∧ a < pa + w.off + n)) → memGet t.mem a = memGet s.mem a) ∧
        (∃ ln, tget t.lines k = some ln ∧ ln.wts = T ∧ ln.rts = T) ∧
        tget t.toks r.token = some { home := home, result := [], t := T } ∧ t.waves = s.waves
      (unitQueue s home = id :: q → (∀ e ∈ s.mustQ, e.1 / 128 = home → e.2 = []) →
        ∃ t, exec (.accUnitPerform home) s = .next t ∧ unitQueue t home = q ∧ performed t) ∧
      (mustQueue s home r.cluster = id :: q →
        ∃ t, exec (.mustAcceptService home r.cluster) s = .next t ∧ mustQueue t home r.cluster = q ∧ performed t))

/-- The answers to accumulate requests at their cluster. Accepted: the entries that its words carried are free, or
keep what was combined meanwhile, and operations that nothing holds any more are complete. Refused: a word enters the
residual tile or joins its entry there, and REFUSED counts (R133, R138, R140). An answer addressed to an older agent
generation of the cluster's die is dropped (R121). -/
def Obligations.ClustersTakeTheAnswers : Prop :=
  ∀ s id r, tget s.areqs id = some r →
    let c := s.cluster r.cluster
    let present : Prop := r.agen = (s.die (clusterDie r.cluster)).gen
    let gone (t : State) : Prop := tget t.areqs id = none ∧ (∀ k, k ≠ id → tget t.areqs k = tget s.areqs k) ∧
      tget t.tokens r.token = (tget s.tokens r.token).map (fun x => { x with consumed := true }) ∧
      (∀ a, memGet t.mem a = memGet s.mem a) ∧
      ∀ x ∈ r.waits, opHeld { s with areqs := t.areqs, clusters := t.clusters } x.2 = false →
        ∀ o ∈ (t.wave x.1).ops, o.id = x.2 → o.done = true
    (¬ present → ∀ i, (r.stage = 2 ∧ i = Instr.accAccepted id) ∨ (r.stage = 3 ∧ i = .accRefused id) →
      ∃ t, exec i s = .next t ∧ t = { s with areqs := tdel s.areqs id, tokens := t.tokens }) ∧
    (present → r.stage = 2 → ∃ t, exec (.accAccepted id) s = .next t ∧ gone t ∧
      (∀ w ∈ r.words, w.carried = true → (r.words.map (·.off)).Nodup → ∀ slot e, tget c.resid slot = some e →
        e.key = r.key → e.off = w.off → (∀ x ∈ c.resid, x.2.key = r.key → x.2.off = w.off → x.1 = slot) →
        (∀ x ∈ c.resid, x.1 = slot → x.2 = e) →
        tget (t.cluster r.cluster).resid slot = if e.mixed then some { e with flying := none, mixed := false } else none) ∧
      (∀ slot e, tget c.resid slot = some e → (e.key ≠ r.key ∨ ∀ w ∈ r.words, w.carried = true → w.off ≠ e.off) →
        (∀ x ∈ c.resid, x.1 = slot → x.2 = e) → tget (t.cluster r.cluster).resid slot = some e)) ∧
    (∀ w, present → r.stage = 3 → r.words = [w] → c.resid.length < 3072 →
      ∃ t, exec (.accRefused id) s = .next t ∧ gone t ∧
        (∀ x, tget s.parts r.key.part = some x → ∃ y, tget t.parts r.key.part = some y ∧
          y.regs.accRef = (x.regs.accRef + 1) % 2 ^ 32) ∧
        match c.resid.find? fun e => e.2.key == r.key && e.2.off == w.off with
        | none => ∃ slot, tget c.resid slot = none ∧ tget (t.cluster r.cluster).resid slot = some {
            key := r.key, home := r.home, off := w.off, val := w.val, refusals := 0, born := s.cycle, flying := none,
            mixed := false, pts := r.pts, due := false, again := false, waits := r.flush }
        | some (slot, e) => ∃ e', tget (t.cluster r.cluster).resid slot = some e' ∧ e'.pts = max e.pts r.pts ∧
            e'.key = e.key ∧ e'.off = e.off ∧
            (w.carried = true → e'.flying = none ∧ e'.refusals = min 3 (e.refusals + 1) ∧
              e'.val = if e.mixed then accCombine r.key.aop r.key.ty w.val e.val else w.val) ∧
            (w.carried = false → e'.flying = e.flying ∧ e'.refusals = e.refusals ∧
              e'.val = if e.flying.isSome ∧ ¬ e.mixed then w.val else accCombine r.key.aop r.key.ty e.val w.val))

/-- FENCE, WAITC, HWAIT and NAP end at once where their condition holds, and otherwise block their wave: FENCE on the
operations of its agent that touch a space of its mask and are not complete, WAITC until at most n operations of its
class are left, HWAIT on its handle's state, NAP for 16n cycles (R154, R156 to R158, R209, R340, R367, R368). HREL on
a full or draining handle counts one release, and the last of its readers' frees it, which ends the waits for a free
handle; in any other state it raises TRAP_HANDLE_STATE. A handle number that the grid does not have raises TRAP_HANDLE
of HREL and HWAIT alike (R208, R209, Table 10-2, Table 18-4). -/
def Obligations.WaitsAndHandles : Prop :=
  (∀ hd agent sp cls n6 d hnd n12 s c, c.E ≠ 0 →
     let goes (i : Instr) (f : State → Prop) : Prop := ∃ t, exec i s = .next t ∧
       t = { s with waves := tput s.waves c.id (t.wave c.id), cores := t.cores, flights := t.flights, nextId := t.nextId } ∧ f t
     let still (t : State) : Prop := t.cores = s.cores ∧ t.flights = s.flights ∧ t.nextId = s.nextId
     (Runs hd (.fence hd agent sp) s c →
       let inScope (i : Nat) (w : Wave) : Prop := match agent with
         | .wave => i = c.id
         | .team => w.team = c.w.team
         | .gang => (s.teamOf w).gang = (s.teamOf c.w).gang
         | .partition => s.partNo w = s.partNo c.w
       let open_ (op : Nat) : Prop := ∃ e ∈ s.waves, inScope e.1 e.2 ∧ ∃ o ∈ (s.wave e.1).ops, o.id = op ∧ o.done = false ∧
         ((o.touch.loc = true ∧ sp.loc = true) ∨ (o.touch.glob = true ∧ (sp.glob = true ∨ sp.host = true)) ∨
           (o.touch.grph = true ∧ sp.graph = true))
       ((∀ op, ¬ open_ op) → goes (.fence hd agent sp) fun t => Passes c (t.wave c.id) ∧ still t) ∧
       (∀ op, open_ op → goes (.fence hd agent sp) fun t => still t ∧
         ∃ ops, Waits c (t.wave c.id) (.fence ops 0) ∧ ∀ k, k ∈ ops ↔ open_ k)) ∧
     (Runs hd (.waitc hd cls n6) s c →
       let left := (c.w.ops.filter fun o => o.cls == cls).length
       let n : Nat := BitVec.toNat (n6 : BitVec 6)
       (left ≤ n → goes (.waitc hd cls n6) fun t => Passes c (t.wave c.id) ∧ still t) ∧
       (n < left → goes (.waitc hd cls n6) fun t => Waits c (t.wave c.id) (.waitc cls n) ∧ still t)) ∧
     (let n : Nat := BitVec.toNat (hnd : BitVec 6)
       let h := handleOf (s.teamOf c.w) n
       n < (s.gridOf c.w).handles →
       let flies (t : State) (d : DReg) (done : Bool) : Prop := ∃ fl, tget t.flights s.nextId = some fl ∧
         (∀ k, k ≠ s.nextId → tget t.flights k = tget s.flights k) ∧ fl.wave = c.id ∧ fl.dest = .kept 1 ∧ fl.d = d ∧
         fl.left = c.E ∧ fl.first = firstLane c.E ∧ fl.regs = (useReg 1 d).regs ∧ fl.sb = hd.h.set.map (·.toNat) ∧
         fl.vals = (if done then List.replicate 32 (BitVec.ofNat 32 h.status) else []) ∧
         (t.wave c.id).pend = fl.regs ++ c.w.pend ∧
         ∀ k, k < c.w.sb.length → (t.wave c.id).sbOf k = if fl.sb = some k then c.w.sbOf k + 1 else c.w.sbOf k
       let waits (t : State) (full : Bool) : Prop :=
         Waits c { t.wave c.id with pend := c.w.pend, sb := c.w.sb } (.hwait n full s.nextId) ∧ t.cores = s.cores
       (Runs hd (.hwaitFull hd d hnd) s c →
         (h.st = .full ∨ h.st = .draining → goes (.hwaitFull hd d hnd) fun t =>
           (t.core c.w.core).pts = max (s.core c.w.core).pts h.t ∧ flies t d true ∧ Passes c (t.wave c.id)) ∧
         (h.st = .free ∨ h.st = .filling → goes (.hwaitFull hd d hnd) fun t => waits t true ∧ flies t d false)) ∧
       (Runs hd (.hwaitFree hd hnd) s c →
         (h.st = .free → goes (.hwaitFree hd hnd) fun t => Passes c (t.wave c.id) ∧ flies t .zero true ∧ t.cores = s.cores) ∧
         (h.st ≠ .free → goes (.hwaitFree hd hnd) fun t => waits t false ∧ flies t .zero false))) ∧
     (Runs hd (.nap hd n12) s c →
       (n12 = 0 → goes (.nap hd n12) fun t => Passes c (t.wave c.id) ∧ still t) ∧
       (n12 ≠ 0 → goes (.nap hd n12) fun t =>
         Waits c (t.wave c.id) (.nap (16 * BitVec.toNat (n12 : BitVec 12))) ∧ still t)) ∧
     (∀ k left pc w, tget s.waves k = some w → w.blocked = .nap left → w.susp = .none → (s.teamOf w).life = .resident →
       w.iss.runPc = some pc → w.iss.blockedAt + left ≤ s.cycle →
       ∃ t v, exec (.napExpiry k) s = .next t ∧ t = { s with waves := tput s.waves k v } ∧ v.blocked = .none ∧
         v.v = w.v ∧ v.w = w.w ∧ v.p = w.p ∧
         ∀ l, l < 32 → v.pcOf l = if (w.pathAt pc &&& w.live).getLsbD l then pc + 12 else w.pcOf l)) ∧
  (∀ hd d hnd s c, c.E ≠ 0 →
     let n : Nat := BitVec.toNat (hnd : BitVec 6)
     let h := handleOf (s.teamOf c.w) n
     (Runs hd (.hrel hd hnd) s c → n < (s.gridOf c.w).handles →
       (h.st = .full ∨ h.st = .draining → (tget s.teams c.w.team).isSome →
         ∃ t, exec (.hrel hd hnd) s = .next t ∧
           tget (t.team c.w.team).handles n = some { h with
             releases := h.releases + 1, st := if h.releases + 1 < h.readers then .draining else .free } ∧
           (∀ k, k ≠ n → tget (t.team c.w.team).handles k = tget (s.team c.w.team).handles k) ∧
           (t.wave c.id).v = c.w.v ∧ (t.wave c.id).w = c.w.w ∧ (t.wave c.id).p = c.w.p ∧
           Moves c (t.wave c.id) (fun _ => c.pc + 12) ∧ (∀ a, memGet t.mem a = memGet s.mem a) ∧
           (h.readers ≤ h.releases + 1 → ∀ k w x, k ≠ c.id → tget s.waves k = some w → w.team = c.w.team →
             w.blocked = .hwait n false x → (t.wave k).blocked = .none)) ∧
       (h.st = .free ∨ h.st = .filling →
         exec (.hrel hd hnd) s = .next (trapCtx s c 14 (n + 256 * (if h.st = .free then 0 else 1))))) ∧
     ((s.gridOf c.w).handles ≤ n →
       (Runs hd (.hrel hd hnd) s c → exec (.hrel hd hnd) s = .next (trapCtx s c 13 n)) ∧
       (Runs hd (.hwaitFull hd d hnd) s c → exec (.hwaitFull hd d hnd) s = .next (trapCtx s c 13 n)) ∧
       (Runs hd (.hwaitFree hd hnd) s c → exec (.hwaitFree hd hnd) s = .next (trapCtx s c 13 n))))

/-- BAR and GBAR: a wave of a stage in the mask arrives, with its pts, in the phase that the first arrival has fixed;
it waits, or goes on with `.arrive`, until the last expected wave, and the Roller where its stream names the barrier,
has arrived; then every waiting wave goes on with the phase's pts. A second arrival in the phase is carried; another
mask, or one without the wave's stage, raises TRAP_BAR_MISMATCH (R159, R193, R217, R337, R338). CLAIM takes n blocks
from the team's reserve where it holds them and no other claim waits, and they read as zero; else the wave waits.
RELEASE gives its last n blocks back, whose registers are gone. More blocks than 32 or none left raise TRAP_CLAIM, a
pending register in a released block TRAP_SCOREBOARD (R189, R341). -/
def Obligations.BarriersAndRegisterReserves : Prop :=
  (∀ hd n4 n2 st4 arrive s c i k n, RunsGathered hd i s c → c.E ≠ 0 → lanesBusy s c.id c.path = false →
     ((i = Instr.bar hd n4 st4 arrive ∧ n = BitVec.toNat n4 ∧ k = BarKey.team c.w.team n ∧ (tget s.teams c.w.team).isSome) ∨
       (i = .gbar hd n2 st4 arrive ∧ n = BitVec.toNat n2 ∧ k = .gang (s.teamOf c.w).gang n ∧
         (tget s.gangs (s.teamOf c.w).gang).isSome)) →
     let mask : Nat := BitVec.toNat (st4 : BitVec 4)
     let p := getPhase s k
     let mine (w : Wave) : Prop := match k with
       | .team t _ => w.team = t
       | .gang g _ => (s.team w.team).gang = g
     let at_ (b : Blocked) : Prop := ∃ m a, match k with
       | .team .. => b = .bar n false m a
       | .gang .. => b = .gbar n false m a
     let wait (carried : Bool) (a : Bool) : Blocked := match k with
       | .team .. => .bar n carried mask a
       | .gang .. => .gbar n carried mask a
     let arrives : Prop := mask.testBit c.w.stage = true ∧ c.id ∉ p.arrived ∧ (p.stages = none ∨ p.stages = some mask)
     let rollerCame : Prop := match k with
       | .team t _ => ∀ st, (s.team t).stream = some st → st.mask.getLsbD n = true → p.roller = true
       | .gang .. => True
     (arrives → (∃ e ∈ s.waves, e.1 ≠ c.id ∧ mine e.2 ∧ e.2.live ≠ 0 ∧ mask.testBit (s.wave e.1).stage = true ∧ e.1 ∉ p.arrived) →
       ∃ t, exec i s = .next t ∧ (∃ q, getPhase t k = q ∧ q.stages = some mask ∧ q.arrived = p.arrived ++ [c.id] ∧
           max p.pts (s.core c.w.core).pts ≤ q.pts ∧ q.carried = p.carried) ∧
         (arrive = false → Waits c (t.wave c.id) (wait false false)) ∧ (arrive = true → Passes c (t.wave c.id)) ∧
         ∀ j, j ≠ c.id → tget t.waves j = tget s.waves j) ∧
     (arrives → (∀ e ∈ s.waves, e.1 ≠ c.id → mine e.2 → e.2.live ≠ 0 → mask.testBit (s.wave e.1).stage = true → e.1 ∈ p.arrived) →
       rollerCame → p.carried = [] →
       ∃ t, exec i s = .next t ∧ getPhase t k = Phase.fresh ∧ (t.wave c.id).blocked = .none ∧
         (t.wave c.id).v = c.w.v ∧ (t.wave c.id).w = c.w.w ∧ (t.wave c.id).p = c.w.p ∧
         (Stands c → Moves c (t.wave c.id) fun _ => c.pc + 12) ∧
         ∀ e ∈ s.waves, e.1 ≠ c.id → tget s.waves e.1 = some e.2 → mine e.2 → at_ e.2.blocked →
           (t.wave e.1).blocked = .none ∧ p.pts ≤ (t.core e.2.core).pts ∧ (s.core c.w.core).pts ≤ (t.core e.2.core).pts) ∧
     (mask.testBit c.w.stage = true → c.id ∈ p.arrived →
       ∃ t, exec i s = .next t ∧ getPhase t k = { p with carried := p.carried ++ [c.id] } ∧
         Waits c (t.wave c.id) (wait true arrive)) ∧
     (mask.testBit c.w.stage = false ∨ (c.id ∉ p.arrived ∧ ∃ m, p.stages = some m ∧ m ≠ mask) →
       exec i s = .next (trapCtx (s.setWave c.id c.w) c 16 (n + 16 * p.stages.getD 0)))) ∧
  (∀ hd n5 s c,
     let n : Nat := BitVec.toNat (n5 : BitVec 5)
     let tm := s.team c.w.team
     c.E ≠ 0 →
     (RunsGathered hd (.claim hd n5) s c → (tget s.teams c.w.team).isSome →
       (c.w.blocks + n ≤ 32 → tm.claims = [] → n ≤ tm.reserve →
         ∃ t, exec (.claim hd n5) s = .next t ∧ t.team c.w.team = { tm with reserve := tm.reserve - n } ∧
           (t.wave c.id).blocks = c.w.blocks + n ∧ (t.wave c.id).blocked = .none ∧
           (∀ k l, l < 32 → (t.wave c.id).vget k l = if k < 8 * c.w.blocks then c.w.vget k l else 0) ∧
           (t.wave c.id).w = c.w.w ∧ (t.wave c.id).p = c.w.p ∧ (Stands c → Moves c (t.wave c.id) fun _ => c.pc + 12)) ∧
       (c.w.blocks + n ≤ 32 → tm.claims = [] → tm.reserve < n →
         ∃ t, exec (.claim hd n5) s = .next t ∧ t.team c.w.team = { tm with claims := [c.id] } ∧
           Waits c (t.wave c.id) (.claim n)) ∧
       (32 < c.w.blocks + n → exec (.claim hd n5) s = .next (trapCtx (s.setWave c.id c.w) c 11 n))) ∧
     (RunsGathered hd (.release hd n5) s c → (tget s.teams c.w.team).isSome →
       let b := c.w.blocks - n
       (c.w.blocks < n + 1 → exec (.release hd n5) s = .next (trapCtx (s.setWave c.id c.w) c 11 n)) ∧
       (∀ r, n + 1 ≤ c.w.blocks → (c.w.pend.find? fun r => r < 256 && 8 * b ≤ r) = some r →
         exec (.release hd n5) s = .next (trapCtx (s.setWave c.id c.w) c 6 r)) ∧
       (n + 1 ≤ c.w.blocks → (∀ r ∈ c.w.pend, r < 256 → r < 8 * b) →
         ∃ t, exec (.release hd n5) s = .next t ∧ (t.wave c.id).blocks = b ∧
           (∀ k l, l < 32 → (t.wave c.id).vget k l = if k < 8 * b then c.w.vget k l else 0) ∧
           (t.wave c.id).w = c.w.w ∧ (t.wave c.id).p = c.w.p ∧ Moves c (t.wave c.id) (fun _ => c.pc + 12) ∧
           (tm.claims = [] → t.team c.w.team = { tm with reserve := tm.reserve + n }))))

/-- The graph instructions send one operation for each enabled lane, in rising order, to the engine that owns its
vertex, with a token where the operation changes state, and are in flight until their results return; D, the predicate
and the cursor that they name are pending (R343 to R347, R350 to R355, R357, R359). -/
def Obligations.GraphInstructionsSendOperations : Prop :=
  ∀ hd pd d gs a b b3 pay dir byEnd sz off cur s c, c.E ≠ 0 →
    let gid : Nat := match gs with
      | .imm n => BitVec.toNat n
      | .w n => (c.w.wget (BitVec.toNat n)).toNat
    let num (l : Nat) (x : Src) : Nat := (rd32 s c.w l x).toNat
    let sends (i : Instr) (k gid : Nat) (cursor : List Nat) (tokens : Bool) (op : Nat → GOp) : Prop :=
      Runs hd i s c → MaySend s c c.E (lanesOf c.E).length (if tokens then (lanesOf c.E).length else 0) →
      ∃ t fl, exec i s = .next t ∧ Departs s t c hd fl ∧
        fl.left = c.E ∧ fl.dest = .graphRes ∧ fl.d = d ∧ fl.pd = pd ∧ fl.cur = cursor.head? ∧
        fl.regs = (useReg k d).regs ++ (if pd = 7 then [] else [384 + BitVec.toNat pd]) ++ cursor.map (392 + ·) ∧
        Sends s t c (s.nextId + 1) ((lanesOf c.E).map fun l =>
          laneReq s c (.graph gid (op l)) l s.nextId 0 0 0 (opHome s (s.partNo c.w) gid ((op l).vertex c.w l)) 0 0) tokens
    let n5 : Nat := BitVec.toNat (off : BitVec 5)
    let cn : Nat := BitVec.toNat (cur : BitVec 2)
    sends (.gnewv hd pd d gs a) 2 gid [] true (fun l => .newv (num l a)) ∧
    sends (.gfreev hd pd d gs a) 1 gid [] true (fun l => .freev (num l a)) ∧
    sends (.gadd hd pd d gs a b pay) 2 gid [] true (fun l => .add (num l a) (num l b) (pay.map (rd64 s c.w l))) ∧
    sends (.gdel hd pd d gs a b dir byEnd) 2 gid [] true (fun l => .del (num l a) (num l b) dir byEnd) ∧
    sends (.gswap hd pd d gs a b b3 dir) 2 gid [] true (fun l => .swap (num l a) (num l b) (num l b3) dir false) ∧
    sends (.gswapShared hd pd d gs a b b3 dir) 2 gid [] true (fun l => .swap (num l a) (num l b) (num l b3) dir true) ∧
    sends (.glde hd pd d gs a b dir) 4 gid [] false (fun l => .lde (num l a) (num l b) dir) ∧
    sends (.gdeg hd pd d gs a dir) 2 gid [] false (fun l => .deg (num l a) dir) ∧
    sends (.gldv hd pd d gs a sz off) (if sz then 8 else 4) gid [] false (fun l => .ldv (num l a) sz n5) ∧
    sends (.gstv hd pd d gs a b sz off) 1 gid [] true (fun l =>
      .stv (num l a) sz n5 (if sz then rdQuad s c.w l b else (rd64 s c.w l b).setWidth 128)) ∧
    sends (.gopen hd pd d gs a dir cur) 2 gid [cn] true (fun l => .opn (num l a) dir cn) ∧
    sends (.gnext hd pd d cur) 4 0 [cn] false (fun _ => .next cn) ∧
    sends (.gseek hd pd d b cur) 4 0 [cn] false (fun l => .seek cn (num l b))

/-- A mutation performed by its engines: its timestamp T exceeds the rts of all that it changes and is no less than
the lane's pts, both timestamps of what it changed become T, and the lists by rank are as the rules say: GADD appends
at both ends, GDEL takes its rank out, GSWAP puts the new end at the same rank; GNEWV gives the lowest free number
from its hint on, GFREEV frees a vertex without edges, GSTV writes the payload. A list of the greatest degree answers FULL,
and a vertex that is free or out of range NO_VERTEX, which moves no vertex (R76 to R87, R350 to R354, R483). -/
def Obligations.EnginesMutateGraphs : Prop :=
  ∀ s id r gid op g, tget s.reqs id = some r → r.kind = .graph gid op → r.held = none → earlierReq s id r = false →
    offlineOwners s r gid op = [] → tget (s.part r.part).graphs gid = some g → gid ≠ 0 →
    (∀ tok, r.token = some tok → tget s.toks tok = none) →
    let pts := max (s.core r.core).pts r.low
    let lst (v : Nat) (d : Dir) : EList := g.list v d
    let ends (g : Graph) (v : Nat) (d : Dir) : List Nat := ((g.list v d).now).map (·.other)
    let stamped (g : Graph) (v : Nat) (d : Dir) (T : Nat) : Prop := (g.list v d).wts = T ∧ (g.list v d).rts = T
    let answers (ws : List Word) (T : Nat) (f : Graph → Prop) : Prop :=
      ∃ t rep gg, exec (.lathMutation id) s = .next t ∧ tget t.reqs id = none ∧ tget t.reps id = some rep ∧
        rep.req = r ∧ rep.words = ws ∧ rep.t = T ∧ tget (t.part r.part).graphs gid = some gg ∧ f gg ∧
        (∀ a, memGet t.mem a = memGet s.mem a) ∧ t.waves = s.waves
    let ok (v : Nat) : Prop := v < g.vcap ∧ (g.vtx v).alloc = true
    let full (v : Nat) : Nat := max (max pts (max (g.arts + 1) ((g.vtx v).prts + 1))) (max ((lst v .out).rts + 1) ((lst v .inn).rts + 1))
    g.t ≤ pts → (∀ v d, (lst v d).wts ≤ s.ceil) → pts ≤ s.ceil →
    (∀ h v, op = .newv h → h ≤ v → v < g.vcap → (g.vtx v).alloc = false →
      (∀ k, h ≤ k → k < v → (g.vtx k).alloc = true) → full v ≤ s.ceil →
      answers [0, BitVec.ofNat 32 v] (full v) fun gg => (gg.vtx v).alloc = true ∧ gg.awts = full v ∧ gg.arts = full v ∧
        stamped gg v .out (full v) ∧ stamped gg v .inn (full v) ∧ (∀ o, ((gg.vtx v).rdPay o 1) = [0]) ∧
        ∀ k, k ≠ v → gg.vtx k = g.vtx k) ∧
    (∀ v, op = .freev v → ok v → (lst v .out).degree = 0 → (lst v .inn).degree = 0 → full v ≤ s.ceil →
      answers [0] (full v) fun gg => (gg.vtx v).alloc = false ∧ stamped gg v .out (full v) ∧ stamped gg v .inn (full v) ∧
        ∀ k, k ≠ v → gg.vtx k = g.vtx k) ∧
    (∀ v, op = .freev v → ok v → 0 < (lst v .out).degree + (lst v .inn).degree →
      answers [6] (max (max pts (lst v .out).wts) (lst v .inn).wts) fun gg => (gg.vtx v).alloc = true ∧
        ∀ k d, ends gg k d = ends g k d) ∧
    (∀ u v pay, op = .add u v pay → ok u → ok v → (pay.isSome → g.eps = true) →
      let T := max pts (max ((lst u .out).rts + 1) ((lst v .inn).rts + 1))
      let done : Prop := answers [0, BitVec.ofNat 32 (lst u .out).degree] T fun gg => ends gg u .out = ends g u .out ++ [v] ∧
        ends gg v .inn = ends g v .inn ++ [u] ∧ stamped gg u .out T ∧ stamped gg v .inn T ∧
        ∀ k d, (k, d) ≠ (u, .out) → (k, d) ≠ (v, .inn) → ends gg k d = ends g k d
      let noRoom : Prop :=
        answers [3, 0] (max (max pts (lst u .out).wts) (lst v .inn).wts) fun gg => ∀ k d, ends gg k d = ends g k d
      let grows : Prop := (lst u .out).degree < 2 ^ 32 - 2 ∧ (lst v .inn).degree < 2 ^ 32 - 2
      T ≤ s.ceil → (∀ e ∈ (lst u .out).recs, e.key ≤ T) → (∀ e ∈ (lst v .inn).recs, e.key ≤ T) →
      (grows → g.used + 2 ≤ g.pages → twf g.verts = true → done) ∧ (¬ grows → noRoom) ∧ (done ∨ noRoom)) ∧
    (∀ v n d byEnd, op = .del v n d byEnd → ok v →
      let names (k : Nat) (e : Edge) : Prop := (lst v d).now[k]? = some e ∧
        if byEnd then e.other = n ∧ ∀ j x, j < k → (lst v d).now[j]? = some x → x.other ≠ n else k = n
      (∀ n e, names n e →
        let T := max pts (max ((lst v d).rts + 1) ((lst e.other (oppDir d)).rts + 1))
        T ≤ s.ceil → ((lst v d).recs.map (·.eid)).Nodup →
        answers [0, BitVec.ofNat 32 e.other] T fun gg => ends gg v d = (ends g v d).eraseIdx n ∧
          stamped gg v d T ∧ stamped gg e.other (oppDir d) T ∧
          ∀ k x, (k, x) ≠ (v, d) → (k, x) ≠ (e.other, oppDir d) → ends gg k x = ends g k x) ∧
      ((∀ n e, ¬ names n e) → answers [4, 0xFFFFFFFF] (max pts (lst v d).wts) fun gg => ∀ k x, ends gg k x = ends g k x)) ∧
    (∀ v n w d shared e, op = .swap v n w d shared → ok v → ok w → (lst v d).now[n]? = some e →
      let x := e.other
      let T := max (max pts ((lst v d).rts + 1)) (max ((lst x (oppDir d)).rts + 1) ((lst w (oppDir d)).rts + 1))
      T ≤ s.ceil → ((lst v d).recs.map (·.eid)).Nodup → (((lst v d).now).map (·.key)).Nodup →
      (shared = true → (lst x (oppDir d)).degree ≤ 1 →
        answers [5, BitVec.ofNat 32 x] (max (max pts (lst v d).wts) (lst x (oppDir d)).wts) fun gg =>
          ∀ k y, ends gg k y = ends g k y) ∧
      let done : Prop := answers [0, BitVec.ofNat 32 x] T fun gg => ends gg v d = (ends g v d).set n w ∧ stamped gg v d T ∧
        stamped gg x (oppDir d) T ∧ stamped gg w (oppDir d) T
      let noRoom : Prop := ∃ T', answers [3, 0xFFFFFFFF] T' fun gg => ∀ k y, ends gg k y = ends g k y
      let grows : Prop := w = x ∨ (lst w (oppDir d)).degree < 2 ^ 32 - 2
      (shared = false ∨ 1 < (lst x (oppDir d)).degree →
        (grows → g.used + 2 ≤ g.pages → twf g.verts = true → done) ∧ (¬ grows → noRoom) ∧ (done ∨ noRoom))) ∧
    (∀ v ws, ¬ ok v → g.awts ≤ s.ceil →
      ((op = .freev v ∧ ws = [2]) ∨ (∃ n d byEnd, op = .del v n d byEnd ∧ ws = [2, 0xFFFFFFFF]) ∨
        (∃ n w d shared, (op = .swap v n w d shared ∨ (op = .swap w n v d shared ∧ ok w)) ∧ ws = [2, 0xFFFFFFFF]) ∨
        (∃ u pay, (pay.isSome → g.eps = true) ∧ (op = .add v u pay ∨ (op = .add u v pay ∧ ok u)) ∧ ws = [2, 0]) ∨
        (∃ off wide data, op = .stv v wide off data ∧ 8 * off + (if wide then 16 else 8) ≤ g.psize ∧ ws = [2])) →
      answers ws (if v < g.vcap then max pts g.awts else 0) fun gg => gg.verts = g.verts) ∧
    (∀ v off wide data, op = .stv v wide off data → ok v → 8 * off + (if wide then 16 else 8) ≤ g.psize →
      let T := max pts ((g.vtx v).prts + 1)
      T ≤ s.ceil →
      answers [0] T fun gg => (gg.vtx v).rdPay (8 * off) (if wide then 16 else 8) =
          natBytes data.toNat (if wide then 16 else 8) ∧ (gg.vtx v).pwts = T ∧ (gg.vtx v).prts = T ∧
        (∀ o, o < 8 * off ∨ 8 * off + (if wide then 16 else 8) ≤ o → (gg.vtx v).rdPay o 1 = (g.vtx v).rdPay o 1) ∧
        ∀ k, k ≠ v → gg.vtx k = g.vtx k)

/-- A read performed by its engine moves no list: GLDE and GDEG answer at max(pts, wts) and raise the list's rts, GLDV
the payload's; GOPEN registers its snapshot, max(pts, horizon), and counts the edges live then, unless its vertex is out of
range or the snapshot table full; GNEXT and GSEEK read at the snapshot and move no timestamp (R80, R88 to R90, R351, R355,
R357). A vertex that is free or out of range answers NO_VERTEX, an absent graph NO_GRAPH (R87, R349, R483). -/
def Obligations.EnginesReadGraphs : Prop :=
  ∀ s id r gid op, tget s.reqs id = some r → r.kind = .graph gid op → r.held = none → earlierReq s id r = false →
    offlineOwners s r gid op = [] → (∀ tok, r.token = some tok → tget s.toks tok = none) →
    let pts := max (s.core r.core).pts r.low
    let answers (ws : List Word) (T : Nat) (f : State → Prop) : Prop :=
      ∃ t rep, exec (.lathRead id) s = .next t ∧ tget t.reqs id = none ∧ tget t.reps id = some rep ∧ rep.req = r ∧
        rep.words = ws ∧ rep.t = T ∧ (∀ a, memGet t.mem a = memGet s.mem a) ∧ f t
    (∀ g, tget (s.part r.part).graphs gid = some g → gid ≠ 0 → g.t ≤ pts → pts ≤ s.ceil → (∀ v d, (g.list v d).wts ≤ s.ceil) →
      let after (t : State) (f : Graph → Prop) : Prop := ∃ gg, tget (t.part r.part).graphs gid = some gg ∧ f gg
      (∀ v n d, op = .lde v n d → v < g.vcap → (g.vtx v).alloc = true →
        let T := max pts (g.list v d).wts
        answers (match (g.list v d).now[n]? with
            | some e => [0, BitVec.ofNat 32 e.other, e.pay.setWidth 32, (e.pay >>> 32).setWidth 32]
            | none => [4, 0xFFFFFFFF, 0, 0]) T fun t =>
          after t fun gg => gg.list v d = { g.list v d with rts := max (g.list v d).rts T }) ∧
      (∀ v d, op = .deg v d → v < g.vcap → (g.vtx v).alloc = true →
        let T := max pts (g.list v d).wts
        answers [0, BitVec.ofNat 32 (g.list v d).degree] T fun t =>
          after t fun gg => gg.list v d = { g.list v d with rts := max (g.list v d).rts T }) ∧
      (∀ v off wide, op = .ldv v wide off → v < g.vcap → (g.vtx v).alloc = true →
        8 * off + (if wide then 16 else 8) ≤ g.psize → (g.vtx v).pwts ≤ s.ceil →
        answers ((if wide then [0, 0, 0, 0] else [0, 0]) ++ bytesWords ((g.vtx v).rdPay (8 * off) (if wide then 16 else 8)))
          (max pts (g.vtx v).pwts) fun t => after t fun gg =>
            gg.vtx v = { g.vtx v with prts := max (g.vtx v).prts (max pts (g.vtx v).pwts) }) ∧
      (∀ v d cur, op = .opn v d cur → v < g.vcap → (tget s.waves r.wave).isSome →
        (s.part r.part).snaps.length < 16384 →
        let snap := max pts g.h
        let live := (g.list v d).recs.filter fun e => decide (e.birth ≤ snap) && (match e.death with
          | none => true
          | some x => decide (snap < x))
        ∃ slot, answers [0, BitVec.ofNat 32 live.length, BitVec.ofNat 32 snap,
            BitVec.ofNat 32 (snap / 2 ^ 32), BitVec.ofNat 32 slot] snap fun t =>
          tget (t.wave r.wave).cur (4 * r.lane + cur) = none ∧
          ∃ e, tget (t.part r.part).snaps slot = some e ∧ e.gid = gid ∧ e.s = snap ∧
            (tget (s.wave r.wave).cur (4 * r.lane + cur) = none →
              e.count = (match (s.part r.part).snaps.find? fun x => x.2.gid == gid && x.2.s == snap with
                | some x => x.2.count + 1
                | none => 1))) ∧
      (∀ v d cur, op = .opn v d cur → tget (s.wave r.wave).cur (4 * r.lane + cur) = none →
        (g.vcap ≤ v → answers [2, 0] 0 fun t => t.parts = s.parts) ∧
        (v < g.vcap → snapAdd (s.part r.part).snaps gid (max pts g.h) = none → answers [10, 0] 0 fun t => t.parts = s.parts)) ∧
      (∀ v ws, (g.vcap ≤ v ∨ (g.vtx v).alloc = false) → g.awts ≤ s.ceil →
        ((∃ n d, op = .lde v n d ∧ ws = [2, 0xFFFFFFFF, 0, 0]) ∨ (∃ d, op = .deg v d ∧ ws = [2, 0]) ∨
          (∃ wide off, op = .ldv v wide off ∧ 8 * off + (if wide then 16 else 8) ≤ g.psize ∧
            ws = 2 :: List.replicate (if wide then 7 else 3) 0)) →
        answers ws (if v < g.vcap then max pts g.awts else 0) fun t => after t fun gg => gg.verts = g.verts)) ∧
    (∀ cur k g rank, ((op = .next cur ∧ rank = k.pos) ∨ op = .seek cur rank) →
      tget (s.wave r.wave).cur (4 * r.lane + cur) = some k → tget (s.part r.part).graphs k.gid = some g →
      answers (if k.sdeg ≤ rank then [4, 0xFFFFFFFF, 0, 0] else match ((g.list k.vtx k.dir).asOf k.snap)[rank]? with
          | some e => [0, BitVec.ofNat 32 e.other, e.pay.setWidth 32, (e.pay >>> 32).setWidth 32]
          | none => [4, 0xFFFFFFFF, 0, 0]) 0 fun t => t.parts = s.parts) ∧
    (∀ v d, op = .deg v d → tget (s.part r.part).graphs gid = none → answers [1, 0] 0 fun t => t.waves = s.waves)

/-- What graph instructions leave at their end. LATH_REPLY raises pts and writes a lane's group, predicate (status 0)
and cursor; GNEWG_COMPLETE writes every lane that has been answered and has not exited. GCLOSE unbinds the cursors of the
enabled lanes and answers each its rank, as a request with a token whose reply is on its way; GWAITLOW answers NO_GRAPH
where its graph is not live at the wave's time, or OK past the floor, and waits otherwise. RECLAMATION raises the horizon
to no more than the floor and drops one list's records that died by then (R90, R93 to R95, R298, R346, R349, R357 to
R359). GNEWG, aligned, translated, with room and where no lane finds a copy that it may use, sends for each enabled lane an
ordinary load of its descriptor and behind it a request with a token. That request is performed once its descriptor is
there: a graph comes into being, at a timestamp above every read of its entry, only where the descriptor is valid, its gid
is free, or the lowest free one for GID = 0, and its region lies in pages fit for a graph that no other graph has; every
other descriptor is answered its status and makes no graph (R48, R73, R74, R349; log entry 63 for the timestamps of a
failing one). -/
def Obligations.GraphResultsReturn : Prop :=
  ((∀ s id rep f w n gid op, tget s.reps id = some rep → rep.req.kind = .graph gid op → op.isNewg = false → liveReq s rep.req = true →
     rep.req.agen = (s.die (coreDie rep.req.core)).gen →
     tget s.waves rep.req.wave = some w → tget s.flights rep.req.flight = some f → f.wave = rep.req.wave → f.d = .v n →
     rep.req.lane < 32 → w.live.getLsbD rep.req.lane = true →
     let l := rep.req.lane
     let ws := match op with
       | .opn .. => rep.words.take 2
       | _ => rep.words
     let left := f.left &&& ~~~((1 : LaneSet) <<< l)
     let status := rep.words.getD 0 1
     ∃ t v, exec (.lathReply id) s = .next t ∧ tget t.waves rep.req.wave = some v ∧ tget t.reps id = none ∧
       (t.core rep.req.core).pts = max (s.core rep.req.core).pts rep.t ∧
       (∀ k j, j < 32 → v.vget k j = if j = l ∧ BitVec.toNat n ≤ k ∧ k < BitVec.toNat n + ws.length
         then ws.getD (k - BitVec.toNat n) 0 else w.vget k j) ∧ v.w = w.w ∧
       (∀ p j, j < 32 → rep.words ≠ [] →
         v.pbit p j = if p = f.pd ∧ p ≠ 7 ∧ j = l then decide (status = 0) else w.pbit p j) ∧
       (∀ x d cur, op = .opn x d cur → status = 0 → 5 ≤ rep.words.length →
         ∃ k, tget v.cur (4 * l + cur) = some k ∧ k.vtx = x ∧ k.dir = d ∧ k.gid = gid ∧ k.pos = 0 ∧
           k.sdeg = (rep.words.getD 1 0).toNat ∧ k.slot = (rep.words.getD 4 0).toNat ∧
           k.snap = (rep.words.getD 3 0).toNat * 2 ^ 32 + (rep.words.getD 2 0).toNat) ∧
       (∀ cur, op = .next cur → status = 0 → tget v.cur (4 * l + cur) = (tget w.cur (4 * l + cur)).map fun k => { k with pos := k.pos + 1 }) ∧
       (∀ cur m, op = .seek cur m → status = 0 → tget v.cur (4 * l + cur) = (tget w.cur (4 * l + cur)).map fun k => { k with pos := m + 1 }) ∧
       (left = 0 → v.pend = w.pend.filter (fun k => !f.regs.contains k) ∧ tget t.flights rep.req.flight = none) ∧
       (left ≠ 0 → v.pend = w.pend)) ∧
   (∀ s seq f w n, tget s.flights seq = some f → f.dest = .desc → f.left = 0 → tget s.waves f.wave = some w → f.d = .v n →
     let mine := s.reps.filter fun e => e.2.req.flight == seq && accepted s e.2.req
     let at_ (j : Nat) : Option (Nat × Reply) := mine.find? fun e => e.2.req.lane == j
     mine ≠ [] → (mine.map fun e => e.2.req.lane).Nodup →
     (∀ e ∈ mine, e.2.req.wave = f.wave ∧ e.2.req.lane < 32 ∧ e.2.words.length = 2) →
     (∀ e ∈ s.reqs, e.2.flight = seq → liveReq s e.2 = false) →
     ∃ t v, exec (.gnewgComplete seq) s = .next t ∧ tget t.waves f.wave = some v ∧ tget t.flights seq = none ∧
       (∀ e ∈ mine, tget t.reps e.1 = none ∧ e.2.t ≤ (t.core e.2.req.core).pts) ∧
       (∀ k j, j < 32 → v.vget k j = match at_ j with
         | some e => if w.live.getLsbD j ∧ (k = BitVec.toNat n ∨ k = BitVec.toNat n + 1) then e.2.words.getD (k - BitVec.toNat n) 0
           else w.vget k j
         | none => w.vget k j) ∧
       (∀ p j, j < 32 → v.pbit p j = match at_ j with
         | some e => if p = f.pd ∧ p ≠ 7 ∧ w.live.getLsbD j then decide (e.2.words.getD 0 0 = 0) else w.pbit p j
         | none => w.pbit p j) ∧
       v.pend = w.pend.filter fun k => !f.regs.contains k) ∧
   (∀ hd pd d cur s c, Runs hd (.gclose hd pd d cur) s c →
     let cn : Nat := BitVec.toNat (cur : BitVec 2)
     (c.E = 0 → ∃ t, exec (.gclose hd pd d cur) s = .next t ∧ Goes s t c hd fun _ => c.pc + 12) ∧
     (c.E ≠ 0 → lanesBusy s c.id c.E = false → MaySend s c c.E (lanesOf c.E).length (lanesOf c.E).length →
       ∃ t fl, exec (.gclose hd pd d cur) s = .next t ∧ tget t.flights s.nextId = some fl ∧
         fl.wave = c.id ∧ fl.left = c.E ∧ fl.dest = .graphRes ∧ fl.d = d ∧ fl.pd = pd ∧ fl.cur = some cn ∧
         fl.regs = (useReg 2 d).regs ++ (if pd = 7 then [] else [384 + BitVec.toNat pd]) ++ [392 + cn] ∧
         (t.wave c.id).pend = fl.regs ++ c.w.pend ∧ Moves c (t.wave c.id) (fun _ => c.pc + 12) ∧
         (t.wave c.id).v = c.w.v ∧ (t.wave c.id).w = c.w.w ∧ (t.wave c.id).p = c.w.p ∧
         (∀ l, l < 32 → c.E.getLsbD l = true → tget (t.wave c.id).cur (4 * l + cn) = none ∧
           ∃ k rep tok, tget t.reps k = some rep ∧ rep.req.kind = .graph 0 (.close cn) ∧ rep.req.lane = l ∧
             rep.req.flight = s.nextId ∧ rep.t = 0 ∧ rep.req.token = some tok ∧ (tget t.toks tok).isSome ∧
             rep.words = match tget c.w.cur (4 * l + cn) with
               | some x => [0, BitVec.ofNat 32 x.pos]
               | none => [4, 0xFFFFFFFF]) ∧
         (∀ a, memGet t.mem a = memGet s.mem a))) ∧
   (∀ hd pd d gs a s c, Runs hd (.gwaitlow hd pd d gs a) s c → c.E ≠ 0 →
     let gid : Nat := match gs with
       | .imm n => BitVec.toNat n
       | .w n => (c.w.wget (BitVec.toNat n)).toNat
     let p := s.partOf c.w
     let pts : Nat := (lanesOf c.E).foldl (fun m l => max m (lanePts s c.w.core c.id l)) 0
     let there : Prop := ∃ g, tget p.graphs gid = some g ∧ g.t ≤ pts
     let flies (t : State) (vals : List Word) : Prop := ∃ fl, tget t.flights s.nextId = some fl ∧
       (∀ k, k ≠ s.nextId → tget t.flights k = tget s.flights k) ∧ fl.wave = c.id ∧ fl.dest = .kept 1 ∧ fl.d = d ∧ fl.pd = pd ∧
       fl.left = c.E ∧ fl.first = firstLane c.E ∧ fl.vals = vals ∧
       fl.regs = (useReg 1 d).regs ++ (if pd = 7 then [] else [384 + BitVec.toNat pd]) ∧
       (t.wave c.id).pend = fl.regs ++ c.w.pend
     let only (t : State) : Prop := t = { s with
       waves := tput s.waves c.id (t.wave c.id), flights := t.flights, nextId := t.nextId, parts := t.parts }
     let answers (st : Word) (P : State → Prop) : Prop := ∃ t, exec (.gwaitlow hd pd d gs a) s = .next t ∧ only t ∧
       Passes c (t.wave c.id) ∧ flies t (List.replicate 32 st) ∧ P t
     (¬ there → answers 1 fun t => ∀ q, (t.part q).graphs = (s.part q).graphs ∧ (t.part q).snaps = (s.part q).snaps) ∧
     (there →
       ((∀ e ∈ p.snaps, e.2.gid = gid → ∀ l, l < 32 → c.E.getLsbD l = true → (rd64 s c.w l a).toNat < e.2.s) →
         answers 0 fun t => t.parts = s.parts) ∧
       ((∃ e ∈ p.snaps, e.2.gid = gid ∧ ∃ l, l < 32 ∧ c.E.getLsbD l = true ∧ e.2.s ≤ (rd64 s c.w l a).toNat) →
         ∃ t T, exec (.gwaitlow hd pd d gs a) s = .next t ∧ only t ∧ t.parts = s.parts ∧ flies t [] ∧
           Waits c { t.wave c.id with pend := c.w.pend, sb := c.w.sb } (.gwaitlow gid T s.nextId) ∧
           ∀ l, l < 32 → c.E.getLsbD l = true → (rd64 s c.w l a).toNat ≤ T))) ∧
   (∀ s part gid v dir g, tget (s.part part).graphs gid = some g → (tget g.verts v).isSome →
     ∃ t gg, exec (.reclamation part gid v dir) s = .next t ∧ tget (t.part part).graphs gid = some gg ∧ g.h ≤ gg.h ∧
       gg.h ≤ max g.h g.maxT ∧ (∀ e ∈ (s.part part).snaps, e.2.gid = gid → gg.h ≤ max g.h e.2.s) ∧
       (gg.list v dir).recs = (g.list v dir).recs.filter (fun e => match e.death with
         | none => true
         | some x => decide (gg.h < x)) ∧
       ∀ k d, (k, d) ≠ (v, dir) → gg.list k d = g.list k d)) ∧
  (∀ hd pd d a s c xs s1, Runs hd (.gnewg hd pd d a) s c → c.E ≠ 0 →
     let eas : List (Nat × Nat) := (lanesOf c.E).map fun l => (l, (rd64 s c.w l a).toNat)
     let as : List LaneAcc := laneAccs eas xs
     let n : Nat := eas.length
     let copy (x : LaneAcc) : Option L1Line := tget (s.core c.w.core).l1 (x.pa / 128)
     (∀ l, l < 32 → c.E.getLsbD l = true → (rd64 s c.w l a).toNat % 32 = 0) →
     Translates s c (eas.map fun e => (e.2, .read)) xs s1 → MaySend s c c.E (2 * n) n →
     (∀ x ∈ as, laneBusy s c.id x.lane = true ∨ 1024 ≤ homeOf x.pa x.e.ms ∨
       ∀ cp, copy x = some cp → cp.rts < (s.core c.w.core).pts) →
     ∃ t fl, exec (.gnewg hd pd d a) s = .next t ∧ Departs s t c hd fl ∧ fl.left = c.E ∧ fl.dest = .desc ∧ fl.d = d ∧
       fl.pd = pd ∧ fl.regs = (useReg 2 d).regs ++ (if pd = 7 then [] else [384 + BitVec.toNat pd]) ∧
       fl.vals = List.replicate 256 0 ∧ t.reps = s.reps ∧ t.parts = s.parts ∧
       ∀ k x, as[k]? = some x →
         tget t.reqs (s.nextId + 1 + k) = some (laneReq s c (.read ((copy x).map (·.wts))) x.lane s.nextId x.pa x.va 32
           (homeOf x.pa x.e.ms) 0 0) ∧
         tget t.reqs (s.nextId + 1 + n + k) = some { laneReq s c (.graph 0 (.newg (s.gridOf c.w).pasid)) x.lane s.nextId 0 0 0 800 0 0 with
           token := some (tokenOf s c k) }) ∧
  (∀ s id r pasid f, tget s.reqs id = some r → r.kind = .graph 0 (.newg pasid) → r.held = none → earlierReq s id r = false →
     offlineOwners s r 0 (.newg pasid) = [] → (∀ tok, r.token = some tok → tget s.toks tok = none) →
     tget s.flights r.flight = some f → f.left.getLsbD r.lane = false →
     let p := s.part r.part
     let pts := max (s.core r.core).pts r.low
     let x := descOfLane f r.lane
     let want : Nat := x / 2 ^ 176 % 2 ^ 16
     let base := x % 2 ^ 64
     let size := x / 2 ^ 64 % 2 ^ 64
     let answers (status got : Word) (T : Nat) (P : State → Prop) : Prop :=
       ∃ t rep, exec (.lathMutation id) s = .next t ∧ tget t.reqs id = none ∧ tget t.reps id = some rep ∧ rep.req = r ∧
         rep.words = [status, got] ∧ rep.t = T ∧ t.waves = s.waves ∧ P t
     let same (t : State) : Prop := ∀ q, (t.part q).graphs = (s.part q).graphs
     (badDesc x = true → answers 8 0 0 same) ∧
     (∀ g, badDesc x = false → want ≠ 0 → tget p.graphs want = some g → max pts g.t ≤ s.ceil → answers 7 0 (max pts g.t) same) ∧
     (∀ gid, badDesc x = false → 0 < gid → gid < 2 ^ 16 → tget p.graphs gid = none →
       (want = gid ∨ (want = 0 ∧ ∀ k, 0 < k → k < gid → (tget p.graphs k).isSome)) →
       (∀ u, regionSegs r.part pasid base (size / 65536) 0 [] s = (u, none) → pts ≤ s.ceil → answers 9 0 pts same) ∧
       (∀ u segs, regionSegs r.part pasid base (size / 65536) 0 [] s = (u, some segs) →
         ((∃ g ∈ p.graphs, segsMeet g.2.segs segs = true) → pts ≤ s.ceil → answers 9 0 pts same) ∧
         ((∀ g ∈ p.graphs, segsMeet g.2.segs segs = false) → (tget s.parts r.part).isSome →
           let T := max pts ((tget p.gtab gid).getD 0 + 1)
           T ≤ s.ceil → answers 0 (BitVec.ofNat 32 gid) T fun t => ∃ g, tget (t.part r.part).graphs gid = some g ∧
             g = { vcap := x / 2 ^ 128 % 2 ^ 32, psize := g.psize, eps := x.testBit 171, base := base, size := size,
                   pasid := pasid, segs := segs, t := T, awts := 0, arts := 0, h := 0, maxT := 0, verts := [] } ∧
             g.psize = (if x / 2 ^ 168 % 8 = 0 then 0 else 8 * 2 ^ (x / 2 ^ 168 % 8 - 1)) ∧
             ∀ k, k ≠ gid → tget (t.part r.part).graphs k = tget p.graphs k))))

/-- While a Hod holds fewer than 64 operations, CPY of a complete gathering whose checks hold joins the operation that
another wave of its group has begun with the same configuration, or begins one, for which every other wave of the group
is expected; when none is, the operation starts, divided into parts of sixteen bytes, and one without a segment is
complete there. It counts in the wave's copy class, and the beginner fills the handle (R201 to R204, R208, R361 to
R363). GGATH whose checks hold takes a snapshot of its graph and registers it, and leaves one rank for each enabled lane
to resolve; a full snapshot table completes it at once with status 10, and a graph that is not live gives every lane
status 1 and what a failing lane writes (R92, R205, R206, R365, R366). -/
def Obligations.CopiesAndGathersBegin : Prop :=
  (∀ hd a b len8 hnd hen rcnt dir grp s c, RunsGathered hd (.cpy hd a b len8 hnd hen rcnt dir grp) s c →
     let L : Nat := 16 * (BitVec.toNat (len8 : BitVec 8) + 1)
     let srcGlob : Prop := dir = .g2l ∨ dir = .g2g
     let dstGlob : Prop := dir = .l2g ∨ dir = .g2g
     let h : Option Nat := if hen then some (BitVec.toNat (hnd : BitVec 6)) else none
     let R : Nat := BitVec.toNat (rcnt : BitVec 5) + 1
     let src (l : Nat) : Nat := if dir = .g2l ∨ dir = .g2g then (rd64 s c.w l a).toNat else (rd32 s c.w l a).toNat
     let dst (l : Nat) : Nat := if dir = .l2g ∨ dir = .g2g then (rd64 s c.w l b).toNat else (rd32 s c.w l b).toNat
     let segs : List Seg := (lanesOf c.E).map fun l => { wave := c.id, lane := l, src := src l, dst := dst l }
     let size : Nat := 256 * (s.gridOf c.w).loc
     (∀ n, h = some n → n < (s.gridOf c.w).handles) →
     (∀ l, l < 32 → c.E.getLsbD l = true → src l % 16 = 0 ∧ dst l % 16 = 0 ∧ (¬ srcGlob → src l + L ≤ size) ∧
       (¬ dstGlob → dst l + L ≤ size)) →
     lanesBusy s c.id c.E = false → peerBusy s c.id c.E = false → classCount c.w .copy < 63 → (tget s.teams c.w.team).isSome →
     (s.hops.filter fun o => o.2.cluster == c.w.core / 4 && (s.team o.2.team).life != .saved).length < 64 →
     let counted (t : State) (op : Nat) : Prop := ∃ tc,
         (t.wave c.id).ops = c.w.ops ++
           [{ id := op, cls := .copy, touch := tc, done := false, t := 0, pc := c.pc, lanes := c.path, names := [] }] ∧ tc.grph = false ∧ (tc.loc = true ↔ ¬ (srcGlob ∧ dstGlob)) ∧
         (tc.glob = true ↔ srcGlob ∨ dstGlob)
     let kept (t : State) : Prop := (t.wave c.id).v = c.w.v ∧ (t.wave c.id).w = c.w.w ∧ (t.wave c.id).p = c.w.p ∧
       Moves c (t.wave c.id) (fun _ => c.pc + 12) ∧ (∀ x, memGet t.mem x = memGet s.mem x) ∧ t.gangs = s.gangs
     let still (t : State) : Prop := kept t ∧ ∀ k, k ≠ c.id → tget t.waves k = tget s.waves k
     let others : List Nat := (match grp with
       | .wave => [c.id]
       | .stage => (s.teamWaves c.w.team).filter fun k => (s.wave k).stage == c.w.stage
       | .team => s.teamWaves c.w.team).filter (· != c.id)
     let ended (t : State) (op : Nat) : Prop := tget t.hops op = none ∧
       (∀ x ∈ (t.wave c.id).ops, x.id = op → x.done = true) ∧ kept t ∧
       ∀ n, h = some n → ∃ x, tget (t.team c.w.team).handles n = some x ∧ x.st = .full ∧ x.status = 0
     let starts (o : HodOp) : Prop := (o.started = true ↔ o.expect = []) ∧ (o.expect = [] →
       o.parts.map (·.2) = o.segs.flatMap fun x => (List.range (L / 16)).map fun i =>
         { wave := x.wave, lane := x.lane, src := some (x.src + 16 * i), dst := x.dst + 16 * i,
           srcLoc := decide (¬ (dir = .g2l ∨ dir = .g2g)), dstLoc := decide (¬ (dir = .l2g ∨ dir = .g2g)), bytes := [],
           waits := none })
     (joinOp s c.id c.w grp = none → (∀ n, h = some n → (handleOf (s.teamOf c.w) n).st = .free) →
       (others = [] → segs = [] → ∃ t, exec (.cpy hd a b len8 hnd hen rcnt dir grp) s = .next t ∧ ended t s.nextId) ∧
       (others ≠ [] ∨ segs ≠ [] → ∃ t o, exec (.cpy hd a b len8 hnd hen rcnt dir grp) s = .next t ∧ tget t.hops s.nextId = some o ∧
         o.cluster = c.w.core / 4 ∧ o.team = c.w.team ∧ o.grp = grp ∧ o.dir = dir ∧ o.len = L ∧ o.handle = h ∧ o.segs = segs ∧
         o.expect = others ∧ starts o ∧ counted t s.nextId ∧ still t ∧
         ∀ n, h = some n → ∃ x, tget (t.team c.w.team).handles n = some x ∧ x.st = .filling ∧ x.readers = R ∧ x.op = s.nextId)) ∧
     (∀ i o, joinOp s c.id c.w grp = some (i, o) → o.dir = dir → o.len = L → o.handle = h → (h.isSome → o.readers = R) →
       o.started = false →
       (o.expect.filter (· != c.id) = [] → o.segs ++ segs = [] →
         ∃ t, exec (.cpy hd a b len8 hnd hen rcnt dir grp) s = .next t ∧ ended t i) ∧
       (o.expect.filter (· != c.id) ≠ [] ∨ o.segs ++ segs ≠ [] → ∃ t o', exec (.cpy hd a b len8 hnd hen rcnt dir grp) s = .next t ∧ tget t.hops i = some o' ∧
         o'.segs = o.segs ++ segs ∧ o'.expect = o.expect.filter (· != c.id) ∧ o'.team = o.team ∧ o'.handle = h ∧
         starts o' ∧ counted t i ∧ still t))) ∧
  (∀ hd d gs a b cc mode loc dir s c, Runs hd (.ggath hd d gs a b cc mode loc dir) s c → c.E ≠ 0 →
     let pw : Nat := (c.w.wget (BitVec.toNat d)).toNat
     let len : Nat := 16 * (pw / 2 ^ 24 % 256 + 1)
     let h : Option Nat := if pw.testBit 18 then some (pw / 2 ^ 12 % 64) else none
     let dst (l : Nat) : Nat := if loc then (rd32 s c.w l cc).toNat else (rd64 s c.w l cc).toNat
     let part := s.partNo c.w
     let gid : Nat := match gs with
       | .imm n => BitVec.toNat n
       | .w n => (c.w.wget (BitVec.toNat n)).toNat
     let psize : Nat := match tget (s.part part).graphs gid with
       | some g => g.psize
       | none => 0
     let bytes : Nat := match mode with
       | .edge => 16
       | .vpay => psize
       | .block => len
     (∀ n, h = some n → n < (s.gridOf c.w).handles ∧ (handleOf (s.teamOf c.w) n).st = .free) →
     (∀ l, l < 32 → c.E.getLsbD l = true → dst l % 16 = 0 ∧ (loc = true → dst l + bytes ≤ 256 * (s.gridOf c.w).loc)) →
     lanesBusy s c.id c.E = false → peerBusy s c.id c.E = false → classCount c.w .gather < 63 →
     (s.hops.filter fun o => o.2.cluster == c.w.core / 4 && (s.team o.2.team).life != .saved).length < 64 →
     (tget s.teams c.w.team).isSome →
     let T : Nat := (lanesOf c.E).foldl (fun m l => max m (lanePts s c.w.core c.id l)) (s.core c.w.core).pts
     let kept (t : State) : Prop := (t.wave c.id).v = c.w.v ∧ (t.wave c.id).w = c.w.w ∧ (t.wave c.id).p = c.w.p ∧
       Moves c (t.wave c.id) (fun _ => c.pc + 12) ∧ (∀ x, memGet t.mem x = memGet s.mem x)
     let ended (status : Nat) : Prop := ∃ t, exec (.ggath hd d gs a b cc mode loc dir) s = .next t ∧ kept t ∧
       tget t.hops s.nextId = none ∧ (∀ x ∈ (t.wave c.id).ops, x.id = s.nextId → x.done = true) ∧
       ∀ n, h = some n → ∃ x, tget (t.team c.w.team).handles n = some x ∧ x.st = .full ∧ x.status = status
     let begins (f : State → HodOp → GatherSt → Prop) : Prop :=
       ∃ t o k, exec (.ggath hd d gs a b cc mode loc dir) s = .next t ∧ tget t.hops s.nextId = some o ∧ o.gather = some k ∧
         o.team = c.w.team ∧ o.cluster = c.w.core / 4 ∧ o.handle = h ∧ o.len = len ∧ o.started = true ∧ o.expect = [] ∧
         k.wave = c.id ∧ k.gid = gid ∧ k.dir = dir ∧ k.mode = mode ∧ k.loc = loc ∧ f t o k ∧
         (∃ tc, (t.wave c.id).ops = c.w.ops ++
             [{ id := s.nextId, cls := .gather, touch := tc, done := false, t := 0, pc := c.pc, lanes := c.path, names := [] }] ∧
           tc.grph = true ∧ tc.loc = loc ∧ (tc.glob = true ↔ loc = false ∨ mode = .block)) ∧
         (∀ n, h = some n → ∃ x, tget (t.team c.w.team).handles n = some x ∧ x.st = .filling ∧
           x.readers = pw / 2 ^ 7 % 32 + 1 ∧ x.op = s.nextId) ∧ kept t
     (∀ g, tget (s.part part).graphs gid = some g → g.t ≤ max T g.h → (tget s.parts part).isSome →
       (∀ slot snaps, snapAdd (s.part part).snaps gid (max T g.h) = some (slot, snaps) →
         begins fun t o k => k.snap = max T g.h ∧ o.pts = k.snap ∧ k.slot = slot ∧
           k.todo = ((lanesOf c.E).map fun l =>
             { lane := l, waits := none, u := (rd32 s c.w l a).toNat, n := (rd32 s c.w l b).toNat, dst := dst l }) ∧ k.fails = [] ∧
           ∃ e, tget (t.part part).snaps slot = some e ∧ e.gid = gid ∧ e.s = k.snap) ∧
       (snapAdd (s.part part).snaps gid (max T g.h) = none → ended 10)) ∧
     (tget (s.part part).graphs gid = none ∨ (∃ g, tget (s.part part).graphs gid = some g ∧ max T g.h < g.t) →
       (mode = .vpay → ended 1) ∧
       (mode ≠ .vpay → begins fun _ o k => k.todo = [] ∧ k.fails = (lanesOf c.E).map (fun l => (l, 1)) ∧
         o.parts.map (·.2) = (lanesOf c.E).flatMap fun l =>
           let bs : List Byte := if mode = .edge then natBytes 0xFFFFFFFF 16 else natBytes 0 len
           (List.range ((bs.length + 15) / 16)).map fun i =>
             { wave := c.id, lane := l, src := none, dst := dst l + 16 * i, srcLoc := false, dstLoc := loc,
               bytes := (bs.drop (16 * i)).take 16, waits := none })))

/-- The work of an engine. A part moves its sixteen bytes from global or local memory, or from a gather's record, to its
destination, at one timestamp each, and no other byte changes; a rank of a gather gives the edge as it was at the
snapshot, or the payload or the block that its mode reads at the edge's end, or its failure; and an operation with
nothing left is complete: its handle is full with its status and timestamp, waits on it end, and it is done in every
wave that counts it (R41, R89, R153, R204 to R209, R364, R366). -/
def Obligations.EnginesPerformTheirOperations : Prop :=
  (∀ s op o idx p bs, tget s.hops op = some o → tget o.parts idx = some p → p.waits = none → o.started = true →
    (s.team o.team).life = .resident → (s.team o.team).stopped = false →
    let gang := (s.team o.team).gang
    bs.length = 16 →
    ((p.src = none ∧ bs = p.bytes) ∨
      (∃ a, p.src = some a ∧ p.srcLoc = true ∧ (s.gang gang).badAt a 16 = false ∧ bs = (List.range 16).map fun j => (s.gang gang).locByte (a + j)) ∨
      (∃ a pa e ln s1, p.src = some a ∧ p.srcLoc = false ∧ p.dstLoc = true ∧ hodXlat s op idx o a .read = (s1, .ok pa e) ∧
        homeOf pa e.ms < 1024 ∧ homeOffline s (homeOf pa e.ms) = false ∧ e.gb = false ∧ poisoned s pa 16 = false ∧
        tget s.lines (lineKey (homeOf pa e.ms) pa) = some ln ∧ ln.use = 0 ∧
        max (max o.pts ln.wts) ln.rts + (s.part e.part).regs.lease ≤ s.ceil ∧
        bs = (List.range 16).map fun j => memGet s.mem (pa + j))) →
    (p.dstLoc = true →
      ∃ t o', exec (.hodPart op idx) s = .next t ∧ tget t.hops op = some o' ∧ o' = { o with parts := tdel o.parts idx, t := o'.t } ∧
        o.t ≤ o'.t ∧ (s.gang gang).ltOf (p.dst / 256) ≤ o'.t ∧ (∀ a, memGet t.mem a = memGet s.mem a) ∧ t.waves = s.waves ∧
        ∀ x, (t.gang gang).locByte x = if p.dst ≤ x ∧ x < p.dst + 16 then bs.getD (x - p.dst) 0 else (s.gang gang).locByte x) ∧
    (∀ pa e s1, p.dstLoc = false → hodXlat s op idx o p.dst .write = (s1, .ok pa e) → homeOf pa e.ms < 1024 →
      homeOffline s (homeOf pa e.ms) = false → writeWaits s (homeOf pa e.ms) pa = false → deadTier s pa = false →
      let l : Line := (tget s.lines (lineKey (homeOf pa e.ms) pa)).getD
        { Line.fresh with wts := (s.home (homeOf pa e.ms)).rw, rts := (s.home (homeOf pa e.ms)).rd }
      max o.pts (l.rts + 1) ≤ s.ceil →
      ∃ t o', exec (.hodPart op idx) s = .next t ∧ tget t.hops op = some o' ∧ o' = { o with parts := tdel o.parts idx, t := o'.t } ∧
        max o.t (max o.pts (l.rts + 1)) ≤ o'.t ∧ t.waves = s.waves ∧
        (∀ x, (t.gang gang).locByte x = (s.gang gang).locByte x) ∧
        ∀ a, memGet t.mem a = if pa ≤ a ∧ a < pa + 16 then bs.getD (a - pa) 0 else memGet s.mem a)) ∧
  (∀ s op o k l ln g, tget s.hops op = some o → o.gather = some k → o.started = true → (s.team o.team).life = .resident →
    (s.team o.team).stopped = false → (k.todo.find? fun x => x.lane == ln && x.waits.isNone) = some l →
    let part := (s.gang (s.team o.team).gang).part
    tget (s.part part).graphs k.gid = some g → (∀ x ∈ rankOwners g k l, homeOffline s x.1 = false) → k.snap ≤ s.ceil → (∀ v, (g.vtx v).pwts ≤ s.ceil) →
    let resolves (ps : List HPart) (fails : List (Nat × Nat)) : Prop := ∃ t o' k', exec (.gatherRankResolve op ln) s = .next t ∧
      tget t.hops op = some o' ∧ o'.gather = some k' ∧ k'.todo = k.todo.filter (fun x => x.lane != ln) ∧
      k'.fails = k.fails ++ fails ∧ o'.parts.map (·.2) = o.parts.map (·.2) ++ ps ∧ k.snap ≤ o'.t ∧ o.t ≤ o'.t ∧
      (∀ a, memGet t.mem a = memGet s.mem a)
    let parts (bs : List Byte) : List HPart := (List.range ((bs.length + 15) / 16)).map fun i =>
      { wave := k.wave, lane := l.lane, src := none, dst := l.dst + 16 * i, srcLoc := false, dstLoc := k.loc,
        bytes := (bs.drop (16 * i)).take 16, waits := none }
    (∀ e, ((g.list l.u k.dir).asOf k.snap)[l.n]? = some e →
      (k.mode = .edge → resolves (parts (natBytes e.other 4 ++ natBytes e.flags.toNat 4 ++ natBytes e.pay.toNat 8)) []) ∧
      (k.mode = .vpay → g.psize ≠ 0 → resolves (parts ((g.vtx e.other).rdPay 0 g.psize)) []) ∧
      (k.mode = .block → k.off + 8 ≤ g.psize →
        let A := bytesNat ((g.vtx e.other).rdPay k.off 8)
        (A % 16 = 0 → resolves ((List.range (o.len / 16)).map fun i =>
          { wave := k.wave, lane := l.lane, src := some (A + 16 * i), dst := l.dst + 16 * i, srcLoc := false, dstLoc := k.loc,
            bytes := [], waits := none }) []) ∧
        (A % 16 ≠ 0 → resolves (parts (natBytes 0 o.len)) [(ln, 8)])) ∧
      (k.mode = .vpay → g.psize = 0 → resolves [] []) ∧
      (k.mode = .block → g.psize < k.off + 8 → resolves (parts (natBytes 0 o.len)) [(ln, 8)])) ∧
    (((g.list l.u k.dir).asOf k.snap)[l.n]? = none →
      let st : Nat := if (g.vtx l.u).allocAt k.snap then 4 else 2
      (k.mode = .edge → resolves (parts (natBytes 0xFFFFFFFF 16)) [(ln, st)]) ∧
      (k.mode = .vpay → resolves (parts (natBytes 0 g.psize)) [(ln, st)]) ∧
      (k.mode = .block → resolves (parts (natBytes 0 o.len)) [(ln, st)]))) ∧
  (∀ s op o, tget s.hops op = some o → o.started = true → o.parts = [] → (s.team o.team).life = .resident →
    (s.team o.team).stopped = false → (tget s.teams o.team).isSome → (∀ k, o.gather = some k → k.todo = []) →
    ∃ t, exec (.hodOperationComplete op) s = .next t ∧ tget t.hops op = none ∧
      (∀ i, ∀ x ∈ (t.wave i).ops, x.id = op → x.done = true ∧ o.t ≤ x.t) ∧
      (∀ n, o.handle = some n → ∃ x, tget (t.team o.team).handles n = some x ∧ x.st = .full ∧ x.t = o.t ∧
        ((∀ k, o.gather = some k → k.fails = []) → x.status = 0) ∧
        (∀ k f, o.gather = some k → k.fails = [f] → x.status = f.2) ∧
        ∀ i w fid, tget s.waves i = some w → w.team = o.team → w.blocked = .hwait n true fid →
          (t.wave i).blocked = .none ∧ o.t ≤ (t.core w.core).pts ∧
          ∀ f, tget s.flights fid = some f →
            tget t.flights fid = some { f with vals := List.replicate 32 (BitVec.ofNat 32 x.status) }) ∧
      (∀ a, memGet t.mem a = memGet s.mem a))

/-- MSTART hands its stream to the team's Roller and blocks its wave until the stream is fetched, a second stream
behind the first; ROLLER_STREAM_FETCHED of a stream in one page starts it with the bytes that its fetch gives, those of
memory where the stream lies in one line that the L1 holds no copy of, and the wave goes on; MSTOP ends the stream
and raises pts to its stores' timestamp, MEND ends it (R213, R218, R369, R370). A Roller word of the stream in focus,
and the stream goes on behind it: at a body's end with iterations left, at the body's start (R378). MZERO clears a
tile, MSCALE multiplies every element of a tile without an uncorrectable error, which else raises TRAP_STORAGE, MFMT writes a
format register, MLOOP opens a loop where R378 allows it; MBAR arrives and waits (R215, R217, R373, R376 to R379). -/
def Obligations.StreamsAndRollerWords : Prop :=
  ((∀ hd a b count mask s c l, Runs hd (.mstart hd a b count mask) s c → lowLane c.E = some l → (s.gridOf c.w).mat = true →
     (tget s.teams c.w.team).isSome →
     let addr := rd64 s c.w l a
     let table := (rd32 s c.w l b).toNat
     let tm := s.team c.w.team
     let f : MFetch := { addr := addr, wave := c.id, count := BitVec.toNat (count : BitVec 8) + 1, table := table, mask := mask }
     (addr.toNat % 4 = 0 → table % 16 = 0 →
       (tm.stream = none → tm.mfetch = none → tm.mqueue = [] →
         ∃ t, exec (.mstart hd a b count mask) s = .next t ∧ t.team c.w.team = { tm with mfetch := some f } ∧
           Waits c (t.wave c.id) .mfetch) ∧
       (tm.stream.isSome ∨ tm.mfetch.isSome →
         ∃ t, exec (.mstart hd a b count mask) s = .next t ∧ t.team c.w.team = { tm with mqueue := tm.mqueue ++ [f] } ∧
           Waits c (t.wave c.id) .mstart)) ∧
     (addr.toNat % 4 ≠ 0 → exec (.mstart hd a b count mask) s = .next (trapCtx s c 3 addr.toNat)) ∧
     (addr.toNat % 4 = 0 → table % 16 ≠ 0 → exec (.mstart hd a b count mask) s = .next (trapCtx s c 3 table))) ∧
   (∀ hd s c, Runs hd (.mstop hd) s c → c.E ≠ 0 → (tget s.teams c.w.team).isSome →
     ((s.gridOf c.w).mat = false → exec (.mstop hd) s = .next (trapCtx s c 2 0xB6)) ∧
     ((s.gridOf c.w).mat = true →
       ((s.team c.w.team).stream = none → ∃ t, exec (.mstop hd) s = .next t ∧ Goes s t c hd fun _ => c.pc + 12) ∧
       (∀ st, (s.team c.w.team).stream = some st → (∀ n, c.id ∉ (getPhase s (.team c.w.team n)).carried) →
         (∀ n, c.id ∉ (getPhase s (.gang (s.team c.w.team).gang n)).carried) → ∃ t, exec (.mstop hd) s = .next t ∧ (t.team c.w.team).stream = none ∧
         st.t ≤ (t.core c.w.core).pts ∧ (s.core c.w.core).pts ≤ (t.core c.w.core).pts ∧
         (t.wave c.id).v = c.w.v ∧ (t.wave c.id).w = c.w.w ∧ (t.wave c.id).p = c.w.p ∧
         Moves c (t.wave c.id) fun _ => c.pc + 12))) ∧
   (∀ s core t x f w pa e s1, rollerTeam s core = some (t, x) → tget s.teams t = some x → x.mfetch = some f →
     tget s.waves f.wave = some w → f.addr.toNat / 65536 = (f.addr.toNat + (12 * f.count - 1)) / 65536 → 0 < f.count →
     xlatAll (.wave f.wave) w [(f.addr.toNat, .fetch)] s = (s1, [.ok pa e]) →
     let n : Nat := 12 * f.count
     let starts (bs : List Byte) : Prop := ∃ u st, exec (.rollerStreamFetched core) s = .next u ∧
       u.team t = { x with mfetch := none, stream := some st, fmts := joinFmts x.fmts (w.fmts.filter fun e => !e.2.own) } ∧
       st.pc = 0 ∧ st.loops = [] ∧ st.waiting = none ∧ st.table = f.table ∧ st.mask = f.mask ∧ st.wave = f.wave ∧
       st.words = (List.range f.count).map (fun k => BitVec.ofNat 96 (bytesNat ((bs.drop (12 * k)).take 12))) ∧
       (u.wave f.wave).blocked = .none
     (∀ bs s2, fetchRuns core f.wave (s.partNo w) [{ va := f.addr.toNat, pa := pa, n := n, e := e }] s1 = (s2, .ok bs) → starts bs) ∧
     (∀ ln, homeOf pa e.ms < 1024 → homeOffline s (homeOf pa e.ms) = false → pa % 128 + n ≤ 128 →
       tget (s.core core).l1 (pa / 128) = none → tget s.lines (lineKey (homeOf pa e.ms) pa) = some ln → ln.use = 0 →
       poisoned s pa n = false →
       max (max (s.core core).pts ln.wts) ln.rts + (s.part (s.partNo w)).regs.lease ≤ s.ceil →
       starts ((List.range n).map fun j => memGet s.mem (pa + j)))) ∧
   (∀ s t st, s.roll = some (t, st) → (tget s.teams t).isSome →
     ∃ u, exec .mend s = .next u ∧ (u.team t).stream = none)) ∧
  (∀ s t st x, s.roll = some (t, st) → tget s.teams t = some x → x.stream = some st →
     let goesOn (y : Team) : Prop := ∃ st', y.stream = some st' ∧ st' = { st with pc := st'.pc, loops := st'.loops } ∧
       (st.loops = [] → st'.pc = st.pc + 1 ∧ st'.loops = []) ∧
       (∀ e es, st.loops = e :: es →
         (st.pc + 1 < e.stop → st'.pc = st.pc + 1 ∧ st'.loops = st.loops) ∧
         (e.stop ≤ st.pc + 1 → 1 < e.left → st'.pc = e.start ∧
           st'.loops = { e with left := e.left - 1, iter := e.iter + 1 } :: es))
     (∀ tile, ∃ u, exec (.mzero tile) s = .next u ∧ goesOn (u.team t) ∧
       (∀ k, tileGet (u.team t) (BitVec.toNat (tile : BitVec 4)) k = 0) ∧
       (∀ a k, a ≠ BitVec.toNat tile → tileGet (u.team t) a k = tileGet x a k) ∧ u = { s with teams := u.teams }) ∧
     (∀ tile wide imm, BitVec.toNat (tile : BitVec 4) ∈ x.badTiles →
       exec (.mscale tile wide imm) s = .next (rollTrap s t st 18 (2 ^ 63 + 4))) ∧
     (∀ tile wide imm, BitVec.toNat (tile : BitVec 4) ∉ x.badTiles → ∃ u, exec (.mscale tile wide imm) s = .next u ∧ goesOn (u.team t) ∧
       let n : Nat := BitVec.toNat (tile : BitVec 4)
       let v := f32.val (BitVec.toNat (imm : Word))
       (wide = false → ∀ k, k < 4096 → tileGet (u.team t) n k = (f32.mul .rn false (f32.val (tileGet x n k)) v).bits % 2 ^ 32) ∧
       (wide = true → ∀ i j, i < 32 → j < 32 →
         tileGet (u.team t) n (64 * i + 2 * j) + 2 ^ 32 * tileGet (u.team t) n (64 * i + 2 * j + 1) =
           (f64.mul .rn false (f64.val (tileGet x n (64 * i + 2 * j) + 2 ^ 32 * tileGet x n (64 * i + 2 * j + 1))) v).bits % 2 ^ 64) ∧
       (∀ a k, a ≠ n → tileGet (u.team t) a k = tileGet x a k) ∧ u = { s with teams := u.teams }) ∧
     (∀ freg imm, ∃ u, exec (.mfmt freg imm) s = .next u ∧ goesOn (u.team t) ∧
       (∀ k, fmtVal (u.team t).fmts k = if k = BitVec.toNat (freg : BitVec 3) then BitVec.setWidth 64 (imm : BitVec 26) &&& 0x3FFC07F
         else fmtVal x.fmts k) ∧
       u = { s with teams := u.teams, nextId := u.nextId }) ∧
     (∀ step body count,
       let stop : Nat := st.pc + 1 + BitVec.toNat (body : BitVec 8)
       let bad : Prop := 4 ≤ st.loops.length ∨ st.words.length < stop ∨ (∃ e es, st.loops = e :: es ∧ e.stop < stop) ∨
         ∃ w ∈ (st.words.drop (st.pc + 1)).take (BitVec.toNat body), BitVec.toNat (BitVec.extractLsb' 88 8 w) = 0xE6
       (¬ bad → ∃ u, exec (.mloop step body count) s = .next u ∧ u.team t = { x with stream := some { st with
         pc := st.pc + 1, loops := { start := st.pc + 1, stop := stop, left := BitVec.toNat (count : BitVec 16) + 1, iter := 0,
                                     step := BitVec.toNat (step : BitVec 8) } :: st.loops } }) ∧
       (bad → exec (.mloop step body count) s = .next (rollTrap s t st 1 (rollInfo st)))) ∧
     (∀ bn,
       let n : Nat := BitVec.toNat (bn : BitVec 4)
       let p := getPhase s (.team t n)
       (st.mask.getLsbD n = false → exec (.mbar bn) s = .next (rollTrap s t st 17 (BitVec.ofNat 64 (0x100 + n)))) ∧
       (st.mask.getLsbD n = true → p.roller = false →
         (∃ e ∈ s.waves, e.2.team = t ∧ e.2.live ≠ 0 ∧ ∀ m, p.stages = some m →
           m.testBit (s.wave e.1).stage = true ∧ e.1 ∉ p.arrived) →
         ∃ u, exec (.mbar bn) s = .next u ∧ (u.team t).stream = some { st with waiting := some n } ∧
           getPhase u (.team t n) = { p with
             roller := true, pts := max p.pts (s.core x.core).pts, fmts := joinFmts p.fmts x.fmts })) ∧
     (∀ raw : Raw, exec (.rollerUnassignedWord raw) s = .next (rollTrap s t st 1 (raw.pack.extractLsb' 32 64))))

/-- MMA with valid descriptors, where no storage that it reads holds an uncorrectable error, adds to every element of
its tile the group of K products of its row of A and its column of B, under one rounding, and MSTORE writes the tile's
elements to the lines of its destination, each in the descriptor's format (R215, R238, R374, R375, R377). An index past
255 raises TRAP_MATRIX_DESC (R215, R378). -/
def Obligations.TilesAreMultipliedAndStored : Prop :=
  ∀ s t st x, s.roll = some (t, st) → tget s.teams t = some x → x.stream = some st →
    let g := s.gang x.gang
    let size := localSize s x.gang
    let index (i : Nat) : Nat := i + (st.loops.map fun e => e.iter * e.step).foldl (· + ·) 0
    let desc (i : Nat) : Desc := descOf (g.locValue (st.table + 16 * i) 16)
    let valid (i : Nat) (ty : RTy) (d : Desc) : Prop := i ≤ 255 ∧ st.table + 16 * i + 16 ≤ size ∧ d = desc i ∧ d.ok = true ∧
      d.fmt = BitVec.toNat ty.code ∧ g.badAt (st.table + 16 * i) 16 = false
    (∀ tile dA dB kn ty da db,
      let n : Nat := BitVec.toNat (tile : BitVec 4)
      let ia := index (BitVec.toNat (dA : BitVec 8))
      let ib := index (BitVec.toNat (dB : BitVec 8))
      let m := (mmaShape ty kn).1
      let k := (mmaShape ty kn).2
      let el (d : Desc) (i kk : Nat) : FVal :=
        let at_ (f : FFmt) (w : Nat) : FVal :=
          f.val (g.locValue (if d.cols then d.base + kk * d.stride + w * i else d.base + i * d.stride + w * kk) w)
        match ty with
        | .bf16 => at_ bf16 2
        | .f16 => at_ f16 2
        | .f32 => at_ f32 4
        | .f64 => at_ f64 8
        | .narrow => (readOperand s t d ty m k).2 i kk
      valid ia ty da → valid ib ty db → operandOk size ty kn m k x da = true → operandOk size ty kn m k x db = true →
      operandBad s t da ty m k = false → operandBad s t db ty m k = false → n ∉ x.badTiles →
      ∃ u, exec (.mma tile dA dB kn ty) s = .next u ∧
        (∀ i j, i < m → j < m →
          let prods := (List.range k).map fun kk => (el da i kk, el db j kk)
          (ty ≠ .f64 → tileGet (u.team t) n (64 * i + j) = mmaGroup f32 (tileGet x n (64 * i + j)) prods % 2 ^ 32) ∧
          (ty = .f64 → tileGet (u.team t) n (64 * i + 2 * j) + 2 ^ 32 * tileGet (u.team t) n (64 * i + 2 * j + 1) =
            mmaGroup f64 (tileGet x n (64 * i + 2 * j) + 2 ^ 32 * tileGet x n (64 * i + 2 * j + 1)) prods % 2 ^ 64)) ∧
        (∀ a q, a ≠ n → tileGet (u.team t) a q = tileGet x a q) ∧ (u.gang x.gang).loc = g.loc ∧
        (∀ a, memGet u.mem a = memGet s.mem a) ∧ ∃ st', (u.team t).stream = some st') ∧
    (∀ tile dA dB kn ty, 255 < index (BitVec.toNat (dA : BitVec 8)) →
      exec (.mma tile dA dB kn ty) s = .next (rollTrap s t st 17 (BitVec.ofNat 64 (index (BitVec.toNat dA))))) ∧
    (∀ dA tile rm ty d,
      let n : Nat := BitVec.toNat (tile : BitVec 4)
      let m : Nat := if ty = .f64 then 32 else 64
      let f := descFmt x d
      let eb := elemBits ty f
      let elem (i j : Nat) : Nat := storeElem ty rm f (if ty = .f64
        then tileGet x n (64 * i + 2 * j) + 2 ^ 32 * tileGet x n (64 * i + 2 * j + 1) else tileGet x n (64 * i + j))
      valid (index (BitVec.toNat (dA : BitVec 8))) ty d → destOk size ty m x d = true → m * eb / 8 ≤ d.stride →
      n ∉ x.badTiles →
      ∃ u, exec (.mstore dA tile rm ty) s = .next u ∧
        (∀ l o, l < m → o < m * eb / 8 → (u.gang x.gang).locByte (d.base + l * d.stride + o) =
          (lineBytes eb ((List.range m).map fun e => if d.cols then elem e l else elem l e)).getD o 0) ∧
        (∀ o, (∀ l, l < m → ¬ (d.base + l * d.stride ≤ o ∧ o < d.base + l * d.stride + m * eb / 8)) →
          (u.gang x.gang).locByte o = g.locByte o) ∧
        (u.team t).tiles = x.tiles ∧ (∀ a, memGet u.mem a = memGet s.mem a) ∧ ∃ st', (u.team t).stream = some st')

/-- The words of a policy program that write a register, with their costs. A word that would pass the budget of 1,024
cycles is not executed: the fallback decides with outcome OVERRUN, which is counted. Before the end of a loop's body
the next word follows; the word after it starts the next iteration for one cycle more, or ends the loop (R420 to R424,
R426). Branches take one cycle, two when taken, and a target beyond a loop's body leaves the loop; QLOOP opens a loop
of n words with its register at 0. An END word ends the program with its action where the kind of the decision and the
snapshot allow it; else the outcome is INVALID, which is counted, and the fallback decides (R422, R425, R426). -/
def Obligations.PolicyWordsRun : Prop :=
  (∀ s p x d, s.focus = .trowel p → tget s.parts p = some x → x.dec = some d → d.action = none →
     ∀ (dst a b f : BitVec 4) (imm : BitVec 14),
     let r (n : BitVec 4) : Word := d.regs.getD n.toNat 0
     let head : List Nat := d.views.fits.getD ((r a).toNat % 16) []
     let field (v : List Word) : Word := v.getD (BitVec.toNat f) 0
     let after (e : Decision) : State := { s with parts := tput s.parts p { x with dec := some e } }
     let over_ (i : Instr) : Prop := exec i s = .next { s with parts := tput s.parts p { x with
       dec := some { d with outcome := 1, action := some (fallback d.views d.req) }
       regs := { x.regs with overrun := (x.regs.overrun + 1) % 2 ^ 32 } } }
     let gives (i : Instr) (cost : Nat) (v : Word) : Prop :=
       (1024 < d.count + cost → over_ i) ∧
       (d.count + cost ≤ 1024 →
         (d.loop = none ∨ (∃ l, d.loop = some l ∧ d.pc + 1 < l.after) →
           exec i s = .next (after { d with pc := d.pc + 1, count := d.count + cost, regs := d.regs.set dst.toNat v })) ∧
         (∀ l, d.loop = some l → d.pc + 1 = l.after →
           (l.iter < 15 → d.count + cost + 1 ≤ 1024 → exec i s = .next (after { d with
             pc := l.first, count := d.count + cost + 1, loop := some { l with iter := l.iter + 1 }
             regs := (d.regs.set dst.toNat v).set l.d (BitVec.ofNat 32 (l.iter + 1)) })) ∧
           (15 ≤ l.iter → exec i s = .next (after { d with
             pc := d.pc + 1, count := d.count + cost, loop := none, regs := (d.regs.set dst.toNat v).set l.d 15 }))))
     gives (.policyLi dst imm) 1 (imm.setWidth 32) ∧
     gives (.policyLui dst imm) 1 (BitVec.ofNat 32 (imm.toNat * 2 ^ 18 + (r dst).toNat % 2 ^ 18)) ∧
     gives (.policyAddi dst a imm) 1 (r a + imm.signExtend 32) ∧
     gives (.policyAdd dst a b) 1 (r a + r b) ∧ gives (.policySub dst a b) 1 (r a - r b) ∧
     gives (.policyAnd dst a b) 1 (r a &&& r b) ∧ gives (.policyOr dst a b) 1 (r a ||| r b) ∧
     gives (.policyXor dst a b) 1 (r a ^^^ r b) ∧
     gives (.policyShl dst a b) 1 (BitVec.ofNat 32 ((r a).toNat * 2 ^ ((r b).toNat % 32))) ∧
     gives (.policyShr dst a b) 1 (BitVec.ofNat 32 ((r a).toNat / 2 ^ ((r b).toNat % 32))) ∧
     gives (.policyMinu dst a b) 1 (BitVec.ofNat 32 (min (r a).toNat (r b).toNat)) ∧
     gives (.policyMaxu dst a b) 1 (BitVec.ofNat 32 (max (r a).toNat (r b).toNat)) ∧
     gives (.policySltu dst a b) 1 (if (r a).toNat < (r b).toNat then 1 else 0) ∧
     gives (.policyVq dst a f) 2 (field (d.views.vq.getD ((r a).toNat % 16) [])) ∧
     gives (.policyVs dst a f) 4 (field (d.views.vs.getD (r a).toNat [])) ∧
     gives (.policyVp dst a f) 4 (field (d.views.vp.getD ((r a).toNat % 16) [])) ∧
     gives (.policyVf dst f) 2 (field d.views.vf) ∧ gives (.policyVg dst f) 2 (field d.views.vg) ∧
     gives (.policyFit dst a b) 8 (if (r b).toNat ∈ head then 1 else 0) ∧
     gives (.policyFind dst a b) (8 + (d.views.nclus + 7) / 8)
       (match head.find? fun c => (r b).toNat ≤ c with
         | some c => BitVec.ofNat 32 c
         | none => 0xFFFFFFFF)) ∧
  (∀ s p x d, s.focus = .trowel p → tget s.parts p = some x → x.dec = some d → d.action = none →
     ∀ (dst a b : BitVec 4) (imm : BitVec 14),
     let r (n : BitVec 4) : Word := d.regs.getD n.toNat 0
     let after (e : Decision) : State := { s with parts := tput s.parts p { x with dec := some e } }
     let overBudget (i : Instr) : Prop := exec i s = .next { s with parts := tput s.parts p { x with
       dec := some { d with outcome := 1, action := some (fallback d.views d.req) }
       regs := { x.regs with overrun := (x.regs.overrun + 1) % 2 ^ 32 } } }
     let branch (i : Instr) (taken : Bool) : Prop :=
       let k := d.pc + 1 + (if taken then imm.toNat else 0)
       let cost := if taken then 2 else 1
       (1024 < d.count + cost → overBudget i) ∧
       (d.count + cost ≤ 1024 →
         (d.loop = none ∨ (∃ l, d.loop = some l ∧ k < l.after) →
           exec i s = .next (after { d with pc := k, count := d.count + cost })) ∧
         (∀ l, d.loop = some l → l.after < k →
           exec i s = .next (after { d with pc := k, count := d.count + cost, loop := none })))
     let ends (i : Instr) (act : Action) (ok : Prop) : Prop :=
       (1024 < d.count + 2 → overBudget i) ∧
       (d.count + 2 ≤ 1024 → ok → exec i s = .next (after { d with count := d.count + 2, action := some act })) ∧
       (d.count + 2 ≤ 1024 → ¬ ok → exec i s = .next { s with parts := tput s.parts p { x with
         dec := some { d with count := d.count + 2, outcome := 2, action := some (fallback d.views d.req) }
         regs := { x.regs with invalid := (x.regs.invalid + 1) % 2 ^ 16 } } })
     let fault : Prop := ∃ fid, d.req = .fault fid
     branch (.policyBeq a b imm) (decide (r a = r b)) ∧ branch (.policyBne a b imm) (decide (r a ≠ r b)) ∧
     branch (.policyBltu a b imm) (decide ((r a).toNat < (r b).toNat)) ∧
     branch (.policyBgeu a b imm) (decide ((r b).toNat ≤ (r a).toNat)) ∧ branch (.policyBra imm) true ∧
     (d.count + 1 ≤ 1024 → exec (.qloop dst imm) s = .next (after { d with
       pc := d.pc + 1, count := d.count + 1
       loop := some { d := dst.toNat, first := d.pc + 1, after := d.pc + 1 + imm.toNat, iter := 0 }
       regs := d.regs.set dst.toNat 0 })) ∧
     (1024 < d.count + 1 → overBudget (.qloop dst imm)) ∧
     ends .policyEndNone .none (¬ fault) ∧
     ends (.policyEndPlace a b) (.place ((r a).toNat % 16) (r b).toNat)
       (d.req = .dispatch ∧ (r b).toNat ∈ d.views.fits.getD ((r a).toNat % 16) []) ∧
     ends (.policyEndPreempt a) (.preempt (r a).toNat)
       ((∃ slice aq, d.req = .preempt slice aq) ∧ ∃ g ∈ d.views.gangs, g.id = (r a).toNat) ∧
     ends .policyEndResume .resume fault ∧ ends .policyEndSuspend .suspend fault ∧
     ends .policyEndKillteam .killteam fault ∧ ends .policyEndKillgrid .killgrid fault ∧
     ends .policyEndEscalate .escalate fault)

/-- A walk that ends at a leaf which allows the access fills the TLBs of the waiting wave's core; one that ends in a
fault, the wave's last, caches nothing and suspends the wave at its instruction with a record of the page, for which a
decision is asked. A write to FAULT_PTRS moves the tail, and a held record is written where the ring now has room and
its line may be written (R25, R30, R32, R33, R35 to R38, R40). Each write of the host is progress for the watchdog
(R444). TLB_INV of a page, a PASID or the partition sets BUSY with its scope, or the error flag while one runs; when no
access that used a matching translation is left, every matching translation is gone from every TLB, no other is, and
BUSY is clear (R34). -/
def Obligations.WalksAndInvalidations : Prop :=
  ((∀ s die idx m id a w, (s.die die).queue[idx]? = some m → idx < 64 → m.waiters = [(.wave id, a)] →
     tget s.waves id = some w → w.core / 96 = die → w.xfault = [] → m.va % 65536 = 0 →
     (∀ e ws s1, walk s die m.part m.pasid m.va = (s1, .leaf e, ws) → accessFault e a = none →
       ∃ t, exec (.pageWalk die idx) s = .next t ∧ (t.core w.core).tlb.head? = some e ∧
         (t.cluster (w.core / 4)).tlb.head? = some e ∧ (t.die die).queue = (s.die die).queue.eraseIdx idx ∧
         t.waves = s.waves ∧ (∀ x, memGet t.mem x = memGet s1.mem x) ∧ ∀ k, t.core k = { s.core k with tlb := (t.core k).tlb }) ∧
     (∀ cause size ws s1 pc, walk s die m.part m.pasid m.va = (s1, .fault cause size, ws) → w.xpages = [m.va / 65536] →
       w.susp = .none → w.blocked = .none → w.iss.runPc = some pc →
       (∀ x ∈ (s.die die).queue.eraseIdx idx, ∀ y ∈ x.waiters, y.1 ≠ .wave id) →
       let p := s.partNo w
       let word := pageWord m.va size cause a
       (tget s.parts p).isSome → pagePending (s.die die) p (s.gridOf w).pasid (pageKey (m.va / 65536) word) = false →
       (s.die die).pages.length < 256 →
       let n := (s.part p).nextF
       ∃ t v r, exec (.pageWalk die idx) s = .next t ∧ (∀ y ∈ (t.die die).walks, y ∈ (s.die die).walks) ∧
         (∀ k, (t.core k).tlb = (s.core k).tlb) ∧ tget t.waves id = some v ∧ v.susp = .fault ∧ v.pc = w.pc ∧ v.v = w.v ∧
         v.w = w.w ∧ v.p = w.p ∧ (∀ x ∈ v.latches, x.valid = false) ∧ tget (t.part p).faults n = some r ∧ r.pages = [word] ∧
         r.pc = pc ∧ r.lanes = w.pathAt pc ∧ r.code = 0 ∧ r.dup = false ∧ r.waveId = id ∧ r.team = w.team ∧
         r.core = w.core ∧ r.wave = 16 * w.quarter + w.slot ∧ .fault n ∈ (t.part p).decReqs)) ∧
   (∀ s part value x, tget s.parts part = some x → (∀ e ∈ x.faults, e.2.written = true → e.2.resume = false) →
     let tail : Nat := BitVec.toNat (value : DWord) / 2 ^ 32
     (x.heldF = [] → exec (.faultPtrsWrite part value) s = .next
       { s with parts := tput s.parts part { x with wdSince := s.cycle, regs := { x.regs with fTail := tail } } }) ∧
     (∀ id r, x.heldF = [id] → tget x.faults id = some r → r.resume = false →
       let size : Nat := 2 ^ (x.regs.faultRing.toNat % 16 + 6)
       (x.regs.fHead + 2 ^ 32 - tail) % 2 ^ 32 < size →
       let pa : Nat := x.regs.faultRing.toNat % 2 ^ 52 / 4096 * 4096 + 64 * (x.regs.fHead % size)
       let home := homeOf pa false
       let l : Line := (tget s.lines (lineKey home pa)).getD { Line.fresh with wts := (s.home home).rw, rts := (s.home home).rd }
       home < 1024 → writeWaits s home pa = false → homeOffline s home = false → l.rts + 1 ≤ s.ceil →
       x.regs.trapRing.getLsbD 0 = false →
       ∃ t, exec (.faultPtrsWrite part value) s = .next t ∧ tget (t.part part).faults id = some { r with written := true } ∧
         (t.part part).heldF = [] ∧ (t.part part).regs.fTail = tail ∧
         (t.part part).regs.fHead = (x.regs.fHead + 1) % 2 ^ 32 ∧ t.waves = s.waves))) ∧
  ((∀ s part x i scope (pasid : BitVec 20) (vpn : BitVec 40), tget s.parts part = some x →
     ((i = Instr.tlbInvPage part pasid vpn ∧ scope = (0, pasid.toNat, vpn.toNat)) ∨
       (i = .tlbInvPasid part pasid ∧ scope = (1, pasid.toNat, 0)) ∨ (i = .tlbInvPartition part ∧ scope = (2, 0, 0))) →
     (x.regs.tlbBusy = false → exec i s = .next { s with parts := tput s.parts part { x with
       wdSince := s.cycle, regs := { x.regs with tlbBusy := true }, inval := some scope } }) ∧
     (x.regs.tlbBusy = true → exec i s = .next { s with parts := tput s.parts part { x with
       wdSince := s.cycle, regs := { x.regs with tlbErr := true } } })) ∧
   (∀ s part x scope pasid vpn, tget s.parts part = some x → x.inval = some (scope, pasid, vpn) →
     invPending s part scope pasid vpn = false →
     let hit (e : TlbEnt) : Prop := e.part = part ∧ (scope = 2 ∨ (e.pasid = pasid ∧
       (scope = 1 ∨ (e.va / 65536 ≤ vpn ∧ vpn < (e.va + e.size) / 65536))))
     ∃ t, exec (.tlbInvComplete part) s = .next t ∧
       (∀ k e, e ∈ (t.core k).tlb ↔ e ∈ (s.core k).tlb ∧ ¬ hit e) ∧
       (∀ k e, e ∈ (t.cluster k).tlb ↔ e ∈ (s.cluster k).tlb ∧ ¬ hit e) ∧
       (∀ k e, e ∈ (t.die k).tlb ↔ e ∈ (s.die k).tlb ∧ ¬ hit e) ∧
       tget t.parts part = some { x with regs := { x.regs with tlbBusy := false }, inval := none } ∧
       t = { s with cores := t.cores, clusters := t.clusters, dies := t.dies, parts := t.parts }))

/-- A core cycle adds 4 to the ceiling and 1 to the cycle and, where no record of the device waits for its line, changes
nothing else; every 256 cycles since its reset the cores of a die that is not reset itself tick; scores halve in each
period of 256 cycles; a wave refused for 4,096 cycles has 256 cycles of grace; a quantum that ends asks for a
pre-emption while a queue waits (R106, R117, R199, R417). A watchdog whose partition's resident waves have all been
blocked for PERIOD microseconds of 1,500 cycles sets EXT where one waits on a word outside, and otherwise FIRED with a
trap for the team of the wave blocked longest; a team deadlocked on registers traps with its reserve (R190, R395, R444).
A team trap suspends every wave of the team. -/
def Obligations.ClocksAndWatchdog : Prop :=
  ((∀ s, ∃ t, exec .ceilingAdvance s = .next t ∧ t.cycle = s.cycle + 1 ∧ t.ceil = s.ceil + 4) ∧
   (∀ s, (∀ e ∈ s.parts, (s.part e.1).heldF = [] ∧ (s.part e.1).decQ = [] ∧ (s.part e.1).portQ = []) →
     exec .ceilingAdvance s = .next { s with cycle := s.cycle + 1, ceil := s.ceil + 4 }) ∧
   (∀ s, s.ticked < s.cycle → ∃ t, exec .ptsTick s = .next t ∧ t = { s with cores := t.cores, ticked := s.cycle } ∧
     ∀ k, t.core k = if k < 384 ∧ (s.die (k / 96)).ticks = true ∧ (s.die (k / 96)).clk < s.cycle ∧
         (s.cycle - (s.die (k / 96)).clk) % 256 = 0
       then { s.core k with pts := (s.core k).pts + 1 } else s.core k) ∧
   (∀ s, s.halved / 256 < s.cycle / 256 → ∃ t, exec .throttleScoreHalving s = .next t ∧
     t = { s with waves := t.waves, halved := s.cycle } ∧
     ∀ k, tget t.waves k = (tget s.waves k).map fun w => { w with iss := { w.iss with score := w.iss.score / 2 } }) ∧
   (∀ s k w n, tget s.waves k = some w → w.iss.refusedAt = some n → n + 4096 ≤ s.cycle →
     exec (.throttleRelease k) s = .next { s with waves := tput s.waves k { w with
       iss := { w.iss with refusedAt := none, graceEnd := s.cycle + 256 } } }) ∧
   (∀ s p x, tget s.parts p = some x → x.regs.quantum ≠ 0 → x.quantumAt + 1024 * x.regs.quantum ≤ s.cycle →
     exec (.quantumExpiry p) s = .next { s with parts := tput s.parts p { x with
       quantumAt := x.quantumAt + 1024 * x.regs.quantum
       decReqs := if ∀ q ∈ x.queues, q.2 = [] then x.decReqs else x.decReqs ++ [.preempt true 0] } })) ∧
  ((∀ s p x since, tget s.parts p = some x → x.regs.wdPeriod ≠ 0 → residentWaves s p ≠ [] →
     (∀ e ∈ residentWaves s p, countsBlocked s e.2 = true ∧ e.2.iss.blockedAt ≤ since) → x.wdSince ≤ since →
     since + 1500 * x.regs.wdPeriod ≤ s.cycle →
     ((∃ e ∈ residentWaves s p, waitsOutside s e.2 = true) →
       exec (.watchdogExpiry p) s = .next { s with parts := tput s.parts p { x with
         wdSince := s.cycle, regs := { x.regs with wdExt := true } } }) ∧
     (∀ id w, residentWaves s p = [(id, w)] → tget s.waves id = some w → waitsOutside s w = false →
       (tget s.teams w.team).isSome →
       ∃ t r, exec (.watchdogExpiry p) s = .next t ∧ (t.part p).regs.wdFired = true ∧ (t.team w.team).stopped = true ∧
         (t.wave id).susp = .trap 21 ∧ tget (t.part p).faults x.nextF = some r ∧ r.code = 21 ∧ r.kind = 2 ∧ r.info = 1 ∧
         r.team = w.team ∧ .fault x.nextF ∈ (t.part p).decReqs)) ∧
   (∀ s team x, tget s.teams team = some x → claimDeadlocked s team = true → (tget s.parts (s.gang x.gang).part).isSome →
     let p := (s.gang x.gang).part
     let n := (s.part p).nextF
     ∃ t r, exec (.trapClaimDeadlock team) s = .next t ∧ (t.team team).stopped = true ∧
       (∀ i ∈ s.teamWaves team, (t.wave i).susp = .trap 12 ∧ (t.wave i).v = (s.wave i).v ∧ (t.wave i).pc = (s.wave i).pc) ∧
       tget (t.part p).faults n = some r ∧ r.code = 12 ∧ r.kind = 2 ∧ r.team = team ∧
       r.info = BitVec.ofNat 64 x.reserve ∧ .fault n ∈ (t.part p).decReqs))

/-- A free Trowel starts the decision that is asked for: fault decisions first, then pre-emptions, then a dispatch. The
version and the image of the active slot and the kind in T0 are fixed at the start; with no image or under FORCE_FB the
fallback decides at once, with outcome 5, and a dispatch with an aged head has outcome 4 (R416, R418, R420, R429, R430).
A decision ends: no action changes nothing else; PREEMPT halts a resident gang and its teams; a gang that is no longer
resident makes it STALE; PLACE places the next gang of the head that still fits, its teams on consecutive cores from
their grid's entry, and waits while the first of them may not write the node's record; .resume lets a wave go on (R182,
R413, R415, R418, R434, R441). The decision ring is off here. -/
def Obligations.DecisionsStartAndAreApplied : Prop :=
  (∀ s p x i req, tget s.parts p = some x → x.dec = none → (∀ c, x.commit = some c → c.ready = none) →
     (x.decReqs.find? fun r => r.kind == req.kind) = some req → (∀ r ∈ x.decReqs, r.kind ≤ req.kind) →
     (match req with
       | .dispatch => i = .dispatchDecision p
       | .preempt .. => i = .preemptionDecision p
       | .fault fid => i = .faultDecision p ∧ ∃ r, tget x.faults fid = some r ∧ (tget s.teams r.team).isSome) →
     ∃ t y d, exec i s = .next t ∧ t = { s with parts := tput s.parts p y, freeCtr := t.freeCtr } ∧
       y = { x with decReqs := x.decReqs.erase req, dec := some d } ∧ d.req = req ∧ d.start = s.cycle ∧
       d.version = (if x.active.isSome then x.regs.polVer else 0) ∧ d.image = x.active.getD [] ∧ d.pc = 0 ∧ d.loop = none ∧
       d.count = 0 ∧ d.regs = BitVec.ofNat 32 req.kind :: List.replicate 15 0 ∧
       let aged : Prop := req = .dispatch ∧ ∃ q, q < 16 ∧ d.views.head q = true ∧ 2 ^ 22 ≤ d.views.ages.getD q 0
       (aged → d.outcome = 4 ∧ d.action.isSome) ∧
       (¬ aged → (x.active = none ∨ x.regs.forceFb = true) → d.outcome = 5 ∧ d.action.isSome ∧
         ∀ fid, req = .fault fid → d.action = some .escalate) ∧
       (¬ aged → x.active ≠ none → x.regs.forceFb = false → d.outcome = 0 ∧ d.action = none)) ∧
  (∀ s p x d a, tget s.parts p = some x → x.dec = some d → d.action = some a → x.regs.decRing.getLsbD 4 = false →
     let ended : Part := { x with dec := none }
     (a = .none → exec (.decisionApply p) s = .next { s with parts := tput s.parts p { ended with wdSince := s.cycle } }) ∧
     (∀ n v g, a = .preempt n → (d.views.gangs.find? fun y => y.id == n) = some v → tget s.gangs v.gang = some g →
       (g.life = .resident → g.part = p → ∃ t, exec (.decisionApply p) s = .next t ∧
         tget t.gangs v.gang = some { g with life := .halting, goal := .saved, haltAt := s.cycle } ∧
         (∀ k m, tget s.teams k = some m → m.gang = v.gang → tget t.teams k = some { m with life := .halting }) ∧
         (∀ k, k ≠ v.gang → tget t.gangs k = tget s.gangs k) ∧ t = { s with gangs := t.gangs, teams := t.teams, parts := t.parts } ∧
         t.parts = tput s.parts p { ended with wdSince := s.cycle }) ∧
       (g.life ≠ .resident → exec (.decisionApply p) s = .next { s with parts := tput s.parts p ended })) ∧
     (∀ q c j0, a = .place q c →
       let v := d.views.vtx q
       let G := s.grid (gridKey p v)
       let core0 := 4 * (8 * p + c) + j0
       hasEntry s p v = true → fits s p v c = some j0 → againGang s G = none →
       let holds : Prop := G.placed = 0 ∧ ∃ g0, tget x.graphs 0 = some g0 ∧
         (s.ceil < max G.fired ((g0.vtx v).prts + 1) ∨ homeOffline s (g0.owner (some v)) = true)
       (holds → exec (.decisionApply p) s = .next s) ∧
       (¬ holds → ∃ t g, exec (.decisionApply p) s = .next t ∧ (t.part p).dec = none ∧ tget t.gangs s.nextId = some g ∧
         g.part = p ∧ g.vertex = v ∧ g.q = G.placed ∧ (g.x, g.y, g.z) = curveAt G G.placed ∧ g.core0 = core0 ∧
         g.life = .resident ∧ g.runPrio = G.queue ∧ g.loc = [] ∧ (t.grid (gridKey p v)).placed = G.placed + 1 ∧
         (∀ j, j < G.nteam → G.fired ≤ (t.core (core0 + j)).pts ∧ ∃ n m, tget t.teams n = some m ∧ m.gang = s.nextId ∧
           m.slot = j ∧ m.core = core0 + j ∧ m.reserve = G.q ∧ m.life = .resident ∧
           ∀ k, k < G.waves → ∃ i w, tget t.waves i = some w ∧ w.team = n ∧ w.idx = k ∧ w.core = core0 + j ∧
             w.pc = List.replicate 32 G.entry ∧ w.blocks = G.base ∧ w.v = [] ∧ w.w = [] ∧ w.p = []) ∧
         ∀ b, memGet t.mem b = memGet s.mem b)) ∧
     (∀ fid r w tm, a = .resume → d.req = .fault fid → tget x.faults fid = some r → r.written = true → r.kind = 1 →
       r.code ≠ 19 → r.code ≠ 20 → r.hod = none → r.dup = false → (∀ y ∈ x.faults, y.1 = fid) → s.dies = [] →
       tget s.waves r.waveId = some w → w.team = r.team → s.partNo w = p → tget s.teams r.team = some tm →
       (∃ code, w.susp = .trap code) → w.packets = [] →
       ∃ t v, exec (.decisionApply p) s = .next t ∧ tget t.waves r.waveId = some v ∧ v.susp = .none ∧ v.pc = w.pc ∧
         v.v = w.v ∧ v.w = w.w ∧ v.p = w.p ∧ tget (t.part p).faults fid = none ∧ (t.part p).dec = none ∧
         (t.team r.team).fcount = tm.fcount + 1))

/-- POLICY_COMMIT takes the source and the length of an image, and any write reports error 6 while one is checked; its
checks end with error 5 where a word cannot be read, with the lowest code that the first faulty word breaks, or with the
image ready; between two decisions a ready image becomes active (R427, R431). -/
def Obligations.ImagesAreCommitted : Prop :=
  ∀ s p x, tget s.parts p = some x →
    (∀ value,
      (x.regs.busy = true → exec (.policyCommit p value) s = .next { s with parts := tput s.parts p { x with
        wdSince := s.cycle, regs := { x.regs with polErr := 6 } } }) ∧
      (x.regs.busy = false → value.getLsbD 0 = false →
        exec (.policyCommit p value) s = .next { s with parts := tput s.parts p { x with wdSince := s.cycle } }) ∧
      (x.regs.busy = false → value.getLsbD 0 = true → exec (.policyCommit p value) s = .next { s with parts := tput s.parts p { x with
        wdSince := s.cycle
        regs := { x.regs with busy := true, polErr := 0 }
        commit := some { version := BitVec.ofNat 32 (value.toNat / 2 ^ 32), src := x.regs.polSrc.toNat % 2 ^ 52 / 4 * 4,
                         len := x.regs.polSrc.toNat / 2 ^ 52 % 256 + 1, ready := none } } })) ∧
    (∀ c, x.commit = some c → c.ready = none →
      let failed (code word : Nat) : Part := { x with
        commit := none, regs := { x.regs with busy := false, polErr := code, polErrW := word } }
      (∀ i, i < c.len → canRead s (c.src + 4 * i) = false →
        exec (.policyCommitChecksEnd p) s = .next { s with parts := tput s.parts p (failed 5 x.regs.polErrW) }) ∧
      ((∀ i, i < c.len → canRead s (c.src + 4 * i) = true) →
        let word (i : Nat) : Word := BitVec.ofNat 32 (bytesNat ((List.range 4).map fun j => memGet s.mem (c.src + 4 * i + j)))
        (∀ n r, n < c.len → (∀ i, i < n → decodePolicy (word i) = .ok .policyEndNone) → decodePolicy (word n) = .reject r →
          exec (.policyCommitChecksEnd p) s = .next { s with parts := tput s.parts p (failed 1 n) }) ∧
        (∀ n i, n + 1 = c.len → (∀ k, k < n → decodePolicy (word k) = .ok .policyEndNone) → decodePolicy (word n) = .ok i →
          isEnd i = false → branchOffset i = none → (∀ e m, i ≠ .qloop e m) →
          exec (.policyCommitChecksEnd p) s = .next { s with parts := tput s.parts p (failed 4 n) }) ∧
        (0 < c.len → (∀ k, k < c.len → decodePolicy (word k) = .ok .policyEndNone) →
          exec (.policyCommitChecksEnd p) s = .next { s with parts := tput s.parts p { x with
            commit := some { c with ready := some ((List.range c.len).map word) } } }))) ∧
    (∀ c ws, x.commit = some c → c.ready = some ws → x.dec = none →
      exec (.policySlotExchange p) s = .next { s with parts := tput s.parts p { x with
        active := some ws, commit := none
        regs := { x.regs with polVer := c.version, loaded := true, busy := false } } })

/-- A wave whose threads have all exited, with no operation counted, retires, and is expected by no copy any more; its
accesses that are still to be performed go on as orphans, and its grid waits for them (R170, R191, R204, R298). With its last
wave a team goes, with its last team a gang, which counts in its grid and asks for a dispatch; with its last gang a grid's
residuals become due, and once nothing of what it waits for is held the grid is complete (R138, R155, R191 to R193). -/
def Obligations.WavesTeamsAndGridsEnd : Prop :=
  (∀ s id w g G, tget s.waves id = some w → w.live = 0 → w.ops = [] → w.packets = [] →
    (∀ e ∈ s.hops, e.2.started = true ∨ e.2.segs ≠ []) → (s.teamOf w).life = .resident → (s.teamOf w).stream = none → tget s.gangs (s.teamOf w).gang = some g →
    tget s.grids (gridKey g.part g.vertex) = some G → (tget s.parts g.part).isSome →
    let gid := (s.teamOf w).gang
    ∃ t, exec (.waveRetirement id) s = .next t ∧ tget t.waves id = none ∧
      (∀ k, k ≠ id → tget t.waves k = tget s.waves k) ∧ (∀ a, memGet t.mem a = memGet s.mem a) ∧
      (∀ k o, tget s.hops k = some o → ∃ o', tget t.hops k = some o' ∧ o'.expect = o.expect.filter (· != id)) ∧
      (∀ k r, tget s.reqs k = some r → r.wave = id → tget t.reqs k = some { r with orphan := true } ∧
        (r.kind.isPref = false → ∃ G', tget t.grids (gridKey g.part g.vertex) = some G' ∧ r.flight ∈ G'.waitFor)) ∧
      ((∃ j ∈ s.teamWaves w.team, j ≠ id) → t.teams = s.teams ∧ t.gangs = s.gangs) ∧
      ((∀ j ∈ s.teamWaves w.team, j = id) → tget t.teams w.team = none ∧ (∀ k, k ≠ w.team → tget t.teams k = tget s.teams k) ∧
        ((∃ n ∈ s.gangTeams gid, n ≠ w.team) → t.gangs = s.gangs) ∧
        ((∀ n ∈ s.gangTeams gid, n = w.team) → tget t.gangs gid = none ∧ .dispatch ∈ (t.part g.part).decReqs ∧
          ∃ G', tget t.grids (gridKey g.part g.vertex) = some G' ∧ G'.retired = G.retired + 1 ∧
            G'.top = max G.top (s.core w.core).pts ∧
            (G'.drained = true ↔ G.drained = true ∨ G.gangs ≤ G.retired + 1 + G.cancelled)))) ∧
  (∀ s p v G, tget s.grids (gridKey p v) = some G → G.drained = true → G.done = false →
    (∀ op ∈ G.waitFor, opHeld s op = false) →
    exec (.gridCompletion p v) s = .next { s with grids := tput s.grids (gridKey p v) { G with done := true } })

/-- A halting team, 2,048 cycles or more after a resumption, halts: each wave is suspended with its registers, its
requests are saved as packets and its tag rises, and the next thread to park at a gathering will read the mask again;
the cluster's combining entries of the partition become due. With those sent and no part of its engines in flight it is
saved; with all teams saved the gang takes its goal, and one that was pre-empted waits to be placed again (R126, R257,
R434, R435, R440). -/
def Obligations.GangsHaltAndAreSaved : Prop :=
  (∀ s n m id w, tget s.teams n = some m → m.life = .halting → (m.resumedAt = 0 ∨ m.resumedAt + 2048 ≤ s.cycle) →
    s.teamWaves n = [id] → tget s.waves id = some w → w.susp = .none → w.blocked = .none →
    (∀ e ∈ s.flights, e.2.wave = id → ∀ k, e.2.dest ≠ .kept k) →
    (∀ e ∈ s.reqs, e.2.wave = id → e.2.kind.isPref = false) → (∀ e ∈ s.reps, e.2.req.wave = id → e.2.req.kind.isPref = false) →
    let p := (s.gang m.gang).part
    ∃ t v, exec (.teamHalted n) s = .next t ∧ tget t.waves id = some v ∧ v.susp = .halted ∧ v.gen = (w.gen + 1) % 256 ∧
      v.v = w.v ∧ v.w = w.w ∧ v.p = w.p ∧ v.pc = w.pc ∧ v.csp = w.csp ∧ v.cur = w.cur ∧ v.trap = w.trap ∧
      v.fstatus = w.fstatus ∧ (∀ x ∈ v.latches, x.valid = false) ∧
      (∀ x ∈ v.gathers, x.old = true) ∧
      (∀ k r f, tget s.reqs k = some r → r.wave = id → r.gen = w.gen → r.orphan = false →
        tget s.flights r.flight = some f → f.dest ≠ .ret →
        { seq := k, req := { r with armed := false, held := none, acks := 0, got := [] } } ∈ v.packets) ∧
      (∃ x, tget t.teams n = some x ∧ x.life = .halted ∧ x.savedPts = (s.core m.core).pts) ∧
      (∀ slot e, tget (s.cluster (m.core / 4)).comb slot = some e →
        tget (t.cluster (m.core / 4)).comb slot = some { e with due := e.due || decide (e.key.part = p) }) ∧
      (∀ k, k ≠ id → (t.wave k).v = (s.wave k).v ∧ (t.wave k).pc = (s.wave k).pc ∧ (t.wave k).susp = (s.wave k).susp) ∧
      ∀ a, memGet t.mem a = memGet s.mem a) ∧
  (∀ s n m g G, tget s.teams n = some m → m.life = .halted → tget s.gangs m.gang = some g → g.life = .halting →
    tget s.grids (gridKey g.part g.vertex) = some G →
    (∀ e ∈ s.reqs, ∀ o ∈ s.hops, o.2.team = n → e.2.flight ≠ o.1) →
    (∀ e ∈ (s.cluster (m.core / 4)).comb, e.2.key.part = g.part → e.2.due = false) →
    ((∃ k ∈ s.gangTeams m.gang, k ≠ n ∧ (s.team k).life ≠ .saved) →
      exec (.teamSaved n) s = .next { s with teams := tput s.teams n { m with life := .saved } }) ∧
    ((∀ k ∈ s.gangTeams m.gang, k ≠ n → (s.team k).life = .saved) →
      ∃ t, exec (.teamSaved n) s = .next t ∧ (t.team n).life = .saved ∧
        tget t.gangs m.gang = some { g with life := g.goal } ∧ t.waves = s.waves ∧
        (g.goal = .saved → (t.grid (gridKey g.part g.vertex)).again = m.gang :: G.again) ∧
        ∀ a, memGet t.mem a = memGet s.mem a))

/-- An arrival takes one off a node's PEND; a waiting node whose PEND reaches zero fires at the write's timestamp: a record
that breaks a check is rejected with its code, and else a kernel node is ready, with a grid and an entry in its queue, and a
conditional or while node runs; a node that is ready or runs and re-arms counts a firing in AGAIN, one that does not lets the
arrival pass. A kernel node whose grid is complete counts a run, sends arrivals to the edges that live at its walk, and is
waiting or done, or fires again where AGAIN owes a firing (R407, R409, R410, R411, R441). -/
def Obligations.NodesFireAndComplete : Prop :=
  (∀ s p v x g tw rest, tget s.parts p = some x → tget x.graphs 0 = some g → x.migr.st < 3 → x.arrivals = (v, tw) :: rest →
    nodeBusy s p v = false → homeOffline s (g.owner (some v)) = false →
    let r := recOf s p v
    let T : Nat := max (tw + 1) ((g.vtx v).prts + 1)
    T + 2 ≤ s.ceil →
    let put (f : Nat → Nat) : Prop := ∃ t y, exec (.nodeArrival p v) s = .next t ∧ t = { s with parts := tput s.parts p y } ∧
      y.arrivals = rest ∧ recOf t p v = f r ∧ (∀ u, u ≠ v → recOf t p u = recOf s p u)
    (recState r = 0 ∨ (recState r = 1 ∧ 2 ≤ recPend r) → put fun r => setBits r 31 0 (recPend r - 1)) ∧
    (recState r = 1 → recPend r = 1 → badKind r = true → recNotify r = 0 →
      put fun r => setBits (setBits (setBits r 31 0 0) 43 41 5) 55 48 1) ∧
    (∀ s0 s1 code table, recState r = 1 → recPend r = 1 →
      recWrite { s with parts := tput s.parts p { x with arrivals := rest } } p v T (fun r => setBits r 31 0 0) = some s0 →
      fireCheck s0 p v T = (s1, some (code, table)) →
      let r1 := setBits r 31 0 (if recRearm r = true then recPend0 r else 0)
      (code ≠ 0 → recNotify r = 0 → ∃ t, exec (.nodeArrival p v) s = .next t ∧ (t.part p).arrivals = rest ∧
        recOf t p v = setBits (setBits (setBits r 31 0 0) 43 41 5) 55 48 code ∧ t.waves = s.waves ∧ t.grids = s.grids) ∧
      (code = 0 → recKind r = 1 ∨ recKind r = 2 → ∃ t f, exec (.nodeArrival p v) s = .next t ∧ (t.part p).arrivals = rest ∧
        recOf t p v = setBits r1 43 41 3 ∧ t.waves = s.waves ∧ t.grids = s.grids ∧ tget (t.part p).firings v = some f ∧
        f.kind = recKind r ∧ f.cond = recCond r ∧ f.pasid = recPasid r ∧ f.notify = recNotify r ∧ f.t = T) ∧
      (code = 0 → recKind r = 0 → ∃ t f G, exec (.nodeArrival p v) s = .next t ∧ (t.part p).arrivals = rest ∧
        recOf t p v = setBits r1 43 41 2 ∧ t.waves = s.waves ∧ tget (t.part p).firings v = some f ∧ f.kind = 0 ∧
        f.notify = recNotify r ∧ tget t.grids (gridKey p v) = some G ∧ G.entry = BitVec.ofNat 64 (recEntry r) ∧
        G.queue = recQueue r ∧ G.points = table ∧ G.fired = T ∧ G.top = T ∧ G.placed = 0 ∧ hasEntry t p v = true)) ∧
    (recState r = 2 ∨ recState r = 3 → recRearm r = false → put fun r => r) ∧
    (recState r = 2 ∨ recState r = 3 → recRearm r = true → 2 ≤ recPend r → put fun r => setBits r 31 0 (recPend r - 1)) ∧
    (recState r = 2 ∨ recState r = 3 → recRearm r = true → recPend r = 1 →
      (recAgain r < 255 → put fun r => setBits (setBits r 63 56 (recAgain r + 1)) 31 0 (recPend0 r)) ∧
      (recAgain r = 255 → put fun r => setBits r 55 48 7))) ∧
  (∀ s p v x g G f, tget s.parts p = some x → tget x.graphs 0 = some g → x.migr.st < 3 →
    tget s.grids (gridKey p v) = some G → G.done = true → tget x.firings v = some f → f.kind = 0 → f.stage = 0 → f.notify = 0 →
    homeOffline s (g.owner (some v)) = false →
    let r := recOf s p v
    let l := g.list v .out
    let tw := max G.top l.wts
    let T : Nat := max G.top ((g.vtx v).prts + 1)
    T + 1 ≤ s.ceil → tw ≤ s.ceil →
    let sent : List (Nat × Nat) := if G.killed then [] else (l.asOf tw).map fun e => (e.other, tw)
    (recRearm r = false ∨ recAgain r = 0 → ∃ t y, exec (.nodeCompletion p v) s = .next t ∧
      t = { s with parts := tput s.parts p y, grids := tdel s.grids (gridKey p v) } ∧ tget y.firings v = none ∧
      recOf t p v = setBits (setBits r 127 96 (recRuns r + 1)) 43 41 (if recRearm r then 1 else 4) ∧
      y.arrivals = x.arrivals ++ sent) ∧
    (recRearm r = true → 0 < recAgain r → badKind r = true → recNotify r = 0 → T + 2 ≤ s.ceil →
      ∃ t y, exec (.nodeCompletion p v) s = .next t ∧
        t = { s with parts := tput s.parts p y, grids := tdel s.grids (gridKey p v) } ∧ tget y.firings v = none ∧
        recOf t p v = setBits (setBits (setBits (setBits r 127 96 (recRuns r + 1)) 63 56 (recAgain r - 1)) 43 41 5) 55 48 1 ∧
        y.arrivals = x.arrivals ++ sent))

/-- A doorbell at a free mailbox of function 0 starts its command, and the command leaves its result: PART_CREATE a
partition with every register at its reset value and a task graph stamped with xts; PART_DELETE of a partition with no
work left discards it; WARM_RESET begins step 1; RECOVER takes a verified image in recovery mode; RETIRE retires a
unit; and each reports a bad argument or an absent target with its code (R448, R449, R452, R457, R458, R464). -/
def Obligations.ControllerCommandsRun : Prop :=
  ∀ s, (s.mbox 0).busy = false → tget s.ctrl.ends 0 = none →
    let runs (i : Instr) (op : Nat) (tag : BitVec 16) (args : List DWord) (f : State → Prop) : Prop :=
      ∃ t, exec i s = .next t ∧ (t.mbox 0).busy = true ∧
        (t.mbox 0).run = some (BitVec.ofNat 64 (op + 65536 * tag.toNat), args) ∧
        (∀ a, memGet t.mem a = memGet s.mem a) ∧ t.waves = s.waves ∧ f t
    let reports (i : Instr) (op : Nat) (tag : BitVec 16) (args : List DWord) (code : Nat) : Prop :=
      runs i op tag args fun t => tget t.ctrl.ends 0 = some { code := code, res := [] } ∧ t.parts = s.parts
    (s.ctrl.recovery = false → resetDie s = none → ∀ tag (a0 a1 a2 a3 a4 a5 : DWord),
      let first := a0.toNat % 16
      let size := a0.toNat / 256 % 16
      (createCode s [a0, a1, a2, a3, a4, a5] = 0 →
        runs (.partCreate tag a0 a1 a2 a3 a4 a5) 1 tag [a0, a1, a2, a3, a4, a5] fun t =>
          tget t.ctrl.ends 0 = some { code := 0, res := [BitVec.ofNat 64 first] } ∧
          (∃ x g, tget t.parts first = some x ∧ x.size = size ∧ x.regs = PRegs.fresh ∧ x.imgBase = a1.toNat ∧
            x.imgSize = a2.toNat ∧ x.graphs = [(0, g)] ∧ x.faults = [] ∧ x.active = none ∧ g.base = a3.toNat ∧ g.size = a4.toNat ∧
            g.vcap = a5.toNat ∧ g.psize = 256 ∧ g.eps = true ∧ g.t = s.xts ∧ g.verts = []) ∧
          (∀ k, k ≠ first → tget t.parts k = tget s.parts k) ∧
          ∀ c, 8 * first ≤ c → c < 8 * first + 8 * size → (t.cluster c).owner = some first) ∧
      (createCode s [a0, a1, a2, a3, a4, a5] ≠ 0 →
        reports (.partCreate tag a0 a1 a2 a3 a4 a5) 1 tag [a0, a1, a2, a3, a4, a5] (createCode s [a0, a1, a2, a3, a4, a5]))) ∧
    (s.ctrl.recovery = false → resetDie s = none → ∀ tag (a0 : DWord),
      let p := a0.toNat
      (tget s.parts p = none → reports (.partDelete tag a0) 2 tag [a0] 6) ∧
      (∀ x, p < 12 → tget s.parts p = some x → x.faults = [] → partWork s p = false →
        runs (.partDelete tag a0) 2 tag [a0] fun t => tget t.parts p = none ∧ tget t.mboxes (p + 1) = none ∧
          tget t.ctrl.ends 0 = some { code := 0, res := [] } ∧ ∀ k, k ≠ p → tget t.parts k = tget s.parts k)) ∧
    (s.ctrl.recovery = false → ∀ tag (a0 : DWord),
      (4 ≤ a0.toNat → reports (.warmReset tag a0) 3 tag [a0] 2) ∧
      (a0.toNat < 4 → resetDie s = none → runs (.warmReset tag a0) 3 tag [a0] fun t => t.ctrl = s.ctrl ∧
        (t.mbox 0).going = true ∧ t.dies = tput s.dies a0.toNat { s.die a0.toNat with st := .reset 1 })) ∧
    (∀ tag (a0 a1 : DWord),
      (s.ctrl.recovery = false → reports (.recover tag a0 a1) 4 tag [a0, a1] 7) ∧
      (s.ctrl.recovery = true → a0.toNat % 4096 = 0 → Config.hostBase + a0.toNat + a1.toNat ≤ Config.physEnd →
        let image := (List.range a1.toNat).map fun i => memGet s.mem (Config.hostBase + a0.toNat + i)
        (Config.imageVerifies image = true → runs (.recover tag a0 a1) 4 tag [a0, a1] fun t =>
          t.ctrl = { s.ctrl with firmware := image, recovery := false, ends := tput s.ctrl.ends 0 { code := 0, res := [] } }) ∧
        (Config.imageVerifies image = false → reports (.recover tag a0 a1) 4 tag [a0, a1] 2))) ∧
    (s.ctrl.recovery = false → ∀ tag (a0 a1 : DWord),
      (3 ≤ a0.toNat ∨ (a0.toNat = 0 ∧ 12 ≤ a1.toNat) ∨ 16 ≤ a1.toNat → reports (.retire tag a0 a1) 5 tag [a0, a1] 2) ∧
      (a0.toNat = 1 → a1.toNat < 16 → runs (.retire tag a0 a1) 5 tag [a0, a1] fun t =>
        a1.toNat ∈ t.ctrl.retTier ∧ (∀ n ∈ s.ctrl.retTier, n ∈ t.ctrl.retTier) ∧ t.parts = s.parts ∧
        tget t.ctrl.ends 0 = some { code := 0, res := [] }) ∧
      (a0.toNat = 2 → a1.toNat < 16 → runs (.retire tag a0 a1) 5 tag [a0, a1] fun t =>
        a1.toNat ∈ t.ctrl.retPort ∧ (∀ n ∈ s.ctrl.retPort, n ∈ t.ctrl.retPort) ∧ t.parts = s.parts ∧
        tget t.ctrl.ends 0 = some { code := 0, res := [] }))

/-- The commands of a partition's function, and what every mailbox does. RESUME releases a suspended gang, which waits
to be placed; KILL ends the named gangs' teams with their waves; both report a target that is not there. A doorbell
while BUSY is lost; an opcode that is not listed ends with BAD_CMD; a command that has ended writes its results, its
tag and its code, clears BUSY and raises the vector. An SPDM request is answered, one for measurements with the SHA-512 digest
of the firmware, the fuse state and the policy versions (R8, R441, R457, R458, R465). -/
def Obligations.PartitionCommandsRun : Prop :=
  (∀ s p x tag (a0 a1 : DWord), tget s.parts p = some x → (s.mbox (p + 1)).busy = false → tget s.ctrl.ends (p + 1) = none →
    a0.toNat < 2 ^ 32 → a1.toNat < 2 ^ 32 →
    let named (g : Gang) : Prop := g.part = p ∧ g.vertex = a0.toNat ∧ (a1.toNat = 0xFFFFFFFF ∨ g.q = a1.toNat)
    ((∀ e ∈ s.gangs, e.2.part = p → e.2.vertex = a0.toNat → (s.gang e.1).life = .resident) →
      ∃ t, exec (.resume (p + 1) tag a0 a1) s = .next t ∧ tget t.ctrl.ends (p + 1) = some { code := 6, res := [] } ∧
        t.gangs = s.gangs) ∧
    (∀ gid g G, s.gangs = [(gid, g)] → named g → g.life = .suspended → x.faults = [] →
      tget s.grids (gridKey p a0.toNat) = some G →
      ∃ t, exec (.resume (p + 1) tag a0 a1) s = .next t ∧
        tget t.ctrl.ends (p + 1) = some { code := 0, res := [1] } ∧ (t.gang gid).life = .saved ∧
        (t.grid (gridKey p a0.toNat)).again = gid :: G.again ∧ t.waves = s.waves) ∧
    (tget s.grids (gridKey p a0.toNat) = none →
      ∃ t, exec (.kill (p + 1) tag a0 a1 0) s = .next t ∧ tget t.ctrl.ends (p + 1) = some { code := 6, res := [] } ∧
        t.waves = s.waves) ∧
    (∀ G, tget s.grids (gridKey p a0.toNat) = some G → G.drained = false →
      ∃ t, exec (.kill (p + 1) tag a0 a1 0) s = .next t ∧
        (∃ r, tget t.ctrl.ends (p + 1) = some { code := 0, res := r }) ∧
        (∀ gid g n m i w, tget s.gangs gid = some g → named g → tget s.teams n = some m → m.gang = gid →
          tget s.waves i = some w → w.team = n → tget t.teams n = none ∧ tget t.waves i = none))) ∧
  (∀ s fn (cmd : DWord), (fn = 0 ∨ (tget s.parts (fn - 1)).isSome) →
    let m := s.mbox fn
    (m.busy = true → exec (.mailboxDoorbellRefused fn cmd) s = .next { s with mboxes := tput s.mboxes fn { m with
      cmd := cmd &&& 0xFFFF00FF, lost := true } }) ∧
    (m.busy = false → tget s.ctrl.ends fn = none → s.ctrl.recovery = false →
      cmd.toNat % 256 ∉ (if fn = 0 then [1, 2, 3, 4, 5] else [0x10, 0x11]) →
      ∃ t, exec (.mailboxDoorbellRefused fn cmd) s = .next t ∧ (t.mbox fn).busy = true ∧
        tget t.ctrl.ends fn = some { code := 1, res := [] } ∧ t = { s with mboxes := t.mboxes, ctrl := t.ctrl })) ∧
  (∀ s fn cmd args e, (s.mbox fn).run = some (cmd, args) → tget s.ctrl.ends fn = some e → e.res.length ≤ 7 →
    ∃ t, exec (.mailboxCommandEnd fn) s = .next t ∧ (t.mbox fn).busy = false ∧ (t.mbox fn).code = e.code ∧
      BitVec.toNat (t.mbox fn).tag = cmd.toNat / 65536 % 65536 ∧ (t.mbox fn).run = none ∧
      (t.mbox fn).irq = (s.mbox fn).irq + 1 ∧ (t.mbox fn).res.length = 7 ∧ (t.mbox fn).res.take e.res.length = e.res ∧
      tget t.ctrl.ends fn = none ∧ (∀ k, k ≠ fn → t.mbox k = s.mbox k) ∧
      t = { s with mboxes := t.mboxes, ctrl := t.ctrl, freeCtr := t.freeCtr }) ∧
  (∀ s kind, ∃ ws, exec (.spdmRequest kind) s = .next { s with ctrl := { s.ctrl with
      spdm := s.ctrl.spdm ++ [{ kind := kind, words := ws }] } } ∧
    (kind = .measurement → ws = sha512 s.ctrl.firmware ++ [BitVec.ofNat 64 s.ctrl.fuse.toNat] ++
      s.parts.map fun e => e.2.regs.polVer.setWidth 64))

/-- A write of the host to a register of a partition stores its RW fields, within the ranges that the register tables
give, clears its W1C flags where ones are written and changes nothing else but the watchdog's count; a write of
SCHED_CTL begins a quantum (log entry 22). Offsets of no register are ignored; each half of a peer table entry is one
word; the mailboxes take their arguments. A read is answered with what the register holds: fields of commands, reserved fields
and offsets of no register read as zero (R5, R6, R130, R416, R444, R450, R456, R457, R461, R484). -/
def Obligations.RegistersAreWrittenByTheHost : Prop :=
  ∀ s p x (value : DWord), tget s.parts p = some x →
    let n := value.toNat
    let b (hi lo : Nat) : Nat := n / 2 ^ lo % 2 ^ (hi + 1 - lo)
    let stores (off : Nat) (y : Part) : Prop :=
      exec (.registerWrite p off value) s = .next { s with parts := tput s.parts p { y with wdSince := s.cycle } }
    let sets (off : Nat) (r : PRegs) : Prop := stores off { x with regs := r }
    sets 0x1000 { x.regs with lease := max 8 (min 256 (b 8 0)) } ∧
    sets 0x1080 { x.regs with
      quotaOld := if s.cycle / 32 ≤ x.regs.quotaWin then x.regs.quotaOld else x.regs.accQuota
      quotaWin := s.cycle / 32
      accQuota := max 1 (min 32 (b 5 0)) } ∧
    sets 0x1100 { x.regs with thrEn := value.getLsbD 8, thrLimit := b 7 0 } ∧
    sets 0x1180 { x.regs with
      wdFired := x.regs.wdFired && !value.getLsbD 63
      wdExt := x.regs.wdExt && !value.getLsbD 62
      wdPeriod := b 31 0 } ∧
    sets 0x2008 { x.regs with polSrc := BitVec.ofNat 64 (4 * b 59 2) } ∧
    stores 0x2018 { x with
      regs := { x.regs with quantum := b 31 16, forceFb := value.getLsbD 0 }
      quantumAt := s.cycle } ∧
    sets 0x2028 { x.regs with decRing := BitVec.ofNat 64 (4096 * b 51 12 + b 4 0) } ∧
    sets 0x2030 { x.regs with decTail := b 63 32 } ∧
    (∀ k, k < 6 → sets (0x2800 + 8 * k) { x.regs with floors := tput x.regs.floors k (min 256 (b 8 0)) }) ∧
    sets 0x3000 { x.regs with pasidTab := BitVec.ofNat 64 (4096 * b 51 12 + 32 * b 5 5 + min 20 (b 4 0)) } ∧
    sets 0x3010 { x.regs with tlbErr := x.regs.tlbErr && !value.getLsbD 1 } ∧
    sets 0x3018 { x.regs with faultRing := BitVec.ofNat 64 (4096 * b 51 12 + b 3 0) } ∧
    sets 0x3028 { x.regs with trapRing := BitVec.ofNat 64 (4096 * b 51 12 + b 0 0) } ∧
    (∀ k, k < 256 →
      stores (0x9000 + 16 * k) { x with peers := tput x.peers k ((((tget x.peers k).getD 0).extractLsb' 64 64) ++ value) } ∧
      stores (0x9008 + 16 * k) { x with peers := tput x.peers k (value ++ ((tget x.peers k).getD 0).extractLsb' 0 64) }) ∧
    (∀ off, off % 8 ≠ 0 → off < 0x10000 → stores off x) ∧
    (b 63 62 = 3 → stores 0x3008 x) ∧
    (∀ k, k < 7 → (s.mbox (p + 1)).args.length ≤ 7 →
      exec (.registerWrite p (0x10008 + 8 * k) value) s = .next { s with
        parts := tput s.parts p { x with wdSince := s.cycle }
        mboxes := tput s.mboxes (p + 1) { s.mbox (p + 1) with
          args := ((s.mbox (p + 1)).args ++ List.replicate (7 - (s.mbox (p + 1)).args.length) 0).set k value } }) ∧
    let reads (r : HostRead) (v : Nat) : Prop := v < 2 ^ 64 →
      (hostRead s r).answers = s.answers ++ [{ t := s.xts, data := natBytes v 8, ok := true }]
    reads (.window p 0x1000) x.regs.lease ∧
    reads (.window p 0x8000) ((x.migr.seq - 1) % 2 ^ 16 * 2 ^ 16 + x.migr.err.toNat * 2 ^ 12 + x.migr.st * 2 ^ 8) ∧
    (∀ k, k < 256 → let y := ((tget x.peers k).getD 0).toNat
      reads (.window p (0x9000 + 16 * k)) (y % 2 + y / 2 ^ 16 % 2 ^ 16 * 2 ^ 16 + y / 2 ^ 32 % 2 ^ 4 * 2 ^ 32 + y / 2 ^ 48 % 2 ^ 16 * 2 ^ 48) ∧
      reads (.window p (0x9008 + 16 * k)) (y / 2 ^ 80 % 2 ^ 36 * 2 ^ 16)) ∧
    (∀ off, off % 8 ≠ 0 → reads (.window p off) 0) ∧
    reads (.mailbox (p + 1) 0x80) 0 ∧
    reads (.mailbox (p + 1) 0) ((s.mbox (p + 1)).cmd &&& 0xFFFF00FF).toNat

/-- A record of the graph port performs its operation on a graph of the partition with xts as its pts, and raises xts to
its timestamp; its slot answers DONE with the status and word 1. No graph answers NO_GRAPH, and a record that is not
listed BAD_DESC. A record that comes while another of its slot is pending waits behind it (R349 to R352, R354, R355,
R459). -/
def Obligations.GraphPortRecordsAreAnswered : Prop :=
  (∀ s p x slot gid, tget s.parts p = some x → slot < 256 → s.dies = [] → x.migr.st ≠ 3 → tget x.portQ slot = none →
    let answers (i : Instr) (st w1 : Nat) (f : State → Part → Prop) : Prop := ∃ t y d, exec i s = .next t ∧
      tget t.parts p = some y ∧ tget y.slots slot = some (BitVec.ofNat 64 (2 ^ 63 + 2 ^ 32 * st + w1), d) ∧
      t.waves = s.waves ∧ (∀ a, memGet t.mem a = memGet s.mem a) ∧ f t y
    (∀ u v h off rank pay data, tget x.graphs gid = none →
      let none_ (i : Instr) : Prop := ∃ w1, w1 < 2 ^ 32 ∧ answers i 1 w1 fun t y => y.graphs = x.graphs ∧ t.xts = s.xts
      none_ (.portGnewv p slot gid h) ∧ none_ (.portGadd p slot gid u v pay) ∧ none_ (.portGdel p slot gid u rank) ∧
        none_ (.portGstv p slot gid u off data) ∧ none_ (.portGldv p slot gid u off) ∧ none_ (.portGdeg p slot gid u)) ∧
    (∃ w1, w1 < 2 ^ 32 ∧ answers (.graphPortInvalidRecord p slot) 8 w1 fun t y => y.graphs = x.graphs ∧ t.xts = s.xts) ∧
    (∀ g, tget x.graphs gid = some g → gid ≠ 0 → g.t ≤ s.xts →
      let does (i : Instr) (w1 T : Nat) (f : Graph → Prop) : Prop := answers i 0 w1 fun t y => t.xts = max s.xts T ∧
        ∃ gg, tget y.graphs gid = some gg ∧ f gg
      let ok (v : Nat) : Prop := v < g.vcap ∧ (g.vtx v).alloc = true
      let ends (g : Graph) (v : Nat) (d : Dir) : List Nat := ((g.list v d).now).map (·.other)
      (∀ h v, h ≤ v → v < g.vcap → (g.vtx v).alloc = false → (∀ k, h ≤ k → k < v → (g.vtx k).alloc = true) →
        let T := max (max s.xts (max (g.arts + 1) ((g.vtx v).prts + 1))) (max ((g.list v .out).rts + 1) ((g.list v .inn).rts + 1))
        T ≤ s.ceil → does (.portGnewv p slot gid h) (v % 2 ^ 32) T fun gg => (gg.vtx v).alloc = true ∧ gg.awts = T ∧
          ∀ k, k ≠ v → gg.vtx k = g.vtx k) ∧
      (∀ u v pay, ok u → ok v → (g.list u .out).degree < 2 ^ 32 - 2 → (g.list v .inn).degree < 2 ^ 32 - 2 →
        let T := max s.xts (max ((g.list u .out).rts + 1) ((g.list v .inn).rts + 1))
        T ≤ s.ceil → (∀ e ∈ (g.list u .out).recs, e.key ≤ T) → (∀ e ∈ (g.list v .inn).recs, e.key ≤ T) →
        g.used + 2 ≤ g.pages → twf g.verts = true →
        does (.portGadd p slot gid u v pay) (g.list u .out).degree T fun gg => ends gg u .out = ends g u .out ++ [v] ∧
          ends gg v .inn = ends g v .inn ++ [u] ∧ ∃ e, (gg.list u .out).recs.getLast? = some e ∧
            e.pay = (if g.eps then pay else 0)) ∧
      (∀ u rank e, ok u → (g.list u .out).now[rank]? = some e → ((g.list u .out).recs.map (·.eid)).Nodup →
        let T := max s.xts (max ((g.list u .out).rts + 1) ((g.list e.other .inn).rts + 1))
        T ≤ s.ceil → does (.portGdel p slot gid u rank) (e.other % 2 ^ 32) T fun gg =>
          ends gg u .out = (ends g u .out).eraseIdx rank) ∧
      (∀ v off data, ok v → 8 * off + 16 ≤ g.psize → max s.xts ((g.vtx v).prts + 1) ≤ s.ceil →
        ∃ w1, w1 < 2 ^ 32 ∧ does (.portGstv p slot gid v off data) w1 (max s.xts ((g.vtx v).prts + 1)) fun gg =>
          (gg.vtx v).rdPay (8 * off) 16 = natBytes data.toNat 16 ∧ ∀ k, k ≠ v → gg.vtx k = g.vtx k) ∧
      (∀ v off, ok v → 8 * off + 16 ≤ g.psize → max s.xts (g.vtx v).pwts ≤ s.ceil →
        answers (.portGldv p slot gid v off) 0 0 fun t y => t.xts = max s.xts (g.vtx v).pwts ∧
          (tget y.slots slot).map (·.2) = some (BitVec.ofNat 128 (bytesNat ((g.vtx v).rdPay (8 * off) 16)))) ∧
      (∀ v, ok v → max s.xts (g.list v .out).wts ≤ s.ceil →
        does (.portGdeg p slot gid v) ((g.list v .out).degree % 2 ^ 32) (max s.xts (g.list v .out).wts) fun gg =>
          gg.list v .out = { g.list v .out with rts := max (g.list v .out).rts (max s.xts (g.list v .out).wts) }))) ∧
  (∀ s p x slot q i, tget s.parts p = some x → slot < 256 → tget x.portQ slot = some q → q ≠ [] →
    (∃ gid u v h off pay data, i ∈ [Instr.portGnewv p slot gid h, .portGadd p slot gid u v pay, .portGdel p slot gid u v,
      .portGstv p slot gid u off data, .portGldv p slot gid u off, .portGdeg p slot gid u, .graphPortInvalidRecord p slot]) →
    exec i s = .next { s with parts := tput s.parts p { x with
      wdSince := s.cycle, portQ := tput x.portQ slot (q ++ [i]) } })

/-- A request of the host to a window, or of a peer to the windows of its partition, is stamped with xts and performed at the
line's home: a write, atomic or accumulate at max(xts, rts + 1), a read at max(xts, wts); xts rises to its timestamp, and a
cacheable read of the host marks the line. A peer's write waits while the host holds a copy, and a peer's request outside the
windows is refused (R112, R116, R124, R151, R460, R461). HOST_SNOOP takes a line from the tier cache
at max(xts, rts + 1), which xts becomes and the home's retired maxima take in, drops its monitors and writes what the
host wrote. With ownership a tier-cache line may be written, and a write that waited for it is performed; the answer
to a back-invalidation clears the marks of a line (R111, R113, R114, R116, R223). -/
def Obligations.HostAndPeersReachMemory : Prop :=
  (∀ s pa n i (mine : Nat → Bool),
     let home := extHome s pa
     let k := lineKey home pa
     let l : Line := (tget s.lines k).getD { Line.fresh with wts := (s.home home).rw, rts := (s.home home).rd }
     let old : List Byte := (List.range n).map fun j => memGet s.mem (pa + j)
     inWindow s mine pa n = true → homeOffline s home = false → l.use = 0 → deadTier s pa = false →
     (∀ new ans, max s.xts (l.rts + 1) ≤ s.ceil →
       (∃ c, i = Instr.hostCxlMemRequest true c pa new ∧ mine = (fun _ => true) ∧ n = new.length ∧ ans = []) ∨
       (∃ part op, i = .peerRequest part pa op ∧ mine = (· == part) ∧ l.hostMark = false ∧
         ((op = .write new ∧ n = new.length ∧ ans = []) ∨
          (∃ aop ty b cmp, op = .atom aop ty b cmp ∧ n = 4 * tyRegs ty ∧ ans = old ∧
            new = natBytes (atomOp aop ty (BitVec.ofNat 64 (bytesNat old)) b cmp).toNat n) ∨
          (∃ aop ty y, op = .acc aop ty y ∧ n = 4 * tyRegs ty ∧ ans = [] ∧
            new = natBytes (accCombine aop ty (BitVec.ofNat 64 (bytesNat old)) y).toNat n))) →
       let T := max s.xts (l.rts + 1)
       ∃ t ln, exec i s = .next t ∧ t.xts = T ∧
         t.answers = s.answers ++ [if ans ≠ [] ∧ poisoned s pa n = true then { t := T, data := [], ok := false }
           else { t := T, data := ans, ok := true }] ∧
         tget t.lines k = some ln ∧ ln.wts = T ∧ ln.rts = T ∧ ln.hostMark = l.hostMark ∧ t.waves = s.waves ∧
         ∀ a, memGet t.mem a = if pa ≤ a ∧ a < pa + n then new.getD (a - pa) 0 else memGet s.mem a) ∧
     (∀ mark, max (max s.xts l.wts) l.rts ≤ s.ceil →
       (∃ data, i = .hostCxlMemRequest false mark pa data ∧ mine = (fun _ => true) ∧ n = data.length) ∨
       (∃ part, i = .peerRequest part pa (.read n) ∧ mine = (· == part) ∧ mark = false) →
       let T := max s.xts l.wts
       ∃ t ln, exec i s = .next t ∧ t.xts = T ∧
         t.answers = s.answers ++ [if poisoned s pa n = true then { t := T, data := [], ok := false }
           else { t := T, data := old, ok := true }] ∧
         tget t.lines k = some ln ∧ ln.wts = l.wts ∧ ln.rts = max l.rts T ∧ ln.hostMark = (l.hostMark || mark) ∧
         t.waves = s.waves ∧ ∀ a, memGet t.mem a = memGet s.mem a)) ∧
  (∀ s part pa op, inWindow s (· == part) pa (peerSize op) = false →
     exec (.peerRequest part pa op) s = .next { s with answers := s.answers ++ [{ t := s.xts, data := [], ok := false }] }) ∧
  ((∀ s pa data, isHost pa = true → data.length ≤ 128 →
     let home := homeOf pa false
     let k := lineKey home pa
     let l : Line := (tget s.lines k).getD { Line.fresh with wts := (s.home home).rw, rts := (s.home home).rd }
     let T := max s.xts (l.rts + 1)
     T ≤ s.ceil → keyHome k = home →
     ∃ t, exec (.hostSnoop pa data) s = .next t ∧ t.xts = T ∧ tget t.lines k = none ∧ T ≤ (t.home home).rw ∧ T ≤ (t.home home).rd ∧
       (∀ m ∈ t.monitors, ¬ (m.2.home = home ∧ m.2.pa / 128 = pa / 128)) ∧ t.waves = s.waves ∧
       ∀ a, memGet t.mem a = if pa / 128 * 128 ≤ a ∧ a < pa / 128 * 128 + data.length
         then data.getD (a - pa / 128 * 128) 0 else memGet s.mem a) ∧
   (∀ s line, isHost (128 * line) = true →
     let home := homeOf (128 * line) false
     let k := lineKey home (128 * line)
     let l : Line := (tget s.lines k).getD { Line.fresh with wts := (s.home home).rw, rts := (s.home home).rd }
     ((∀ e ∈ s.reqs, e.2.armed = false) →
       ∃ t ln, exec (.hostOwnershipGrant line) s = .next t ∧ tget t.lines k = some ln ∧ ln.owned = true ∧ ln.wts = l.wts ∧
         ln.rts = l.rts ∧ t.reqs = s.reqs ∧ ∀ a, memGet t.mem a = memGet s.mem a) ∧
     (∀ id r new, s.reqs = [(id, r)] → r.kind = .write new → r.armed = true → r.home = home → r.pa / 128 = line →
       r.held = none → r.token = none → mayPerform s id r = true → l.hostMark = false →
       let T := max (max (s.core r.core).pts r.low) (l.rts + 1)
       T ≤ s.ceil →
       ∃ t rep, exec (.hostOwnershipGrant line) s = .next t ∧ t.reqs = [] ∧ tget t.reps id = some rep ∧ rep.t = T ∧
         ∀ a, memGet t.mem a = if r.pa ≤ a ∧ a < r.pa + new.length then new.getD (a - r.pa) 0 else memGet s.mem a)) ∧
   (∀ s line, (∀ e ∈ s.reqs, e.2.armed = false) →
     ∃ t, exec (.backInvalidationResponse line) s = .next t ∧ t = { s with lines := t.lines } ∧
       ∀ k, tget t.lines k = (tget s.lines k).map fun l => if keyAddr k = 128 * line then { l with hostMark := false } else l))

/-- An uncorrectable error of a line poisons its words; one of a storage in a core marks the word, the copy or the tile
where it stands, and no wave stops before it consumes the mark; each is counted against its unit and logged, and beyond
16 in a day its unit is retired (R443, R452). -/
def Obligations.ErrorsPoisonTrapAndRetire : Prop :=
  ∀ s,
    let fresh (k : Nat) : Nat := (((tget s.ctrl.errs k).getD []).filter fun c => decide (s.cycle < c + 129600000000000)).length
    let counts (t : State) (k : Nat) : Prop := (tget t.ctrl.errs k).map List.length = some (fresh k + 1) ∧ (s.cycle, 3) ∈ t.ctrl.log
    (∀ pa, isHbm pa = true →
      let slice := pa / Config.stackBytes
      ∃ t, exec (.uncorrectableError (.line pa)) s = .next t ∧ (∀ w, w ∈ t.poison ↔ w ∈ s.poison ∨ w / 32 = pa / 128) ∧
        counts t slice ∧ (∀ a, memGet t.mem a = memGet s.mem a) ∧
        (fresh slice < 16 → t.ctrl.retSlice = s.ctrl.retSlice ∧ t.gangs = s.gangs) ∧
        (16 ≤ fresh slice → slice ∈ t.ctrl.retSlice)) ∧
    (∀ pa, isTier pa = true →
      let unit := (Config.tierUnit (pa / 128)).toNat
      ∃ t, exec (.uncorrectableError (.line pa)) s = .next t ∧ (∀ w, w ∈ t.poison ↔ w ∈ s.poison ∨ w / 32 = pa / 128) ∧
        counts t (64 + unit) ∧ (16 ≤ fresh (64 + unit) → unit ∈ t.ctrl.retTier) ∧
        (fresh (64 + unit) < 16 → t.ctrl.retTier = s.ctrl.retTier)) ∧
    (∀ core unit team place lane, core < 384 → 1 ≤ unit → unit ≤ 5 → fresh (core / 32) < 16 →
      ∃ t, exec (.uncorrectableError (.core core unit team place lane)) s = .next t ∧ counts t (core / 32) ∧
        (∀ k, (t.wave k).susp = (s.wave k).susp ∧ (t.wave k).pc = (s.wave k).pc ∧ (t.wave k).v = (s.wave k).v) ∧
        t.poison = s.poison ∧ (∀ a, memGet t.mem a = memGet s.mem a) ∧
        (unit = 2 → ∀ cp, tget (s.core core).l1 place = some cp → tget (t.core core).l1 place = some { cp with bad := true }) ∧
        ∀ m, tget s.teams team = some m → m.core = core →
          (unit = 3 → ∀ g, tget s.gangs m.gang = some g →
            localOffset (s.gridOfGang g).nteam m.slot place / 4 ∈ (t.gang m.gang).badLoc) ∧
          (unit = 4 → place ∈ (t.team team).badTiles) ∧
          (unit = 1 ∨ unit = 5 → ∀ i w, tget s.waves i = some w → s.teamWaves team = [i] → w.idx = place / 512 →
            (place % 512, lane) ∈ (t.wave i).bad)) ∧
    (∀ n, n < 16 → ∃ t, exec (.uncorrectableError (.port n)) s = .next t ∧ counts t (128 + n) ∧
      (16 ≤ fresh (128 + n) → n ∈ t.ctrl.retPort))

/-- Limits, floors and alarms. The module's power limit raises the issue gap of each die by 4 for a millisecond over,
up to 48; a junction's limit sets the gap of its die, a stack's doubles its refresh rate; the effective floors are
those asked for, scaled where they sum to more than works; trips and the alarm end commits, commands and migrations,
and the alarm erases the key store where its fuse is blown (R450, R451, R463, R466). -/
def Obligations.LimitsAndAlarms : Prop :=
  (∀ s ms, ∃ t, exec (.modulePowerLimit ms) s = .next t ∧ t = { s with dies := t.dies } ∧
    ∀ d, t.die d = if d < 4 then { s.die d with gap := min 48 ((s.die d).gap + 4 * ms) } else s.die d) ∧
  (∀ s d gap, d < 4 → exec (.junctionTempLimit d gap) s = .next { s with
    dies := tput s.dies d { s.die d with gap := min 48 gap } }) ∧
  (∀ s n, n < 12 → ∃ t, exec (.hbmTempLimit n) s = .next t ∧ n ∈ t.ctrl.halfRate ∧
    (∀ k, k ∈ t.ctrl.halfRate → k = n ∨ k ∈ s.ctrl.halfRate) ∧ t = { s with ctrl := { s.ctrl with halfRate := t.ctrl.halfRate } }) ∧
  (∀ s, s.ctrl.deleting = [] → ∃ t, exec .floorRecompute s = .next t ∧
    (∀ p x, tget s.parts p = some x → ∃ y, tget t.parts p = some y ∧ y = { x with regs := { x.regs with effs := y.regs.effs } } ∧
      ∀ n, n < 6 →
        let asked := (tget x.regs.floors n).getD 0
        let sum := (s.parts.map fun e => (tget e.2.regs.floors n).getD 0).sum
        let share := 256 * (16 - (if n = 1 then s.ctrl.retTier.length else if n = 4 then s.ctrl.retPort.length else 0)) / 16
        (tget y.regs.effs n).getD 0 = if sum ≤ share then asked else asked * share / sum) ∧
    t = { s with parts := t.parts, ctrl := t.ctrl, mboxes := t.mboxes }) ∧
  (∀ s i, (i = Instr.thermalTrip ∨ i = .coolantFlowTrip ∨ i = .securityAlarm) →
    ∃ t, exec i s = .next t ∧ (∀ p x, tget s.parts p = some x → ∃ y, tget t.parts p = some y ∧ y.commit = none ∧
        y.regs.busy = false ∧ y.migr.st = 0 ∧ y.active = x.active ∧ y.graphs = x.graphs) ∧
      (∀ k m, tget s.mboxes k = some m → (t.mbox k).busy = false ∧ (t.mbox k).run = none) ∧
      (i = .securityAlarm → t.ctrl = { s.ctrl with alarm := true, keys := s.ctrl.keys && !s.ctrl.fuse }) ∧
      (i ≠ .securityAlarm → t.ctrl = { s.ctrl with tripped := true } ∧ (t.mbox 0).irq = (s.mbox 0).irq + 1) ∧
      t = { s with parts := t.parts, mboxes := t.mboxes, ctrl := t.ctrl })

/-- The full-device reset and the bring-up leave every timestamp at zero, the ceiling at 0x10_0000, no partition and
nothing placed; the first keeps memory (with storage under dropped dirty lines), the second only the host's; a
firmware image that does not verify brings the controller up in recovery mode (R118, R462, R464). A warm reset goes
step by step, each once the step before it has ended: gangs halt, homes perform what they hold and stop, requests leave the
links, caches clear, and the die is re-admitted above every live timestamp with its
generation raised (R120, R446). -/
def Obligations.ResetsAndReadmission : Prop :=
  (∀ s i, (i = Instr.fullDeviceReset ∨ i = .powerOn) → ∃ t, exec i s = .next t ∧
    t = { State.reset with agenda := s.agenda, nextId := s.nextId, freeCtr := s.freeCtr, cycle := s.cycle, ticked := s.cycle,
                           halved := s.cycle, dies := t.dies, mem := t.mem, poison := t.poison, ctrl := t.ctrl } ∧
    (∀ d, d < 4 → t.die d = { Die.fresh with clk := s.cycle }) ∧
    t.ctrl.retSlice = s.ctrl.retSlice ∧ t.ctrl.retTier = s.ctrl.retTier ∧ t.ctrl.retPort = s.ctrl.retPort ∧
    t.ctrl.firmware = s.ctrl.firmware ∧
    ((∀ e ∈ s.lines, e.2.dirty = false) →
      (i = .fullDeviceReset → t.poison = s.poison ∧ ∀ a, memGet t.mem a = memGet s.mem a) ∧
      (i = .powerOn → ∀ a, memGet t.mem a = if isHost a then memGet s.mem a else Config.unwritten)) ∧
    (i = .powerOn → t.ctrl.alarm = false ∧ t.ctrl.tripped = false ∧ (t.ctrl.recovery = true ↔ Config.imageVerifies s.ctrl.firmware = false))) ∧
  (∀ s d, d < 4 →
    let to_ (k : Nat) (f : State → Prop) : Prop := ∃ t, exec (.dieReadmission d) s = .next t ∧ (t.die d).st = .reset k ∧ f t
    ((s.die d).st = .reset 1 → to_ 2 fun t =>
      (∀ n g, tget s.gangs n = some g → g.life = .resident → g.core0 / 96 = d →
        tget t.gangs n = some { g with life := .halting, goal := .saved, haltAt := s.cycle }) ∧
      ∀ k m, tget s.teams k = some m → (s.gang m.gang).life = .resident → (s.gang m.gang).core0 / 96 = d →
        tget s.gangs m.gang = some (s.gang m.gang) → (tget t.teams k).map (·.life) = some .halting) ∧
    ((s.die d).st = .reset 2 → dieGangs s d = [] →
      to_ 3 fun t => t = { s with dies := tput s.dies d { s.die d with st := .reset 3 } }) ∧
    ((s.die d).st = .reset 3 → dieHolds s d = false → to_ 4 fun t =>
      (∀ m ∈ t.monitors, onDie d m.2.home = false) ∧
      (∀ k l, tget s.lines k = some l → tget t.lines k = some (if onDie d (keyHome k) then { l with dirty := false, backing := [] } else l)) ∧
      ∀ a, memGet t.mem a = memGet s.mem a) ∧
    ((s.die d).st = .reset 2 → dieGangs s d ≠ [] → exec (.dieReadmission d) s = .next s) ∧
    ((s.die d).st = .reset 3 → dieHolds s d = true → exec (.dieReadmission d) s = .next s) ∧
    ((s.die d).st = .reset 4 → dieLinks s d = true → exec (.dieReadmission d) s = .next s) ∧
    ((s.die d).st = .reset 4 → dieLinks s d = false → (s.die d).unrec = [] → to_ 6 fun t =>
      (∀ k, onDie d (keyHome k) = true → tget t.lines k = none) ∧
      (∀ k x, tget s.cores k = some x → k / 96 = d → t.core k = { Core.fresh with pts := x.pts }) ∧
      (t.die d).tlb = [] ∧ (t.die d).walks = [] ∧ (t.die d).queue = [] ∧ (t.die d).pages = [] ∧ (t.die d).clk = s.cycle ∧
      ∀ a, memGet t.mem a = memGet s.mem a) ∧
    ((s.die d).st = .reset 6 → (∀ g ∈ s.gangs, g.2.awaits d = false) → (∀ e ∈ s.parts, (s.part e.1).migr.held = []) → ∃ t F, exec (.dieReadmission d) s = .next t ∧
      (t.die d).st = .running ∧ (t.die d).gen = ((s.die d).gen + 1) % 256 ∧ d ∈ t.ctrl.doneReset ∧ F + 2 ^ 20 ≤ t.ceil ∧
      s.xts + 2 ^ 20 ≤ F ∧ (∀ k x, tget s.cores k = some x → k / 96 ≠ d → x.pts + 2 ^ 20 ≤ F) ∧
      (∀ k l, tget s.lines k = some l → onDie d (keyHome k) = false → max l.wts l.rts + 2 ^ 20 ≤ F) ∧
      (∀ k, k < 384 → (t.core k).pts = if k / 96 = d then F else (s.core k).pts) ∧
      (∀ h, h < 780 → onDie d h = true → (t.home h).rw = F ∧ (t.home h).rd = F) ∧
      ∀ a, memGet t.mem a = memGet s.mem a))

/-- MIG_CTL moves a partition between its states as Table 23-4 says: PRECOPY, STOP, which pre-empts every gang,
CONTINUE and RESUME; a command that its state does not list, or a value that is none, sets ERR, and a warm reset holds one that
it lists. STOPPING ends when no
gang holds a core, no decision is left and no request or accumulate is out. A source streams HBM and then the other kinds; a
destination takes the next chunk in sequence, and sets ERR on any other (R453 to R455). -/
def Obligations.MigrationMovesAPartition : Prop :=
  ∀ s p x, tget s.parts p = some x →
    let to_ (m : Migr) : State := { s with parts := tput s.parts p { x with migr := m } }
    let told (m : Migr) : State := { s with parts := tput s.parts p { x with migr := m, wdSince := s.cycle } }
    let err : State := told { x.migr with err := true }
    (resetDie s = none →
      (x.migr.st = 0 → exec (.migPrecopy p) s = .next (told { Migr.fresh with st := 1, err := x.migr.err })) ∧
      (x.migr.st ≠ 0 → exec (.migPrecopy p) s = .next err) ∧
      ((x.migr.st = 0 ∨ x.migr.st = 1) → ∃ t, exec (.migStop p) s = .next t ∧ (t.part p).migr.st = 2 ∧
        (∀ n g, tget s.gangs n = some g → g.part = p → g.life = .resident →
          tget t.gangs n = some { g with life := .halting, goal := .saved, haltAt := s.cycle }) ∧
        ∀ a, memGet t.mem a = memGet s.mem a) ∧
      (2 ≤ x.migr.st → exec (.migStop p) s = .next err) ∧
      (x.migr.st = 3 → ∃ t y, exec (.migContinue p) s = .next t ∧ t = { s with parts := tput s.parts p y } ∧
        y = { x with migr := { x.migr with st := 0 }, decReqs := y.decReqs, wdSince := s.cycle } ∧ .dispatch ∈ y.decReqs) ∧
      (x.migr.st ≠ 3 → exec (.migContinue p) s = .next err) ∧
      (x.migr.st = 0 → s.gangs = [] → s.grids = [] →
        exec (.migResume p) s = .next (told { Migr.fresh with st := 4, err := x.migr.err })) ∧
      (x.migr.st ≠ 0 → exec (.migResume p) s = .next err) ∧
      (∀ cmd : BitVec 3, 5 ≤ cmd.toNat → exec (.migCtlInvalidCommand p cmd) s = .next err) ∧
      (x.migr.st = 2 → (∀ g ∈ s.gangs, g.2.part = p → (s.gang g.1).life ≠ .resident ∧ (s.gang g.1).life ≠ .halting) →
        x.dec = none → x.decReqs = [] → (∀ r ∈ s.reqs, r.2.part ≠ p) → (∀ d ∈ s.dies, ∀ u ∈ d.2.unrec, u.1.part ≠ p) →
        (∀ e ∈ x.firings, e.2.stage = 0) → (∀ r ∈ s.areqs, r.2.key.part ≠ p) →
        (∀ c ∈ s.clusters, (∀ e ∈ c.2.comb, e.2.key.part ≠ p) ∧ ∀ e ∈ c.2.resid, e.2.key.part ≠ p) →
        exec (.stoppingEnd p) s = .next (to_ { x.migr with st := 3, kind := 0, off := 0 }))) ∧
    ((resetDie s).isSome →
      (x.migr.st = 0 → exec (.migPrecopy p) s = .next (told { x.migr with held := x.migr.held ++ [1] })) ∧
      (x.migr.st = 0 ∨ x.migr.st = 1 → exec (.migStop p) s = .next (told { x.migr with held := x.migr.held ++ [2] })) ∧
      (x.migr.st = 3 → exec (.migContinue p) s = .next (told { x.migr with held := x.migr.held ++ [3] }))) ∧
    ((x.migr.st = 1 ∨ x.migr.st = 3) → x.migr.kind = 0 → x.migr.pass < x.size * Config.stackBytes →
      let n := min 4032 (x.size * Config.stackBytes - x.migr.pass)
      ∃ t c, exec (.migrationChunkRead p) s = .next t ∧ (t.part p).migr.last = some c ∧
        c = { kind := 0, seq := x.migr.seq % 2 ^ 32, addr := x.migr.pass, rsv := 0,
              data := (List.range n).map fun j => memGet s.mem (p * Config.stackBytes + x.migr.pass + j) } ∧
        (t.part p).migr.seq = x.migr.seq + 1 ∧ (t.part p).migr.pass = x.migr.pass + n ∧
        t = { s with parts := tput s.parts p { x with migr := (t.part p).migr } }) ∧
    (x.migr.st = 3 → x.migr.kind = 255 →
      ∃ t, exec (.migrationChunkRead p) s = .next t ∧ (t.part p).migr.last = some {
          kind := 255, seq := x.migr.seq % 2 ^ 32, addr := 0, rsv := 0, data := [] } ∧
        t = { s with parts := tput s.parts p { x with migr := (t.part p).migr } }) ∧
    (∀ c, x.migr.st = 4 →
      (c.rsv = 0 → c.seq = x.migr.seq % 2 ^ 32 → c.kind = 0 → c.data.length ≤ 4032 →
        c.addr + c.data.length ≤ x.size * Config.stackBytes →
        let base := p * Config.stackBytes + c.addr
        ∃ t, exec (.migrationChunkWrite p c) s = .next t ∧ (t.part p).migr = { x.migr with seq := x.migr.seq + 1 } ∧
          ∀ a, memGet t.mem a = if base ≤ a ∧ a < base + c.data.length then c.data.getD (a - base) 0 else memGet s.mem a) ∧
      (c.rsv = 0 → c.seq = x.migr.seq % 2 ^ 32 → 1 ≤ c.kind → c.kind ≤ 5 → c.data.length ≤ 4032 →
        c.addr = ((tget x.migr.taken c.kind).getD []).length →
        exec (.migrationChunkWrite p c) s = .next (to_ { x.migr with
          seq := x.migr.seq + 1
          taken := tput x.migr.taken c.kind ((tget x.migr.taken c.kind).getD [] ++ c.data) })) ∧
      (c.rsv ≠ 0 ∨ c.seq ≠ x.migr.seq % 2 ^ 32 ∨ (6 < c.kind ∧ c.kind ≠ 255) ∨ 4032 < c.data.length →
        exec (.migrationChunkWrite p c) s = .next (to_ { x.migr with err := true })))

/-- A few words written out from the encoding tables, of every engine, decode to the instructions they stand for; an
unassigned opcode, the guard 0b1111 and a reserved bit that is set are refused (R246 to R249, R253, R254, R262, R263).
-/
def Obligations.TableWordsAreDecoded : Prop :=
  let go (s : Option (BitVec 2)) : Hdr := ⟨⟨false, 7⟩, ⟨0, false, s, 0⟩⟩
  decodeTableWord 96 0x7040014010080600000000 = some (.iadd (go none) ⟨false, .v 5⟩ (.v 1) (.v 2) false .n32) ∧
  decodeTableWord 96 0x31a34040c0000008deadbeef =
    some (.movi ⟨⟨true, 2⟩, ⟨3, false, none, 0⟩⟩ ⟨false, .w 3⟩ 0xDEADBEEF .b32) ∧
  decodeTableWord 96 0x427040024018000c00000102 =
    some (.ffma (go none) ⟨false, .v 9⟩ (.v 1) (.latch 0) (.w 2) ⟨.rn, false, false, false⟩ .f32) ∧
  decodeTableWord 96 0x7070100280200009fffff840 = some (.ld (go (some 1)) (.v 10) (.v 2) 0xFFFFF8 ⟨1, 0⟩ .b64) ∧
  decodeTableWord 96 0xa7700003004001c000070000 = some (.gdeg (go (some 0)) 3 (.v 12) (.imm 7) (.v 4) .inn) ∧
  decodeTableWord 96 0xb27040000000000000000005 = some (.waitc (go none) .copy 5) ∧
  decodeTableWord 96 0xc070400000000000ffffffff = some (.bra (go none) 0xFFFFFFFF) ∧
  decodeTableWord 96 0xd07040000000000000000123 = some (.trap (go none) 0x123) ∧
  decodeTableWord 96 0xe47040000000000000000003 = some (.mbar 3) ∧
  decodeTableWord 32 0x10C84000 = some (.policyAdd 3 2 1) ∧
  decodeTableWord 96 0xf07040000000000000000000 = none ∧ decodeTableWord 96 0xf040014010080600000000 = none ∧
  decodeTableWord 96 0x7040014010080600000001 = none

/-- Every well-formed instruction of a wave, of the Roller or of a policy program is read back from its encoding, with
every operand at every value that the encoding admits. -/
def Obligations.DecodeReadsBackEncode : Prop :=
  ∀ i, WellFormed i →
    ((hdrOf i).isSome = true ∨ rollerWord i = true → decodeTableWord 96 (encode i).toNat = some i) ∧
    ∀ w, encodePolicy i = some w → decodeTableWord 32 w.toNat = some i

/-- A step performs the ticks that a cycle's beginning makes due, else the head of the agenda, else the next cycle.
The slot of a quarter runs the instruction that the twelve bytes at its wave's PC decode to, lowest byte first, or the
step of an unassigned encoding: the bytes of a valid copy in its core's L1, or those of the line at its home (here of one line);
beside the wave's running path only translations, copies and scores change. A read of the host and a record of the graph port
are performed as what they ask; a Roller runs the word of its stream, a Trowel the word of its program. The agenda,
which says what comes next, is the model's (log entry 1). -/
def Obligations.StepsRunWhatComesNext : Prop :=
  ∀ s,
    (s.ticked < s.cycle → step s = exec .ptsTick s) ∧
    (s.cycle ≤ s.ticked → s.halved / 256 < s.cycle / 256 → step s = exec .throttleScoreHalving s) ∧
    (s.cycle ≤ s.ticked → s.cycle / 256 ≤ s.halved / 256 →
      let go (rest : List Turn) (f : Focus) : State := { s with agenda := rest, focus := f }
      (s.agenda = [] → step s = exec .ceilingAdvance s) ∧
      (s.ctrl.alarm = false → s.ctrl.tripped = false →
        (∀ i rest, s.agenda = .event i :: rest → step s = exec i (go rest .none)) ∧
        (∀ r rest, s.agenda = .read r :: rest → step s = .next (hostRead (go rest .none) r)) ∧
        (∀ part slot record rest, s.agenda = .port part slot record :: rest →
          step s = exec (portInstr part slot record) (go rest .none)) ∧
        (∀ core q cls rest c pa e i, s.agenda = .issue core q cls :: rest →
          let b := sendSaved (if cls = .other then noteRefusals (go rest .none) core q else go rest .none) core q
          let pc := c.path.pc.toNat
          let home := homeOf pa e.ms
          let pts := (b.core core).pts
          slotFree b core q cls = true → (cls = .alu → inGap b core = false) → pick b core q cls = some c →
          pc % 65536 + 12 ≤ 65536 → fetchXlat b c.w pc = .ok pa e → home < 1024 → pa % 128 + 12 ≤ 128 →
          let runs (byte : Nat → Byte) : Prop :=
            let r := Raw.unpack (word96OfBytes ((List.range 12).map byte))
            losesPorts b core q cls c r = false → hrelWaits b core q c.w r = false →
            (decodeWave r = .ok i ∨ ((∃ why, decodeWave r = .reject why) ∧ i = .unassignedEncoding r)) →
            ∃ u, step s = exec i u ∧
              u = { b with
                focus := .wave c.id, waves := u.waves, cores := u.cores, clusters := u.clusters, dies := u.dies, lines := u.lines,
                homes := u.homes, nextId := u.nextId } ∧
              (∀ k, (u.core k).pts = (b.core k).pts) ∧
              (∀ k, k ≠ c.id → u.wave k = { b.wave k with iss := { (b.wave k).iss with score := (u.wave k).iss.score } }) ∧
              u.wave c.id = { takePath c.w c with iss := { (takePath c.w c).iss with score := (u.wave c.id).iss.score } }
          (∀ cp, tget (b.core core).l1 (pa / 128) = some cp → pts ≤ cp.rts → cp.bad = false →
            runs fun j => cp.data.getD (pa % 128 + j) 0) ∧
          (∀ ln, tget (b.core core).l1 (pa / 128) = none → homeOffline b home = false →
            tget b.lines (lineKey home pa) = some ln → ln.use = 0 → poisoned b pa 12 = false →
            max (max pts ln.wts) ln.rts + (b.part (b.partNo c.w)).regs.lease ≤ b.ceil → runs fun j => memGet b.mem (pa + j))) ∧
        (∀ core rest n m st w i, s.agenda = .roller core :: rest → rollerTeam s core = some (n, m) → m.stream = some st →
          st.waiting = none → inGap s core = false → st.words[st.pc]? = some w → decodeRoller (Raw.unpack w) = .ok i →
          step s = exec i (go rest (.roller core))) ∧
        ∀ p rest d w i, s.agenda = .trowel p :: rest → (s.part p).dec = some d → d.image[d.pc]? = some w →
          decodePolicy w = .ok i → step s = exec i (go rest (.trowel p))))

/-- After the reset of the device every timestamp is zero and the ceiling 0x10_0000, no partition, gang, wave or
request is there, the controller is up; a partition's registers have the reset values of their tables; memory, whose
contents the manual does not give, lists nothing and so has its canonical form (log entry 3). -/
def Obligations.ResetLeavesTheStatedValues : Prop :=
  let s := State.reset
  s.ceil = 0x100000 ∧ s.xts = 0 ∧ (∀ c, (s.core c).pts = 0) ∧ (∀ h, (s.home h).rw = 0 ∧ (s.home h).rd = 0) ∧
    s.lines = [] ∧ s.parts = [] ∧ s.gangs = [] ∧ s.teams = [] ∧ s.waves = [] ∧ s.reqs = [] ∧ s.tokens = [] ∧
    (∀ d, (s.die d).gen = 0 ∧ (s.die d).st = .running) ∧ s.ctrl.recovery = false ∧ s.ctrl.alarm = false ∧
    Memory.wf s.mem = true ∧
    PRegs.fresh.lease = 32 ∧ PRegs.fresh.accQuota = 8 ∧ PRegs.fresh.thrEn = true ∧ PRegs.fresh.thrLimit = 64 ∧
    PRegs.fresh.wdPeriod = 100000 ∧ PRegs.fresh.polVer = 0 ∧ PRegs.fresh.quantum = 0

/-- Every step keeps the canonical form of memory. -/
def Obligations.EveryStepKeepsMemoryCanonical : Prop :=
  ∀ s t, Memory.wf s.mem = true → step s = .next t → Memory.wf t.mem = true

/-- No step but a reset of the device lowers the cycle, the ceiling or xts (R112, R117, R118). -/
def Obligations.NoStepTurnsTimeBack : Prop :=
  ∀ s t, (∀ rest, s.agenda ≠ .event .fullDeviceReset :: rest ∧ s.agenda ≠ .event .powerOn :: rest) → step s = .next t →
    s.cycle ≤ t.cycle ∧ s.ceil ≤ t.ceil ∧ s.xts ≤ t.xts

/-- Under a security alarm, or after a trip, no step but a power-on changes a register, a program counter, a request,
a partition or a byte of memory, and the module stays stopped (R463, R466). -/
def Obligations.AlarmsStopTheModule : Prop :=
  ∀ s, s.ctrl.alarm = true ∨ s.ctrl.tripped = true → (∀ rest, s.agenda ≠ .event .powerOn :: rest) →
    ∃ t, step s = .next t ∧ t.ctrl = s.ctrl ∧ t.mem = s.mem ∧ t.reqs = s.reqs ∧ t.reps = s.reps ∧ t.lines = s.lines ∧
      t.parts = s.parts ∧ t.teams = s.teams ∧ t.gangs = s.gangs ∧ t.grids = s.grids ∧
      ∀ k w, tget s.waves k = some w → ∃ v, tget t.waves k = some v ∧ v = { w with iss := v.iss } ∧ v.iss.runPc = w.iss.runPc
end

