-- ==== Sys2Proof/Laws/Codec.lean ====
section
/-! SUPPORT. The fields of an encoded word read back: each operand field, the packed word, and the bytes of memory that
hold it. -/

namespace Sys2Proof

/-! ## Joined fields -/

theorem extract_low {m n : Nat} (x : BitVec m) (y : BitVec n) : (x ++ y).extractLsb' 0 n = y := by
  apply BitVec.eq_of_getLsbD_eq
  intro i hi
  simp [BitVec.getLsbD_append, hi]

theorem extract_high {m n : Nat} (x : BitVec m) (y : BitVec n) (s k : Nat) :
    (x ++ y).extractLsb' (n + s) k = x.extractLsb' s k := by
  apply BitVec.eq_of_getLsbD_eq
  intro i hi
  have : ¬ (n + s + i < n) := by omega
  have e : n + s + i - n = s + i := by omega
  simp [BitVec.getLsbD_append, this, e]

theorem extract_within {m n : Nat} (x : BitVec m) (y : BitVec n) (s k : Nat) (h : s + k ≤ n) :
    (x ++ y).extractLsb' s k = y.extractLsb' s k := by
  apply BitVec.eq_of_getLsbD_eq
  intro i hi
  have : s + i < n := by omega
  simp [BitVec.getLsbD_append, this]

theorem extract_all {n : Nat} (x : BitVec n) : x.extractLsb' 0 n = x := by
  apply BitVec.eq_of_getLsbD_eq
  intro i hi
  simp [hi]

/-- A word split into fields and joined again. -/
theorem Raw.unpack_pack (r : Raw) : Raw.unpack r.pack = r := by
  obtain ⟨op, g, h, d, a, b, m, x⟩ := r
  simp only [Raw.pack, Raw.unpack, Raw.mk.injEq]
  refine ⟨?_, ?_, ?_, ?_, ?_, ?_, ?_, ?_⟩
  · exact (extract_high op _ 0 8).trans (extract_all op)
  · exact (extract_within _ _ _ _ (by decide)).trans ((extract_high g _ 0 4).trans (extract_all g))
  · exact (extract_within _ _ _ _ (by decide)).trans <| (extract_within _ _ _ _ (by decide)).trans <|
      (extract_high h _ 0 12).trans (extract_all h)
  · exact (extract_within _ _ _ _ (by decide)).trans <| (extract_within _ _ _ _ (by decide)).trans <|
      (extract_within _ _ _ _ (by decide)).trans <| (extract_high d _ 0 10).trans (extract_all d)
  · exact (extract_within _ _ _ _ (by decide)).trans <| (extract_within _ _ _ _ (by decide)).trans <|
      (extract_within _ _ _ _ (by decide)).trans <| (extract_within _ _ _ _ (by decide)).trans <|
      (extract_high a _ 0 10).trans (extract_all a)
  · exact (extract_within _ _ _ _ (by decide)).trans <| (extract_within _ _ _ _ (by decide)).trans <|
      (extract_within _ _ _ _ (by decide)).trans <| (extract_within _ _ _ _ (by decide)).trans <|
      (extract_within _ _ _ _ (by decide)).trans <| (extract_high b _ 0 10).trans (extract_all b)
  · exact (extract_within _ _ _ _ (by decide)).trans <| (extract_within _ _ _ _ (by decide)).trans <|
      (extract_within _ _ _ _ (by decide)).trans <| (extract_within _ _ _ _ (by decide)).trans <|
      (extract_within _ _ _ _ (by decide)).trans <| (extract_within _ _ _ _ (by decide)).trans <|
      (extract_high m _ 0 10).trans (extract_all m)
  · exact (extract_within _ _ _ _ (by decide)).trans <| (extract_within _ _ _ _ (by decide)).trans <|
      (extract_within _ _ _ _ (by decide)).trans <| (extract_within _ _ _ _ (by decide)).trans <|
      (extract_within _ _ _ _ (by decide)).trans <| (extract_within _ _ _ _ (by decide)).trans (extract_low m x)

/-! ## Bytes -/

/-- A bit of an accumulator into which a byte is shifted. -/
theorem getLsbD_shiftByte {n : Nat} (acc : BitVec n) (b : Byte) (i : Nat) (hi : i < n) :
    (acc <<< 8 ||| b.setWidth n).getLsbD i = if i < 8 then b.getLsbD i else acc.getLsbD (i - 8) := by
  by_cases h : i < 8
  · simp [h, hi]
  · have : b.getLsbD i = false := BitVec.getLsbD_of_ge _ _ (by omega)
    simp only [BitVec.getLsbD_or, BitVec.getLsbD_shiftLeft, BitVec.getLsbD_setWidth, h, hi, this]; simp
/-- A bit of the bytes of a list joined, the first byte lowest. -/
theorem getLsbD_joinBytes {n : Nat} (bs : List Byte) (i : Nat) (hi : i < n) :
    (bs.foldr (fun (b : Byte) (acc : BitVec n) => acc <<< 8 ||| b.setWidth n) (0 : BitVec n)).getLsbD i =
      (bs.getD (i / 8) 0).getLsbD (i % 8) := by
  induction bs generalizing i with
  | nil => simp
  | cons b bs ih =>
    rw [List.foldr_cons, getLsbD_shiftByte _ _ _ hi]
    by_cases h : i < 8
    · have h1 : i / 8 = 0 := by omega
      have h2 : i % 8 = i := by omega
      simp [h, h1, h2]
    · have h1 : i / 8 = (i - 8) / 8 + 1 := by omega
      have h2 : (i - 8) % 8 = i % 8 := by omega
      simp only [h, if_false]
      rw [ih (i - 8) (by omega), h1, h2]; simp

/-- The twelve bytes of a word, joined again. -/
theorem word96OfBytes_bytes (w : Word96) : word96OfBytes (bytesOfWord96 w) = w := by
  apply BitVec.eq_of_getLsbD_eq
  intro i hi
  have h : (bytesOfWord96 w).take 12 = bytesOfWord96 w := rfl
  rw [word96OfBytes, h, List.foldl_reverse, getLsbD_joinBytes _ _ hi]
  have h1 : i / 8 < 12 := by omega
  have h2 : i % 8 < 8 := by omega
  have h3 : 8 * (i / 8) + i % 8 = i := by omega
  simp [bytesOfWord96, h1, h2, h3]

/-- The four bytes of a policy word, joined again. -/
theorem wordOfBytes_bytes (w : Word) : wordOfBytes (bytesOfWord w) = w := by
  apply BitVec.eq_of_getLsbD_eq
  intro i hi
  have h : (bytesOfWord w).take 4 = bytesOfWord w := rfl
  rw [wordOfBytes, h, List.foldl_reverse, getLsbD_joinBytes _ _ hi]
  have h1 : i / 8 < 4 := by omega
  have h2 : i % 8 < 8 := by omega
  have h3 : 8 * (i / 8) + i % 8 = i := by omega
  simp [bytesOfWord, h1, h2, h3]

/-! ## Operand fields read back -/

@[simp] theorem extract_self {n : Nat} (x : BitVec n) : x.extractLsb' 0 n = x := extract_all x

@[simp] theorem fbit_b1 (b : Bool) : fbit (b1 b) 0 = b := by cases b <;> rfl

theorem fbit_append {m n : Nat} (x : BitVec m) (y : BitVec n) (k : Nat) :
    fbit (x ++ y) k = if k < n then fbit y k else fbit x (k - n) := by
  simp only [fbit, BitVec.getLsbD_append]

@[simp] theorem Guard.dec_enc (g : Guard) : Guard.dec g.enc = g := by
  obtain ⟨n, p⟩ := g
  revert n p; decide

@[simp] theorem decSet_enc (o : Option (BitVec 2)) : decSet (encSet o) = some o := by
  cases o with
  | none => rfl
  | some i => revert i; decide

@[simp] theorem Hints.dec_enc (h : Hints) : Hints.dec h.enc = some h := by
  obtain ⟨st, y, s, w⟩ := h
  have h1 : (st ++ (b1 y ++ (encSet s ++ w))).extractLsb' 4 3 = encSet s :=
    (extract_within _ _ _ _ (by decide)).trans ((extract_within _ _ _ _ (by decide)).trans
      ((extract_high _ _ 0 3).trans (extract_all _)))
  have h2 : (st ++ (b1 y ++ (encSet s ++ w))).extractLsb' 8 4 = st :=
    (extract_high _ _ 0 4).trans (extract_all _)
  have h3 : (st ++ (b1 y ++ (encSet s ++ w))).extractLsb' 0 4 = w :=
    (extract_within _ _ _ _ (by decide)).trans ((extract_within _ _ _ _ (by decide)).trans (extract_low _ _))
  have h4 : fbit (st ++ (b1 y ++ (encSet s ++ w))) 7 = y :=
    (fbit_append st _ 7).trans ((fbit_append (b1 y) _ 7).trans (fbit_b1 y))
  simp only [Hints.dec, Hints.enc]
  rw [h1, h2, h3, h4]
  simp

@[simp] theorem Special.ofCode_code (r : Special) : Special.ofCode r.code = some r := by cases r <;> rfl

@[simp] theorem Src.dec_enc (x : Src) : Src.dec x.enc = some x := by
  cases x with
  | v n => revert n; decide
  | w n => revert n; decide
  | sp r => cases r <;> rfl
  | zero => rfl
  | latch n => revert n; decide

@[simp] theorem DReg.dec9_enc9 (x : DReg) : DReg.dec9 x.enc9 = some x := by
  cases x with
  | v n => revert n; decide
  | w n => revert n; decide
  | zero => rfl

@[simp] theorem DReg.dec_enc (x : DReg) : DReg.dec x.enc = some x := by
  have : (0#1 ++ x.enc9).extractLsb' 0 9 = x.enc9 := extract_low _ _
  simp only [DReg.dec, DReg.enc]
  rw [this]
  simp

@[simp] theorem Dst.dec_enc (x : Dst) : Dst.dec x.enc = some x := by
  obtain ⟨n, r⟩ := x
  have h1 : (b1 n ++ r.enc9).extractLsb' 0 9 = r.enc9 := extract_low _ _
  have h2 : fbit (b1 n ++ r.enc9) 9 = n := (fbit_append (b1 n) _ 9).trans (fbit_b1 n)
  simp only [Dst.dec, Dst.enc]
  rw [h1, h2]
  simp

@[simp] theorem PDst.dec_enc (x : PDst) : PDst.dec x.enc = x := by
  obtain ⟨n, p⟩ := x
  revert n p; decide

@[simp] theorem decPred_enc (p : Pred) : decPred (encPred p) = p := extract_low _ _
@[simp] theorem decW_enc (n : BitVec 7) : decW (encW n) = n := extract_low _ _
@[simp] theorem extract_encV (n : BitVec 8) : (encV n).extractLsb' 0 8 = n := extract_low _ _
@[simp] theorem extract_xP (p : Pred) : (xP p).extractLsb' 0 3 = p :=
  (extract_within _ _ _ _ (by decide)).trans (extract_low _ _)
@[simp] theorem extract_xC (c : Src) : (xC c).extractLsb' 0 10 = c.enc := extract_low _ _
@[simp] theorem Ty.ofCode_code (t : Ty) : Ty.ofCode t.code = some t := by cases t <;> rfl
@[simp] theorem Rm.ofCode_code (r : Rm) : Rm.ofCode r.code = r := by cases r <;> rfl
@[simp] theorem Cmp.ofCode_code (c : Cmp) : Cmp.ofCode c.code = some c := by cases c <;> rfl
@[simp] theorem Bop.ofCode_code (c : Bop) : Bop.ofCode c.code = some c := by cases c <;> rfl
@[simp] theorem FCmp.ofCode_code (c : FCmp) : FCmp.ofCode c.code = some c := by cases c <;> rfl
@[simp] theorem ShflMode.ofCode_code (c : ShflMode) : ShflMode.ofCode c.code = some c := by cases c <;> rfl
@[simp] theorem VoteMode.ofCode_code (c : VoteMode) : VoteMode.ofCode c.code = some c := by cases c <;> rfl
@[simp] theorem ReduxOp.ofCode_code (c : ReduxOp) : ReduxOp.ofCode c.code = some c := by cases c <;> rfl
@[simp] theorem MemTy.ofCode_code (c : MemTy) : MemTy.ofCode c.code = some c := by cases c <;> rfl
@[simp] theorem Aop.ofCode_code (c : Aop) : Aop.ofCode c.code = some c := by cases c <;> rfl
@[simp] theorem AccOp.ofCode_code (c : AccOp) : AccOp.ofCode c.code = some c := by cases c <;> rfl
@[simp] theorem Agent.ofCode_code (c : Agent) : Agent.ofCode c.code = c := by cases c <;> rfl
@[simp] theorem Dir.ofBit_bit (c : Dir) : Dir.ofBit c.bit = c := by cases c <;> rfl
@[simp] theorem CpyDir.ofCode_code (c : CpyDir) : CpyDir.ofCode c.code = c := by cases c <;> rfl
@[simp] theorem Grp.ofCode_code (c : Grp) : Grp.ofCode c.code = some c := by cases c <;> rfl
@[simp] theorem GMode.ofCode_code (c : GMode) : GMode.ofCode c.code = some c := by cases c <;> rfl
@[simp] theorem Cls.ofCode_code (c : Cls) : Cls.ofCode c.code = some c := by cases c <;> rfl
@[simp] theorem BsMode.ofCode_code (c : BsMode) : BsMode.ofCode c.code = some c := by cases c <;> rfl
@[simp] theorem RTy.ofCode_code (c : RTy) : RTy.ofCode c.code = some c := by cases c <;> rfl


/-! ## The fields of M and X read back -/

@[simp] theorem mT_ty (t : Ty) : (mT t).extractLsb' 0 5 = t.code := extract_low _ _
@[simp] theorem mBT_ty (b : Bool) (t : Ty) : (mBT b t).extractLsb' 0 5 = t.code := by cases b <;> cases t <;> rfl
@[simp] theorem mBT_bit (b : Bool) (t : Ty) : fbit (mBT b t) 5 = b := by cases b <;> cases t <;> rfl

@[simp] theorem get_sh_of_sh_ty (sh : BitVec 4) (ty : Ty) :
    BitVec.extractLsb' (n := 10) 6 4 (sh ++ (0#1 ++ ty.code)) = sh :=
  (extract_high _ _ 0 4).trans <| extract_all _
@[simp] theorem get_ty_of_sh_ty (sh : BitVec 4) (ty : Ty) :
    BitVec.extractLsb' (n := 10) 0 5 (sh ++ (0#1 ++ ty.code)) = ty.code :=
  (extract_within _ _ _ _ (by decide)).trans <| extract_low _ _
@[simp] theorem get_bop_of_bop_cmp_ty (bop : Bop) (cmp : Cmp) (ty : Ty) :
    BitVec.extractLsb' (n := 10) 8 2 (bop.code ++ (cmp.code ++ ty.code)) = bop.code :=
  (extract_high _ _ 0 2).trans <| extract_all _
@[simp] theorem get_cmp_of_bop_cmp_ty (bop : Bop) (cmp : Cmp) (ty : Ty) :
    BitVec.extractLsb' (n := 10) 5 3 (bop.code ++ (cmp.code ++ ty.code)) = cmp.code :=
  (extract_within _ _ _ _ (by decide)).trans <| (extract_high _ _ 0 3).trans <| extract_all _
@[simp] theorem get_ty_of_bop_cmp_ty (bop : Bop) (cmp : Cmp) (ty : Ty) :
    BitVec.extractLsb' (n := 10) 0 5 (bop.code ++ (cmp.code ++ ty.code)) = ty.code :=
  (extract_within _ _ _ _ (by decide)).trans <| extract_low _ _
@[simp] theorem get_cmp_of_cmp_ty (cmp : Cmp) (ty : Ty) :
    BitVec.extractLsb' (n := 10) 5 3 (0#2 ++ (cmp.code ++ ty.code)) = cmp.code :=
  (extract_within _ _ _ _ (by decide)).trans <| (extract_high _ _ 0 3).trans <| extract_all _
@[simp] theorem get_ty_of_cmp_ty (cmp : Cmp) (ty : Ty) :
    BitVec.extractLsb' (n := 10) 0 5 (0#2 ++ (cmp.code ++ ty.code)) = ty.code :=
  (extract_within _ _ _ _ (by decide)).trans <| extract_low _ _
@[simp] theorem get_pneg_of_pneg_pr_ty (pneg : Bool) (pr : Pred) (ty : Ty) :
    fbit (n := 10) (b1 pneg ++ (pr ++ (0#1 ++ ty.code))) 9 = pneg :=
  (fbit_append _ _ _).trans <| fbit_b1 _
@[simp] theorem get_pr_of_pneg_pr_ty (pneg : Bool) (pr : Pred) (ty : Ty) :
    BitVec.extractLsb' (n := 10) 6 3 (b1 pneg ++ (pr ++ (0#1 ++ ty.code))) = pr :=
  (extract_within _ _ _ _ (by decide)).trans <| (extract_high _ _ 0 3).trans <| extract_all _
@[simp] theorem get_ty_of_pneg_pr_ty (pneg : Bool) (pr : Pred) (ty : Ty) :
    BitVec.extractLsb' (n := 10) 0 5 (b1 pneg ++ (pr ++ (0#1 ++ ty.code))) = ty.code :=
  (extract_within _ _ _ _ (by decide)).trans <| (extract_within _ _ _ _ (by decide)).trans <| extract_low _ _
@[simp] theorem get_w64_of_w64_fn (w64 : Bool) (fn : BitVec 8) :
    fbit (n := 10) (0#1 ++ (b1 w64 ++ fn)) 8 = w64 :=
  (fbit_append _ _ _).trans <| (fbit_append _ _ _).trans <| fbit_b1 _
@[simp] theorem get_fn_of_w64_fn (w64 : Bool) (fn : BitVec 8) :
    BitVec.extractLsb' (n := 10) 0 8 (0#1 ++ (b1 w64 ++ fn)) = fn :=
  (extract_within _ _ _ _ (by decide)).trans <| extract_low _ _
@[simp] theorem get_fn_of_fn (fn : BitVec 8) :
    BitVec.extractLsb' (n := 10) 0 8 (0#2 ++ fn) = fn :=
  extract_low _ _
@[simp] theorem get_m_of_m (m : ShflMode) :
    BitVec.extractLsb' (n := 10) 0 3 (0#7 ++ m.code) = m.code :=
  extract_low _ _
@[simp] theorem get_m_of_m_at_0_beside_0x8 (m : VoteMode) :
    BitVec.extractLsb' (n := 10) 0 2 (0#8 ++ m.code) = m.code :=
  extract_low _ _
@[simp] theorem get_rop_of_rop_ty (rop : ReduxOp) (ty : Ty) :
    BitVec.extractLsb' (n := 10) 5 3 (0#2 ++ (rop.code ++ ty.code)) = rop.code :=
  (extract_within _ _ _ _ (by decide)).trans <| (extract_high _ _ 0 3).trans <| extract_all _
@[simp] theorem get_ty_of_rop_ty (rop : ReduxOp) (ty : Ty) :
    BitVec.extractLsb' (n := 10) 0 5 (0#2 ++ (rop.code ++ ty.code)) = ty.code :=
  (extract_within _ _ _ _ (by decide)).trans <| extract_low _ _
@[simp] theorem get_bop_of_bop_z_ty (bop : Bop) (z : Bool) (ty : Ty) :
    BitVec.extractLsb' (n := 10) 8 2 (bop.code ++ (0#2 ++ (b1 z ++ ty.code))) = bop.code :=
  (extract_high _ _ 0 2).trans <| extract_all _
@[simp] theorem get_z_of_bop_z_ty (bop : Bop) (z : Bool) (ty : Ty) :
    fbit (n := 10) (bop.code ++ (0#2 ++ (b1 z ++ ty.code))) 5 = z :=
  (fbit_append _ _ _).trans <| (fbit_append _ _ _).trans <| (fbit_append _ _ _).trans <| fbit_b1 _
@[simp] theorem get_ty_of_bop_z_ty (bop : Bop) (z : Bool) (ty : Ty) :
    BitVec.extractLsb' (n := 10) 0 5 (bop.code ++ (0#2 ++ (b1 z ++ ty.code))) = ty.code :=
  (extract_within _ _ _ _ (by decide)).trans <| (extract_within _ _ _ _ (by decide)).trans <| extract_low _ _
@[simp] theorem get_ftz_of_ftz_cmp_ty (ftz : Bool) (cmp : FCmp) (ty : Ty) :
    fbit (n := 10) (b1 ftz ++ (cmp.code ++ ty.code)) 9 = ftz :=
  (fbit_append _ _ _).trans <| fbit_b1 _
@[simp] theorem get_cmp_of_ftz_cmp_ty (ftz : Bool) (cmp : FCmp) (ty : Ty) :
    BitVec.extractLsb' (n := 10) 5 4 (b1 ftz ++ (cmp.code ++ ty.code)) = cmp.code :=
  (extract_within _ _ _ _ (by decide)).trans <| (extract_high _ _ 0 4).trans <| extract_all _
@[simp] theorem get_ty_of_ftz_cmp_ty (ftz : Bool) (cmp : FCmp) (ty : Ty) :
    BitVec.extractLsb' (n := 10) 0 5 (b1 ftz ++ (cmp.code ++ ty.code)) = ty.code :=
  (extract_within _ _ _ _ (by decide)).trans <| extract_low _ _
@[simp] theorem get_cmp_of_cmp_ty_at_5_beside_0x1 (cmp : FCmp) (ty : Ty) :
    BitVec.extractLsb' (n := 10) 5 4 (0#1 ++ (cmp.code ++ ty.code)) = cmp.code :=
  (extract_within _ _ _ _ (by decide)).trans <| (extract_high _ _ 0 4).trans <| extract_all _
@[simp] theorem get_ty_of_cmp_ty_at_0_beside_0x1 (cmp : FCmp) (ty : Ty) :
    BitVec.extractLsb' (n := 10) 0 5 (0#1 ++ (cmp.code ++ ty.code)) = ty.code :=
  (extract_within _ _ _ _ (by decide)).trans <| extract_low _ _
@[simp] theorem get_rm_of_rm_ftz (rm : Rm) (ftz : Bool) :
    BitVec.extractLsb' (n := 10) 8 2 (rm.code ++ (b1 ftz ++ 0#7)) = rm.code :=
  (extract_high _ _ 0 2).trans <| extract_all _
@[simp] theorem get_ftz_of_rm_ftz (rm : Rm) (ftz : Bool) :
    fbit (n := 10) (rm.code ++ (b1 ftz ++ 0#7)) 7 = ftz :=
  (fbit_append _ _ _).trans <| (fbit_append _ _ _).trans <| fbit_b1 _
@[simp] theorem get_opb_of_rm_ftz (rm : Rm) (ftz : Bool) :
    BitVec.extractLsb' (n := 10) 0 3 (rm.code ++ (b1 ftz ++ 0#7)) = 0#3 :=
  by cases rm <;> cases ftz <;> rfl
@[simp] theorem get_rm_of_rm_ftz_at_8_beside_2x7 (rm : Rm) (ftz : Bool) :
    BitVec.extractLsb' (n := 10) 8 2 (rm.code ++ (b1 ftz ++ 2#7)) = rm.code :=
  (extract_high _ _ 0 2).trans <| extract_all _
@[simp] theorem get_ftz_of_rm_ftz_at_7_beside_2x7 (rm : Rm) (ftz : Bool) :
    fbit (n := 10) (rm.code ++ (b1 ftz ++ 2#7)) 7 = ftz :=
  (fbit_append _ _ _).trans <| (fbit_append _ _ _).trans <| fbit_b1 _
@[simp] theorem get_opb_of_rm_ftz_at_0_beside_2x7 (rm : Rm) (ftz : Bool) :
    BitVec.extractLsb' (n := 10) 0 3 (rm.code ++ (b1 ftz ++ 2#7)) = 2#3 :=
  by cases rm <;> cases ftz <;> rfl
@[simp] theorem get_ftz_of_ftz (ftz : Bool) :
    fbit (n := 10) (0#2 ++ (b1 ftz ++ 1#7)) 7 = ftz :=
  (fbit_append _ _ _).trans <| (fbit_append _ _ _).trans <| fbit_b1 _
@[simp] theorem get_opb_of_ftz (ftz : Bool) :
    BitVec.extractLsb' (n := 10) 0 3 (0#2 ++ (b1 ftz ++ 1#7)) = 1#3 :=
  by cases ftz <;> rfl
@[simp] theorem get_ftz_of_ftz_at_7_beside_0x2_3x7 (ftz : Bool) :
    fbit (n := 10) (0#2 ++ (b1 ftz ++ 3#7)) 7 = ftz :=
  (fbit_append _ _ _).trans <| (fbit_append _ _ _).trans <| fbit_b1 _
@[simp] theorem get_opb_of_ftz_at_0_beside_0x2_3x7 (ftz : Bool) :
    BitVec.extractLsb' (n := 10) 0 3 (0#2 ++ (b1 ftz ++ 3#7)) = 3#3 :=
  by cases ftz <;> rfl
@[simp] theorem get_ftz_of_ftz_at_7_beside_0x2_4x7 (ftz : Bool) :
    fbit (n := 10) (0#2 ++ (b1 ftz ++ 4#7)) 7 = ftz :=
  (fbit_append _ _ _).trans <| (fbit_append _ _ _).trans <| fbit_b1 _
@[simp] theorem get_opb_of_ftz_at_0_beside_0x2_4x7 (ftz : Bool) :
    BitVec.extractLsb' (n := 10) 0 3 (0#2 ++ (b1 ftz ++ 4#7)) = 4#3 :=
  by cases ftz <;> rfl
@[simp] theorem get_ftz_of_ftz_at_7_beside_0x2_5x7 (ftz : Bool) :
    fbit (n := 10) (0#2 ++ (b1 ftz ++ 5#7)) 7 = ftz :=
  (fbit_append _ _ _).trans <| (fbit_append _ _ _).trans <| fbit_b1 _
@[simp] theorem get_opb_of_ftz_at_0_beside_0x2_5x7 (ftz : Bool) :
    BitVec.extractLsb' (n := 10) 0 3 (0#2 ++ (b1 ftz ++ 5#7)) = 5#3 :=
  by cases ftz <;> rfl
@[simp] theorem get_ftz_of_ftz_at_7_beside_0x2_6x7 (ftz : Bool) :
    fbit (n := 10) (0#2 ++ (b1 ftz ++ 6#7)) 7 = ftz :=
  (fbit_append _ _ _).trans <| (fbit_append _ _ _).trans <| fbit_b1 _
@[simp] theorem get_opb_of_ftz_at_0_beside_0x2_6x7 (ftz : Bool) :
    BitVec.extractLsb' (n := 10) 0 3 (0#2 ++ (b1 ftz ++ 6#7)) = 6#3 :=
  by cases ftz <;> rfl
@[simp] theorem get_sat_of_sat_ty (sat : Bool) (ty : Ty) :
    fbit (n := 10) (0#2 ++ (b1 sat ++ (0#2 ++ ty.code))) 7 = sat :=
  (fbit_append _ _ _).trans <| (fbit_append _ _ _).trans <| fbit_b1 _
@[simp] theorem get_ty_of_sat_ty (sat : Bool) (ty : Ty) :
    BitVec.extractLsb' (n := 10) 0 5 (0#2 ++ (b1 sat ++ (0#2 ++ ty.code))) = ty.code :=
  (extract_within _ _ _ _ (by decide)).trans <| (extract_within _ _ _ _ (by decide)).trans <| extract_low _ _
@[simp] theorem get_rm_of_rm_ty (rm : Rm) (ty : Ty) :
    BitVec.extractLsb' (n := 10) 8 2 (rm.code ++ (0#3 ++ ty.code)) = rm.code :=
  (extract_high _ _ 0 2).trans <| extract_all _
@[simp] theorem get_ty_of_rm_ty (rm : Rm) (ty : Ty) :
    BitVec.extractLsb' (n := 10) 0 5 (rm.code ++ (0#3 ++ ty.code)) = ty.code :=
  (extract_within _ _ _ _ (by decide)).trans <| extract_low _ _
@[simp] theorem get_sty_of_sty_ty (sty ty : Ty) :
    BitVec.extractLsb' (n := 10) 5 5 (sty.code ++ ty.code) = sty.code :=
  (extract_high _ _ 0 5).trans <| extract_all _
@[simp] theorem get_ty_of_sty_ty (sty ty : Ty) :
    BitVec.extractLsb' (n := 10) 0 5 (sty.code ++ ty.code) = ty.code :=
  extract_low _ _
@[simp] theorem get_freg_of_freg_b_ty (freg : BitVec 3) (b : Bool) (ty : Ty) :
    BitVec.extractLsb' (n := 10) 7 3 (freg ++ (b1 b ++ (0#1 ++ ty.code))) = freg :=
  (extract_high _ _ 0 3).trans <| extract_all _
@[simp] theorem get_b_of_freg_b_ty (freg : BitVec 3) (b : Bool) (ty : Ty) :
    fbit (n := 10) (freg ++ (b1 b ++ (0#1 ++ ty.code))) 6 = b :=
  (fbit_append _ _ _).trans <| (fbit_append _ _ _).trans <| fbit_b1 _
@[simp] theorem get_ty_of_freg_b_ty (freg : BitVec 3) (b : Bool) (ty : Ty) :
    BitVec.extractLsb' (n := 10) 0 5 (freg ++ (b1 b ++ (0#1 ++ ty.code))) = ty.code :=
  (extract_within _ _ _ _ (by decide)).trans <| (extract_within _ _ _ _ (by decide)).trans <| extract_low _ _
@[simp] theorem get_freg_of_freg_ty (freg : BitVec 3) (ty : Ty) :
    BitVec.extractLsb' (n := 10) 7 3 (freg ++ (0#2 ++ ty.code)) = freg :=
  (extract_high _ _ 0 3).trans <| extract_all _
@[simp] theorem get_ty_of_freg_ty (freg : BitVec 3) (ty : Ty) :
    BitVec.extractLsb' (n := 10) 0 5 (freg ++ (0#2 ++ ty.code)) = ty.code :=
  (extract_within _ _ _ _ (by decide)).trans <| extract_low _ _
@[simp] theorem get_freg_of_freg_m_ty (freg : BitVec 3) (m : BsMode) (ty : Ty) :
    BitVec.extractLsb' (n := 10) 7 3 (freg ++ (m.code ++ ty.code)) = freg :=
  (extract_high _ _ 0 3).trans <| extract_all _
@[simp] theorem get_m_of_freg_m_ty (freg : BitVec 3) (m : BsMode) (ty : Ty) :
    BitVec.extractLsb' (n := 10) 5 2 (freg ++ (m.code ++ ty.code)) = m.code :=
  (extract_within _ _ _ _ (by decide)).trans <| (extract_high _ _ 0 2).trans <| extract_all _
@[simp] theorem get_ty_of_freg_m_ty (freg : BitVec 3) (m : BsMode) (ty : Ty) :
    BitVec.extractLsb' (n := 10) 0 5 (freg ++ (m.code ++ ty.code)) = ty.code :=
  (extract_within _ _ _ _ (by decide)).trans <| extract_low _ _
@[simp] theorem get_mt_of_mt (mt : MemTy) :
    BitVec.extractLsb' (n := 10) 0 6 (0#4 ++ mt.code) = mt.code :=
  extract_low _ _
@[simp] theorem get_aop_of_aop_ty (aop : Aop) (ty : Ty) :
    BitVec.extractLsb' (n := 10) 5 4 (0#1 ++ (aop.code ++ ty.code)) = aop.code :=
  (extract_within _ _ _ _ (by decide)).trans <| (extract_high _ _ 0 4).trans <| extract_all _
@[simp] theorem get_ty_of_aop_ty (aop : Aop) (ty : Ty) :
    BitVec.extractLsb' (n := 10) 0 5 (0#1 ++ (aop.code ++ ty.code)) = ty.code :=
  (extract_within _ _ _ _ (by decide)).trans <| extract_low _ _
@[simp] theorem get_aop_of_aop_ty_at_5_beside_0x3 (aop : AccOp) (ty : Ty) :
    BitVec.extractLsb' (n := 10) 5 2 (0#3 ++ (aop.code ++ ty.code)) = aop.code :=
  (extract_within _ _ _ _ (by decide)).trans <| (extract_high _ _ 0 2).trans <| extract_all _
@[simp] theorem get_ty_of_aop_ty_at_0_beside_0x3 (aop : AccOp) (ty : Ty) :
    BitVec.extractLsb' (n := 10) 0 5 (0#3 ++ (aop.code ++ ty.code)) = ty.code :=
  (extract_within _ _ _ _ (by decide)).trans <| extract_low _ _
@[simp] theorem get_h_of_h_g_l_o_a (h g l o : Bool) (a : Agent) :
    fbit (n := 10) (0#4 ++ (b1 h ++ (b1 g ++ (b1 l ++ (b1 o ++ a.code))))) 5 = h :=
  (fbit_append _ _ _).trans <| (fbit_append _ _ _).trans <| fbit_b1 _
@[simp] theorem get_g_of_h_g_l_o_a (h g l o : Bool) (a : Agent) :
    fbit (n := 10) (0#4 ++ (b1 h ++ (b1 g ++ (b1 l ++ (b1 o ++ a.code))))) 4 = g :=
  (fbit_append _ _ _).trans <| (fbit_append _ _ _).trans <| (fbit_append _ _ _).trans <| fbit_b1 _
@[simp] theorem get_l_of_h_g_l_o_a (h g l o : Bool) (a : Agent) :
    fbit (n := 10) (0#4 ++ (b1 h ++ (b1 g ++ (b1 l ++ (b1 o ++ a.code))))) 3 = l :=
  (fbit_append _ _ _).trans <| (fbit_append _ _ _).trans <| (fbit_append _ _ _).trans <|
    (fbit_append _ _ _).trans <| fbit_b1 _
@[simp] theorem get_o_of_h_g_l_o_a (h g l o : Bool) (a : Agent) :
    fbit (n := 10) (0#4 ++ (b1 h ++ (b1 g ++ (b1 l ++ (b1 o ++ a.code))))) 2 = o :=
  (fbit_append _ _ _).trans <| (fbit_append _ _ _).trans <| (fbit_append _ _ _).trans <|
    (fbit_append _ _ _).trans <| (fbit_append _ _ _).trans <| fbit_b1 _
@[simp] theorem get_a_of_h_g_l_o_a (h g l o : Bool) (a : Agent) :
    BitVec.extractLsb' (n := 10) 0 2 (0#4 ++ (b1 h ++ (b1 g ++ (b1 l ++ (b1 o ++ a.code))))) = a.code :=
  (extract_within _ _ _ _ (by decide)).trans <| (extract_within _ _ _ _ (by decide)).trans <|
    (extract_within _ _ _ _ (by decide)).trans <| (extract_within _ _ _ _ (by decide)).trans <| extract_low _ _
@[simp] theorem get_d_of_d_g (d : CpyDir) (g : Grp) :
    BitVec.extractLsb' (n := 10) 2 2 (0#6 ++ (d.code ++ g.code)) = d.code :=
  (extract_within _ _ _ _ (by decide)).trans <| (extract_high _ _ 0 2).trans <| extract_all _
@[simp] theorem get_g_of_d_g (d : CpyDir) (g : Grp) :
    BitVec.extractLsb' (n := 10) 0 2 (0#6 ++ (d.code ++ g.code)) = g.code :=
  (extract_within _ _ _ _ (by decide)).trans <| extract_low _ _
@[simp] theorem get_m_of_m_l_d (m : GMode) (l d : Bool) :
    BitVec.extractLsb' (n := 10) 8 2 (m.code ++ (b1 l ++ (b1 d ++ 0#6))) = m.code :=
  (extract_high _ _ 0 2).trans <| extract_all _
@[simp] theorem get_l_of_m_l_d (m : GMode) (l d : Bool) :
    fbit (n := 10) (m.code ++ (b1 l ++ (b1 d ++ 0#6))) 7 = l :=
  (fbit_append _ _ _).trans <| (fbit_append _ _ _).trans <| fbit_b1 _
@[simp] theorem get_d_of_m_l_d (m : GMode) (l d : Bool) :
    fbit (n := 10) (m.code ++ (b1 l ++ (b1 d ++ 0#6))) 6 = d :=
  (fbit_append _ _ _).trans <| (fbit_append _ _ _).trans <| (fbit_append _ _ _).trans <| fbit_b1 _
@[simp] theorem get_count_of_count (count : BitVec 8) :
    BitVec.extractLsb' (n := 10) 0 8 (0#2 ++ count) = count :=
  extract_low _ _
@[simp] theorem get_n_of_n (n : BitVec 6) :
    BitVec.extractLsb' (n := 32) 0 6 (0#26 ++ n) = n :=
  extract_low _ _
@[simp] theorem get_opb_of_n (n : BitVec 6) :
    fbit (n := 32) (0#26 ++ n) 6 = false :=
  fbit_append _ _ _
@[simp] theorem get_n_of_n_at_0_beside_1x26 (n : BitVec 6) :
    BitVec.extractLsb' (n := 32) 0 6 (1#26 ++ n) = n :=
  extract_low _ _
@[simp] theorem get_opb_of_n_at_6_beside_1x26 (n : BitVec 6) :
    fbit (n := 32) (1#26 ++ n) 6 = true :=
  fbit_append _ _ _
@[simp] theorem get_n_of_n_at_0_beside_0x27 (n : BitVec 5) :
    BitVec.extractLsb' (n := 32) 0 5 (0#27 ++ n) = n :=
  extract_low _ _
@[simp] theorem get_n_of_n_at_0_beside_0x28 (n : BitVec 4) :
    BitVec.extractLsb' (n := 32) 0 4 (0#28 ++ n) = n :=
  extract_low _ _
@[simp] theorem get_bop_of_bop_p (bop : Bop) (p : Pred) :
    BitVec.extractLsb' (n := 32) 10 2 (0#20 ++ (bop.code ++ encPred p)) = bop.code :=
  (extract_within _ _ _ _ (by decide)).trans <| (extract_high _ _ 0 2).trans <| extract_all _
@[simp] theorem get_p_of_bop_p (bop : Bop) (p : Pred) :
    BitVec.extractLsb' (n := 32) 0 10 (0#20 ++ (bop.code ++ encPred p)) = encPred p :=
  (extract_within _ _ _ _ (by decide)).trans <| extract_low _ _
@[simp] theorem get_p_of_bop_p_at_0_beside_0x20 (bop : Bop) (p : Pred) :
    BitVec.extractLsb' (n := 32) 0 3 (0#20 ++ (bop.code ++ encPred p)) = p :=
  (extract_within _ _ _ _ (by decide)).trans <| (extract_within _ _ _ _ (by decide)).trans <| extract_low _ _
@[simp] theorem get_sat_of_sat_ftz_rm (sat ftz : Bool) (rm : Rm) :
    fbit (n := 32) (0#18 ++ (b1 sat ++ (b1 ftz ++ (rm.code ++ 0#10)))) 13 = sat :=
  (fbit_append _ _ _).trans <| (fbit_append _ _ _).trans <| fbit_b1 _
@[simp] theorem get_ftz_of_sat_ftz_rm (sat ftz : Bool) (rm : Rm) :
    fbit (n := 32) (0#18 ++ (b1 sat ++ (b1 ftz ++ (rm.code ++ 0#10)))) 12 = ftz :=
  (fbit_append _ _ _).trans <| (fbit_append _ _ _).trans <| (fbit_append _ _ _).trans <| fbit_b1 _
@[simp] theorem get_rm_of_sat_ftz_rm (sat ftz : Bool) (rm : Rm) :
    BitVec.extractLsb' (n := 32) 10 2 (0#18 ++ (b1 sat ++ (b1 ftz ++ (rm.code ++ 0#10)))) = rm.code :=
  (extract_within _ _ _ _ (by decide)).trans <| (extract_within _ _ _ _ (by decide)).trans <|
    (extract_within _ _ _ _ (by decide)).trans <| (extract_high _ _ 0 2).trans <| extract_all _
@[simp] theorem get_e_of_e_rm (e : BitVec 3) (rm : Rm) :
    BitVec.extractLsb' (n := 32) 12 3 (0#17 ++ (e ++ (rm.code ++ 0#10))) = e :=
  (extract_within _ _ _ _ (by decide)).trans <| (extract_high _ _ 0 3).trans <| extract_all _
@[simp] theorem get_rm_of_e_rm (e : BitVec 3) (rm : Rm) :
    BitVec.extractLsb' (n := 32) 10 2 (0#17 ++ (e ++ (rm.code ++ 0#10))) = rm.code :=
  (extract_within _ _ _ _ (by decide)).trans <| (extract_within _ _ _ _ (by decide)).trans <|
    (extract_high _ _ 0 2).trans <| extract_all _
@[simp] theorem get_e_of_e (e : BitVec 3) :
    BitVec.extractLsb' (n := 32) 12 3 (0#17 ++ (e ++ 0#12)) = e :=
  (extract_within _ _ _ _ (by decide)).trans <| (extract_high _ _ 0 3).trans <| extract_all _
@[simp] theorem get_ftz_of_ftz_rm (ftz : Bool) (rm : Rm) :
    fbit (n := 32) (0#19 ++ (b1 ftz ++ (rm.code ++ 0#10))) 12 = ftz :=
  (fbit_append _ _ _).trans <| (fbit_append _ _ _).trans <| fbit_b1 _
@[simp] theorem get_rm_of_ftz_rm (ftz : Bool) (rm : Rm) :
    BitVec.extractLsb' (n := 32) 10 2 (0#19 ++ (b1 ftz ++ (rm.code ++ 0#10))) = rm.code :=
  (extract_within _ _ _ _ (by decide)).trans <| (extract_within _ _ _ _ (by decide)).trans <|
    (extract_high _ _ 0 2).trans <| extract_all _
@[simp] theorem get_b_of_b (b : Bool) :
    fbit (n := 32) (0#19 ++ (b1 b ++ 0#12)) 12 = b :=
  (fbit_append _ _ _).trans <| (fbit_append _ _ _).trans <| fbit_b1 _
@[simp] theorem get_off_of_off (off : BitVec 24) :
    BitVec.extractLsb' (n := 32) 8 24 (off ++ 0#8) = off :=
  (extract_high _ _ 0 24).trans <| extract_all _
@[simp] theorem get_arr_of_arr_st_n (arr : Bool) (st : BitVec 4) (n : BitVec 4) :
    fbit (n := 32) (0#23 ++ (b1 arr ++ (st ++ n))) 8 = arr :=
  (fbit_append _ _ _).trans <| (fbit_append _ _ _).trans <| fbit_b1 _
@[simp] theorem get_st_of_arr_st_n (arr : Bool) (st : BitVec 4) (n : BitVec 4) :
    BitVec.extractLsb' (n := 32) 4 4 (0#23 ++ (b1 arr ++ (st ++ n))) = st :=
  (extract_within _ _ _ _ (by decide)).trans <| (extract_within _ _ _ _ (by decide)).trans <|
    (extract_high _ _ 0 4).trans <| extract_all _
@[simp] theorem get_n_of_arr_st_n (arr : Bool) (st : BitVec 4) (n : BitVec 4) :
    BitVec.extractLsb' (n := 32) 0 4 (0#23 ++ (b1 arr ++ (st ++ n))) = n :=
  (extract_within _ _ _ _ (by decide)).trans <| (extract_within _ _ _ _ (by decide)).trans <| extract_low _ _
@[simp] theorem get_arr_of_arr_st_n_at_8_beside_0x23_0x2 (arr : Bool) (st : BitVec 4) (n : BitVec 2) :
    fbit (n := 32) (0#23 ++ (b1 arr ++ (st ++ (0#2 ++ n)))) 8 = arr :=
  (fbit_append _ _ _).trans <| (fbit_append _ _ _).trans <| fbit_b1 _
@[simp] theorem get_st_of_arr_st_n_at_4_beside_0x23_0x2 (arr : Bool) (st : BitVec 4) (n : BitVec 2) :
    BitVec.extractLsb' (n := 32) 4 4 (0#23 ++ (b1 arr ++ (st ++ (0#2 ++ n)))) = st :=
  (extract_within _ _ _ _ (by decide)).trans <| (extract_within _ _ _ _ (by decide)).trans <|
    (extract_high _ _ 0 4).trans <| extract_all _
@[simp] theorem get_n_of_arr_st_n_at_0_beside_0x23_0x2 (arr : Bool) (st : BitVec 4) (n : BitVec 2) :
    BitVec.extractLsb' (n := 32) 0 2 (0#23 ++ (b1 arr ++ (st ++ (0#2 ++ n)))) = n :=
  (extract_within _ _ _ _ (by decide)).trans <| (extract_within _ _ _ _ (by decide)).trans <|
    (extract_within _ _ _ _ (by decide)).trans <| extract_low _ _
@[simp] theorem get_len_of_len_h_b_r (len : BitVec 8) (h : BitVec 6) (b : Bool) (r : BitVec 5) :
    BitVec.extractLsb' (n := 32) 24 8 (len ++ (h ++ (b1 b ++ (r ++ 0#12)))) = len :=
  (extract_high _ _ 0 8).trans <| extract_all _
@[simp] theorem get_h_of_len_h_b_r (len : BitVec 8) (h : BitVec 6) (b : Bool) (r : BitVec 5) :
    BitVec.extractLsb' (n := 32) 18 6 (len ++ (h ++ (b1 b ++ (r ++ 0#12)))) = h :=
  (extract_within _ _ _ _ (by decide)).trans <| (extract_high _ _ 0 6).trans <| extract_all _
@[simp] theorem get_b_of_len_h_b_r (len : BitVec 8) (h : BitVec 6) (b : Bool) (r : BitVec 5) :
    fbit (n := 32) (len ++ (h ++ (b1 b ++ (r ++ 0#12)))) 17 = b :=
  (fbit_append _ _ _).trans <| (fbit_append _ _ _).trans <| (fbit_append _ _ _).trans <| fbit_b1 _
@[simp] theorem get_r_of_len_h_b_r (len : BitVec 8) (h : BitVec 6) (b : Bool) (r : BitVec 5) :
    BitVec.extractLsb' (n := 32) 12 5 (len ++ (h ++ (b1 b ++ (r ++ 0#12)))) = r :=
  (extract_within _ _ _ _ (by decide)).trans <| (extract_within _ _ _ _ (by decide)).trans <|
    (extract_within _ _ _ _ (by decide)).trans <| (extract_high _ _ 0 5).trans <| extract_all _
@[simp] theorem get_c_of_c_n (c : Cls) (n : BitVec 6) :
    BitVec.extractLsb' (n := 32) 6 2 (0#24 ++ (c.code ++ n)) = c.code :=
  (extract_within _ _ _ _ (by decide)).trans <| (extract_high _ _ 0 2).trans <| extract_all _
@[simp] theorem get_n_of_c_n (c : Cls) (n : BitVec 6) :
    BitVec.extractLsb' (n := 32) 0 6 (0#24 ++ (c.code ++ n)) = n :=
  (extract_within _ _ _ _ (by decide)).trans <| extract_low _ _
@[simp] theorem get_m_of_m_at_16_beside_0x16 (m : BitVec 16) :
    BitVec.extractLsb' (n := 32) 16 16 (m ++ 0#16) = m :=
  (extract_high _ _ 0 16).trans <| extract_all _
@[simp] theorem get_s_of_s_b_n (s b : BitVec 8) (n : BitVec 16) :
    BitVec.extractLsb' (n := 32) 24 8 (s ++ (b ++ n)) = s :=
  (extract_high _ _ 0 8).trans <| extract_all _
@[simp] theorem get_b_of_s_b_n (s b : BitVec 8) (n : BitVec 16) :
    BitVec.extractLsb' (n := 32) 16 8 (s ++ (b ++ n)) = b :=
  (extract_within _ _ _ _ (by decide)).trans <| (extract_high _ _ 0 8).trans <| extract_all _
@[simp] theorem get_n_of_s_b_n (s b : BitVec 8) (n : BitVec 16) :
    BitVec.extractLsb' (n := 32) 0 16 (s ++ (b ++ n)) = n :=
  (extract_within _ _ _ _ (by decide)).trans <| extract_low _ _
@[simp] theorem get_n_of_n_at_0_beside_0x6 (n : BitVec 26) :
    BitVec.extractLsb' (n := 32) 0 26 (0#6 ++ n) = n :=
  extract_low _ _
@[simp] theorem get_t_of_t (t : BitVec 4) :
    BitVec.extractLsb' (n := 10) 0 4 (0#6 ++ t) = t :=
  extract_low _ _
@[simp] theorem get_kn_of_kn_t (t : RTy) (kn : Bool) :
    fbit (n := 10) (0#6 ++ (b1 kn ++ t.code)) 3 = kn :=
  (fbit_append _ _ _).trans <| (fbit_append _ _ _).trans <| fbit_b1 _
@[simp] theorem get_t_of_kn_t (t : RTy) (kn : Bool) :
    BitVec.extractLsb' (n := 10) 0 3 (0#6 ++ (b1 kn ++ t.code)) = t.code :=
  (extract_within _ _ _ _ (by decide)).trans <| extract_low _ _
@[simp] theorem get_rm_of_rm_t (t : RTy) (rm : Rm) :
    BitVec.extractLsb' (n := 10) 8 2 (rm.code ++ (0#5 ++ t.code)) = rm.code :=
  (extract_high _ _ 0 2).trans <| extract_all _
@[simp] theorem get_t_of_rm_t (t : RTy) (rm : Rm) :
    BitVec.extractLsb' (n := 10) 0 3 (rm.code ++ (0#5 ++ t.code)) = t.code :=
  (extract_within _ _ _ _ (by decide)).trans <| extract_low _ _
@[simp] theorem get_b_of_b_at_0_beside_1x9 (b : Bool) :
    fbit (n := 10) (1#9 ++ b1 b) 0 = b :=
  (fbit_append _ _ _).trans <| fbit_b1 _
@[simp] theorem get_f_of_f (f : BitVec 3) :
    BitVec.extractLsb' (n := 10) 0 3 (0#7 ++ f) = f :=
  extract_low _ _
@[simp] theorem get_c_of_c (c : BitVec 2) :
    BitVec.extractLsb' (n := 5) 0 2 (0#3 ++ c) = c :=
  extract_low _ _

@[simp] theorem FMod.encM_ty (f : FMod) (t : Ty) : (f.encM t).extractLsb' 0 5 = t.code := by
  obtain ⟨rm, z, na, nl⟩ := f
  cases rm <;> cases z <;> cases na <;> cases nl <;> cases t <;> rfl
@[simp] theorem FMod.decM_encM (f : FMod) (t : Ty) : FMod.decM (f.encM t) = f := by
  obtain ⟨rm, z, na, nl⟩ := f
  cases rm <;> cases z <;> cases na <;> cases nl <;> cases t <;> rfl
@[simp] theorem FMod.encM_rm (f : FMod) (t : Ty) : (f.encM t).extractLsb' 8 2 = f.rm.code := by
  obtain ⟨rm, z, na, nl⟩ := f
  cases rm <;> cases z <;> cases na <;> cases nl <;> cases t <;> rfl
@[simp] theorem FMod.encM_bits (f : FMod) (t : Ty) :
    fbit (f.encM t) 7 = f.ftz ∧ fbit (f.encM t) 6 = f.na ∧ fbit (f.encM t) 5 = f.nl := by
  obtain ⟨rm, z, na, nl⟩ := f
  cases rm <;> cases z <;> cases na <;> cases nl <;> cases t <;> exact ⟨rfl, rfl, rfl⟩

@[simp] theorem decOff_encFM (off : BitVec 24) (c : CHint) : decOff (encFM off c) = off :=
  (extract_high off _ 0 24).trans (extract_all _)
@[simp] theorem decHint_encFM (off : BitVec 24) (c : CHint) : decHint (encFM off c) = c := by
  have h1 : (encFM off c).extractLsb' 6 2 = c.l1 :=
    (extract_within off _ _ _ (by decide)).trans ((extract_high c.l1 _ 0 2).trans (extract_all _))
  have h2 : (encFM off c).extractLsb' 4 2 = c.home :=
    (extract_within off _ _ _ (by decide)).trans <| (extract_within c.l1 _ _ _ (by decide)).trans <|
      (extract_high c.home _ 0 2).trans (extract_all _)
  rw [decHint, h1, h2]
@[simp] theorem decOff_local (off : BitVec 24) : decOff (off ++ 0#8) = off :=
  (extract_high off _ 0 24).trans (extract_all _)

@[simp] theorem decGid_encFG (g : GidSrc) (c : BitVec 10) : decGid (encFG g c) = g := by
  cases g with
  | imm n =>
    have h1 : fbit (encFG (.imm n) c) 15 = false :=
      (fbit_append n _ 15).trans ((fbit_append (0#6) c 15).trans rfl)
    have h2 : (encFG (.imm n) c).extractLsb' 16 16 = n := (extract_high n _ 0 16).trans (extract_all _)
    rw [decGid, h1, h2]; rfl
  | w n =>
    have h1 : fbit (encFG (.w n) c) 15 = true :=
      (fbit_append (0#9) _ 15).trans ((fbit_append n _ 15).trans ((fbit_append (32#6) c 15).trans rfl))
    have h2 : (encFG (.w n) c).extractLsb' 16 7 = n :=
      (extract_within (0#9) _ _ _ (by decide)).trans ((extract_high n _ 0 7).trans (extract_all _))
    rw [decGid, h1, h2]; rfl
@[simp] theorem encFG_c (g : GidSrc) (c : BitVec 10) : (encFG g c).extractLsb' 0 10 = c := by
  cases g with
  | imm n => exact (extract_within n _ _ _ (by decide)).trans (extract_low (0#6) c)
  | w n => exact (extract_within (0#9) _ _ _ (by decide)).trans ((extract_within n _ _ _ (by decide)).trans (extract_low (32#6) c))

section
variable (pd : Pred) (dir opb : Bool) (low : BitVec 5)
@[simp] theorem decPD_encGM : decPD (encGM pd dir opb low) = pd := (extract_high pd _ 0 3).trans (extract_all _)
@[simp] theorem decDir_encGM : decDir (encGM pd dir opb low) = Dir.ofBit dir :=
  congrArg Dir.ofBit ((fbit_append pd _ 6).trans ((fbit_append (b1 dir) _ 6).trans (fbit_b1 dir)))
@[simp] theorem opb_encGM : fbit (encGM pd dir opb low) 5 = opb :=
  (fbit_append pd _ 5).trans ((fbit_append (b1 dir) _ 5).trans ((fbit_append (b1 opb) _ 5).trans (fbit_b1 opb)))
@[simp] theorem low_encGM : (encGM pd dir opb low).extractLsb' 0 5 = low :=
  (extract_within pd _ _ _ (by decide)).trans ((extract_within (b1 dir) _ _ _ (by decide)).trans (extract_low (b1 opb) low))
@[simp] theorem decCur_encGM (cur : BitVec 2) : decCur (encGM pd dir opb (0#3 ++ cur)) = cur :=
  (extract_within pd _ _ _ (by decide)).trans ((extract_within (b1 dir) _ _ _ (by decide)).trans
    ((extract_within (b1 opb) _ _ _ (by decide)).trans (extract_low (0#3) cur)))
end

@[simp] theorem get_xS (n : BitVec 12) : (xS n).extractLsb' 0 12 = n := extract_low _ _
@[simp] theorem get_fun_of_policy (f : BitVec 4) : BitVec.extractLsb' (n := 14) 0 4 (0#10 ++ f) = f := extract_low _ _
@[simp] theorem decDir_gather (m : GMode) (l d : Bool) :
    decDir (m.code ++ (b1 l ++ (b1 d ++ 0#6))) = Dir.ofBit d := by
  cases m <;> cases l <;> cases d <;> rfl

section
variable (op : BitVec 6) (d a b : BitVec 4) (i : BitVec 14)
theorem mkPol_op : (mkPol op d a b i).extractLsb' 26 6 = op := (extract_high op _ 0 6).trans (extract_all _)
theorem mkPol_d : (mkPol op d a b i).extractLsb' 22 4 = d :=
  (extract_within op _ _ _ (by decide)).trans ((extract_high d _ 0 4).trans (extract_all _))
theorem mkPol_a : (mkPol op d a b i).extractLsb' 18 4 = a :=
  (extract_within op _ _ _ (by decide)).trans ((extract_within d _ _ _ (by decide)).trans
    ((extract_high a _ 0 4).trans (extract_all _)))
theorem mkPol_b : (mkPol op d a b i).extractLsb' 14 4 = b :=
  (extract_within op _ _ _ (by decide)).trans ((extract_within d _ _ _ (by decide)).trans
    ((extract_within a _ _ _ (by decide)).trans ((extract_high b _ 0 4).trans (extract_all _))))
theorem mkPol_low (k : Nat) (h : 0 + k ≤ 14) : (mkPol op d a b i).extractLsb' 0 k = i.extractLsb' 0 k :=
  (extract_within op _ _ _ (by omega)).trans ((extract_within d _ _ _ (by omega)).trans
    ((extract_within a _ _ _ (by omega)).trans (extract_within b _ _ _ h)))
end

@[simp] theorem MaskSrc.decX_encX (m : MaskSrc) : MaskSrc.decX m.encX = m := by
  cases m with
  | all => rfl
  | w n =>
    revert n; decide

end Sys2Proof
end

