-- ==== Sys2Proof/Laws/Tbl.lean ====
section
/-! SUPPORT. Tables with natural keys: reading after putting, changing and removing, and the rising order of the keys. -/

namespace Sys2Proof.Machine

variable {α : Type}

@[simp] theorem tget_nil (n : Nat) : tget ([] : Tbl α) n = none := rfl

theorem tget_tput (t : Tbl α) (n m : Nat) (x : α) : tget (tput t n x) m = if m = n then some x else tget t m := by
  induction t with
  | nil => by_cases h : n = m <;> simp [tput, tget, h, eq_comm]
  | cons e t ih =>
    obtain ⟨k, v⟩ := e
    simp only [tput]
    by_cases h1 : n < k
    · by_cases h : n = m
      · subst h; simp [h1, tget]
      · simp [h1, tget, h, Ne.symm h]
    · by_cases h2 : n = k
      · subst h2; by_cases h : n = m
        · simp [tget, h]
        · simp [tget, h, Ne.symm h]
      · simp only [h1, h2, if_false, tget, ih]
        by_cases h3 : k = m
        · subst h3; simp [Ne.symm h2]
        · simp [h3]

@[simp] theorem tget_tput_same (t : Tbl α) (n : Nat) (x : α) : tget (tput t n x) n = some x := by simp [tget_tput]

theorem tget_tput_other (t : Tbl α) {n m : Nat} (x : α) (h : m ≠ n) : tget (tput t n x) m = tget t m := by
  simp [tget_tput, h]

theorem tget_tupd (t : Tbl α) (n m : Nat) (f : α → α) :
    tget (tupd t n f) m = if m = n then (tget t n).map f else tget t m := by
  unfold tupd
  cases h : tget t n with
  | none => by_cases h2 : m = n <;> simp [h2, h]
  | some x => by_cases h2 : m = n <;> simp [tget_tput, h2]

theorem tget_tmap (t : Tbl α) (f : Nat → α → α) (n : Nat) : tget (tmap t f) n = (tget t n).map (f n) := by
  induction t with
  | nil => rfl
  | cons e t ih =>
    obtain ⟨k, v⟩ := e
    by_cases h : k = n
    · subst h; simp [tmap, tget]
    · simpa [tmap, tget, h] using ih

/-! ## Rising keys -/

/-- Every key of a table is at least `n`. -/
def tabove (n : Nat) (t : Tbl α) : Prop := ∀ e ∈ t, n ≤ e.1

theorem twf_cons {k : Nat} {v : α} {t : Tbl α} : twf ((k, v) :: t) = true ↔ tabove (k + 1) t ∧ twf t = true := by
  induction t generalizing k v with
  | nil => simp [twf, tabove]
  | cons b t ih =>
    obtain ⟨l, w⟩ := b
    constructor
    · intro h
      simp only [twf, Bool.and_eq_true, decide_eq_true_eq] at h
      refine ⟨?_, h.2⟩
      have := (ih.mp h.2).1
      intro e he
      rcases List.mem_cons.mp he with rfl | he
      · exact h.1
      · have := this e he; have := h.1; simp at *; omega
    · rintro ⟨h1, h2⟩
      have := h1 (l, w) (by simp)
      simp only [twf, Bool.and_eq_true, decide_eq_true_eq]
      exact ⟨this, h2⟩

theorem tabove_tput {m n : Nat} {x : α} {t : Tbl α} (h : tabove m t) (hn : m ≤ n) : tabove m (tput t n x) := by
  induction t with
  | nil => intro e he; simp [tput] at he; subst he; exact hn
  | cons a t ih =>
    obtain ⟨k, v⟩ := a
    have hk := h (k, v) (by simp)
    have ht : tabove m t := fun e he => h e (by simp [he])
    simp only [tput]
    split
    · intro e he; rcases List.mem_cons.mp he with rfl | he
      · exact hn
      · exact h e he
    · split
      · intro e he; rcases List.mem_cons.mp he with rfl | he
        · exact hn
        · exact ht e he
      · intro e he; rcases List.mem_cons.mp he with rfl | he
        · exact hk
        · exact ih ht e he

theorem twf_tput (t : Tbl α) (n : Nat) (x : α) (h : twf t = true) : twf (tput t n x) = true := by
  induction t with
  | nil => rfl
  | cons a t ih =>
    obtain ⟨k, v⟩ := a
    have hc := twf_cons.mp h
    simp only [tput]
    split
    · rename_i h1; exact twf_cons.mpr ⟨fun e he => by
        rcases List.mem_cons.mp he with rfl | he
        · exact h1
        · have := hc.1 e he; omega, h⟩
    · split
      · rename_i h2; subst h2; exact twf_cons.mpr hc
      · exact twf_cons.mpr ⟨tabove_tput hc.1 (by omega), ih hc.2⟩

theorem mem_tdel {t : Tbl α} {n : Nat} {e : Nat × α} (h : e ∈ tdel t n) : e ∈ t := by
  induction t with
  | nil => simp [tdel] at h
  | cons a t ih =>
    obtain ⟨k, v⟩ := a
    simp only [tdel] at h
    split at h
    · simp [ih h]
    · rcases List.mem_cons.mp h with rfl | h
      · simp
      · simp [ih h]

theorem twf_tdel (t : Tbl α) (n : Nat) (h : twf t = true) : twf (tdel t n) = true := by
  induction t with
  | nil => rfl
  | cons a t ih =>
    obtain ⟨k, v⟩ := a
    have hc := twf_cons.mp h
    simp only [tdel]
    split
    · exact ih hc.2
    · exact twf_cons.mpr ⟨fun e he => hc.1 e (mem_tdel he), ih hc.2⟩

theorem tget_none_of_tabove {t : Tbl α} {m n : Nat} (h : tabove m t) (hn : n < m) : tget t n = none := by
  induction t with
  | nil => rfl
  | cons a t ih =>
    obtain ⟨k, v⟩ := a
    have hk := h (k, v) (by simp)
    have : k ≠ n := by simp at hk; omega
    simp [tget, this, ih fun e he => h e (by simp [he])]

theorem tget_tdel (t : Tbl α) (n m : Nat) : tget (tdel t n) m = if m = n then none else tget t m := by
  induction t with
  | nil => simp [tdel]
  | cons a t ih =>
    obtain ⟨k, v⟩ := a
    simp only [tdel]
    by_cases hk : k = n
    · subst hk
      simp only [if_true, ih, tget]
      by_cases hm : m = k
      · simp [hm]
      · simp [hm, Ne.symm hm]
    · simp only [hk, if_false, tget, ih]
      by_cases hm : k = m
      · subst hm; simp [hk]
      · simp [hm]

theorem twf_filter (t : Tbl α) (p : Nat × α → Bool) (h : twf t = true) : twf (t.filter p) = true := by
  induction t with
  | nil => rfl
  | cons a t ih =>
    obtain ⟨k, v⟩ := a
    have hc := twf_cons.mp h
    simp only [List.filter]
    split
    · exact twf_cons.mpr ⟨fun e he => hc.1 e (List.mem_filter.mp he).1, ih hc.2⟩
    · exact ih hc.2

end Sys2Proof.Machine
end

