-- ==== Sys2Proof/Laws/State.lean ====
section
/-! SUPPORT. The fields of the state after each of its updates: the table an update writes, and every other field as it
was. Each is true by the definition of the update. -/

namespace Sys2Proof.Machine

@[simp] theorem State.setLine_fields (s : State) (k : Nat) (x : Line) :
    (s.setLine k x).agenda = s.agenda ∧ (s.setLine k x).focus = s.focus ∧ (s.setLine k x).nextId = s.nextId ∧
    (s.setLine k x).freeCtr = s.freeCtr ∧ (s.setLine k x).cycle = s.cycle ∧ (s.setLine k x).ticked = s.ticked ∧
    (s.setLine k x).halved = s.halved ∧ (s.setLine k x).ceil = s.ceil ∧ (s.setLine k x).xts = s.xts ∧
    (s.setLine k x).mem = s.mem ∧ (s.setLine k x).poison = s.poison ∧ (s.setLine k x).lines = tput s.lines k x ∧
    (s.setLine k x).homes = s.homes ∧ (s.setLine k x).monitors = s.monitors ∧ (s.setLine k x).toks = s.toks ∧
    (s.setLine k x).tokens = s.tokens ∧ (s.setLine k x).cores = s.cores ∧ (s.setLine k x).clusters = s.clusters ∧
    (s.setLine k x).dies = s.dies ∧ (s.setLine k x).reqs = s.reqs ∧ (s.setLine k x).reps = s.reps ∧
    (s.setLine k x).flights = s.flights ∧ (s.setLine k x).waves = s.waves ∧ (s.setLine k x).teams = s.teams ∧
    (s.setLine k x).gangs = s.gangs ∧ (s.setLine k x).grids = s.grids ∧ (s.setLine k x).hops = s.hops ∧
    (s.setLine k x).areqs = s.areqs ∧ (s.setLine k x).unitQ = s.unitQ ∧ (s.setLine k x).mustQ = s.mustQ ∧
    (s.setLine k x).parts = s.parts ∧ (s.setLine k x).mboxes = s.mboxes ∧ (s.setLine k x).ctrl = s.ctrl ∧
    (s.setLine k x).answers = s.answers :=
  ⟨rfl, rfl, rfl, rfl, rfl, rfl, rfl, rfl, rfl, rfl, rfl, rfl, rfl, rfl, rfl, rfl, rfl, rfl, rfl, rfl, rfl, rfl, rfl, rfl, rfl, rfl, rfl, rfl, rfl, rfl, rfl, rfl, rfl, rfl⟩

@[simp] theorem State.setHome_fields (s : State) (k : Nat) (x : Home) :
    (s.setHome k x).agenda = s.agenda ∧ (s.setHome k x).focus = s.focus ∧ (s.setHome k x).nextId = s.nextId ∧
    (s.setHome k x).freeCtr = s.freeCtr ∧ (s.setHome k x).cycle = s.cycle ∧ (s.setHome k x).ticked = s.ticked ∧
    (s.setHome k x).halved = s.halved ∧ (s.setHome k x).ceil = s.ceil ∧ (s.setHome k x).xts = s.xts ∧
    (s.setHome k x).mem = s.mem ∧ (s.setHome k x).poison = s.poison ∧ (s.setHome k x).lines = s.lines ∧
    (s.setHome k x).homes = tput s.homes k x ∧ (s.setHome k x).monitors = s.monitors ∧
    (s.setHome k x).toks = s.toks ∧ (s.setHome k x).tokens = s.tokens ∧ (s.setHome k x).cores = s.cores ∧
    (s.setHome k x).clusters = s.clusters ∧ (s.setHome k x).dies = s.dies ∧ (s.setHome k x).reqs = s.reqs ∧
    (s.setHome k x).reps = s.reps ∧ (s.setHome k x).flights = s.flights ∧ (s.setHome k x).waves = s.waves ∧
    (s.setHome k x).teams = s.teams ∧ (s.setHome k x).gangs = s.gangs ∧ (s.setHome k x).grids = s.grids ∧
    (s.setHome k x).hops = s.hops ∧ (s.setHome k x).areqs = s.areqs ∧ (s.setHome k x).unitQ = s.unitQ ∧
    (s.setHome k x).mustQ = s.mustQ ∧ (s.setHome k x).parts = s.parts ∧ (s.setHome k x).mboxes = s.mboxes ∧
    (s.setHome k x).ctrl = s.ctrl ∧ (s.setHome k x).answers = s.answers :=
  ⟨rfl, rfl, rfl, rfl, rfl, rfl, rfl, rfl, rfl, rfl, rfl, rfl, rfl, rfl, rfl, rfl, rfl, rfl, rfl, rfl, rfl, rfl, rfl, rfl, rfl, rfl, rfl, rfl, rfl, rfl, rfl, rfl, rfl, rfl⟩

@[simp] theorem State.setCore_fields (s : State) (k : Nat) (x : Core) :
    (s.setCore k x).agenda = s.agenda ∧ (s.setCore k x).focus = s.focus ∧ (s.setCore k x).nextId = s.nextId ∧
    (s.setCore k x).freeCtr = s.freeCtr ∧ (s.setCore k x).cycle = s.cycle ∧ (s.setCore k x).ticked = s.ticked ∧
    (s.setCore k x).halved = s.halved ∧ (s.setCore k x).ceil = s.ceil ∧ (s.setCore k x).xts = s.xts ∧
    (s.setCore k x).mem = s.mem ∧ (s.setCore k x).poison = s.poison ∧ (s.setCore k x).lines = s.lines ∧
    (s.setCore k x).homes = s.homes ∧ (s.setCore k x).monitors = s.monitors ∧ (s.setCore k x).toks = s.toks ∧
    (s.setCore k x).tokens = s.tokens ∧ (s.setCore k x).cores = tput s.cores k x ∧
    (s.setCore k x).clusters = s.clusters ∧ (s.setCore k x).dies = s.dies ∧ (s.setCore k x).reqs = s.reqs ∧
    (s.setCore k x).reps = s.reps ∧ (s.setCore k x).flights = s.flights ∧ (s.setCore k x).waves = s.waves ∧
    (s.setCore k x).teams = s.teams ∧ (s.setCore k x).gangs = s.gangs ∧ (s.setCore k x).grids = s.grids ∧
    (s.setCore k x).hops = s.hops ∧ (s.setCore k x).areqs = s.areqs ∧ (s.setCore k x).unitQ = s.unitQ ∧
    (s.setCore k x).mustQ = s.mustQ ∧ (s.setCore k x).parts = s.parts ∧ (s.setCore k x).mboxes = s.mboxes ∧
    (s.setCore k x).ctrl = s.ctrl ∧ (s.setCore k x).answers = s.answers :=
  ⟨rfl, rfl, rfl, rfl, rfl, rfl, rfl, rfl, rfl, rfl, rfl, rfl, rfl, rfl, rfl, rfl, rfl, rfl, rfl, rfl, rfl, rfl, rfl, rfl, rfl, rfl, rfl, rfl, rfl, rfl, rfl, rfl, rfl, rfl⟩

@[simp] theorem State.setCluster_fields (s : State) (k : Nat) (x : Cluster) :
    (s.setCluster k x).agenda = s.agenda ∧ (s.setCluster k x).focus = s.focus ∧
    (s.setCluster k x).nextId = s.nextId ∧ (s.setCluster k x).freeCtr = s.freeCtr ∧
    (s.setCluster k x).cycle = s.cycle ∧ (s.setCluster k x).ticked = s.ticked ∧
    (s.setCluster k x).halved = s.halved ∧ (s.setCluster k x).ceil = s.ceil ∧ (s.setCluster k x).xts = s.xts ∧
    (s.setCluster k x).mem = s.mem ∧ (s.setCluster k x).poison = s.poison ∧ (s.setCluster k x).lines = s.lines ∧
    (s.setCluster k x).homes = s.homes ∧ (s.setCluster k x).monitors = s.monitors ∧
    (s.setCluster k x).toks = s.toks ∧ (s.setCluster k x).tokens = s.tokens ∧ (s.setCluster k x).cores = s.cores ∧
    (s.setCluster k x).clusters = tput s.clusters k x ∧ (s.setCluster k x).dies = s.dies ∧
    (s.setCluster k x).reqs = s.reqs ∧ (s.setCluster k x).reps = s.reps ∧ (s.setCluster k x).flights = s.flights ∧
    (s.setCluster k x).waves = s.waves ∧ (s.setCluster k x).teams = s.teams ∧ (s.setCluster k x).gangs = s.gangs ∧
    (s.setCluster k x).grids = s.grids ∧ (s.setCluster k x).hops = s.hops ∧ (s.setCluster k x).areqs = s.areqs ∧
    (s.setCluster k x).unitQ = s.unitQ ∧ (s.setCluster k x).mustQ = s.mustQ ∧ (s.setCluster k x).parts = s.parts ∧
    (s.setCluster k x).mboxes = s.mboxes ∧ (s.setCluster k x).ctrl = s.ctrl ∧
    (s.setCluster k x).answers = s.answers :=
  ⟨rfl, rfl, rfl, rfl, rfl, rfl, rfl, rfl, rfl, rfl, rfl, rfl, rfl, rfl, rfl, rfl, rfl, rfl, rfl, rfl, rfl, rfl, rfl, rfl, rfl, rfl, rfl, rfl, rfl, rfl, rfl, rfl, rfl, rfl⟩

@[simp] theorem State.setDie_fields (s : State) (k : Nat) (x : Die) :
    (s.setDie k x).agenda = s.agenda ∧ (s.setDie k x).focus = s.focus ∧ (s.setDie k x).nextId = s.nextId ∧
    (s.setDie k x).freeCtr = s.freeCtr ∧ (s.setDie k x).cycle = s.cycle ∧ (s.setDie k x).ticked = s.ticked ∧
    (s.setDie k x).halved = s.halved ∧ (s.setDie k x).ceil = s.ceil ∧ (s.setDie k x).xts = s.xts ∧
    (s.setDie k x).mem = s.mem ∧ (s.setDie k x).poison = s.poison ∧ (s.setDie k x).lines = s.lines ∧
    (s.setDie k x).homes = s.homes ∧ (s.setDie k x).monitors = s.monitors ∧ (s.setDie k x).toks = s.toks ∧
    (s.setDie k x).tokens = s.tokens ∧ (s.setDie k x).cores = s.cores ∧ (s.setDie k x).clusters = s.clusters ∧
    (s.setDie k x).dies = tput s.dies k x ∧ (s.setDie k x).reqs = s.reqs ∧ (s.setDie k x).reps = s.reps ∧
    (s.setDie k x).flights = s.flights ∧ (s.setDie k x).waves = s.waves ∧ (s.setDie k x).teams = s.teams ∧
    (s.setDie k x).gangs = s.gangs ∧ (s.setDie k x).grids = s.grids ∧ (s.setDie k x).hops = s.hops ∧
    (s.setDie k x).areqs = s.areqs ∧ (s.setDie k x).unitQ = s.unitQ ∧ (s.setDie k x).mustQ = s.mustQ ∧
    (s.setDie k x).parts = s.parts ∧ (s.setDie k x).mboxes = s.mboxes ∧ (s.setDie k x).ctrl = s.ctrl ∧
    (s.setDie k x).answers = s.answers :=
  ⟨rfl, rfl, rfl, rfl, rfl, rfl, rfl, rfl, rfl, rfl, rfl, rfl, rfl, rfl, rfl, rfl, rfl, rfl, rfl, rfl, rfl, rfl, rfl, rfl, rfl, rfl, rfl, rfl, rfl, rfl, rfl, rfl, rfl, rfl⟩

@[simp] theorem State.setWave_fields (s : State) (k : Nat) (x : Wave) :
    (s.setWave k x).agenda = s.agenda ∧ (s.setWave k x).focus = s.focus ∧ (s.setWave k x).nextId = s.nextId ∧
    (s.setWave k x).freeCtr = s.freeCtr ∧ (s.setWave k x).cycle = s.cycle ∧ (s.setWave k x).ticked = s.ticked ∧
    (s.setWave k x).halved = s.halved ∧ (s.setWave k x).ceil = s.ceil ∧ (s.setWave k x).xts = s.xts ∧
    (s.setWave k x).mem = s.mem ∧ (s.setWave k x).poison = s.poison ∧ (s.setWave k x).lines = s.lines ∧
    (s.setWave k x).homes = s.homes ∧ (s.setWave k x).monitors = s.monitors ∧ (s.setWave k x).toks = s.toks ∧
    (s.setWave k x).tokens = s.tokens ∧ (s.setWave k x).cores = s.cores ∧ (s.setWave k x).clusters = s.clusters ∧
    (s.setWave k x).dies = s.dies ∧ (s.setWave k x).reqs = s.reqs ∧ (s.setWave k x).reps = s.reps ∧
    (s.setWave k x).flights = s.flights ∧ (s.setWave k x).waves = tput s.waves k x ∧
    (s.setWave k x).teams = s.teams ∧ (s.setWave k x).gangs = s.gangs ∧ (s.setWave k x).grids = s.grids ∧
    (s.setWave k x).hops = s.hops ∧ (s.setWave k x).areqs = s.areqs ∧ (s.setWave k x).unitQ = s.unitQ ∧
    (s.setWave k x).mustQ = s.mustQ ∧ (s.setWave k x).parts = s.parts ∧ (s.setWave k x).mboxes = s.mboxes ∧
    (s.setWave k x).ctrl = s.ctrl ∧ (s.setWave k x).answers = s.answers :=
  ⟨rfl, rfl, rfl, rfl, rfl, rfl, rfl, rfl, rfl, rfl, rfl, rfl, rfl, rfl, rfl, rfl, rfl, rfl, rfl, rfl, rfl, rfl, rfl, rfl, rfl, rfl, rfl, rfl, rfl, rfl, rfl, rfl, rfl, rfl⟩

@[simp] theorem State.setTeam_fields (s : State) (k : Nat) (x : Team) :
    (s.setTeam k x).agenda = s.agenda ∧ (s.setTeam k x).focus = s.focus ∧ (s.setTeam k x).nextId = s.nextId ∧
    (s.setTeam k x).freeCtr = s.freeCtr ∧ (s.setTeam k x).cycle = s.cycle ∧ (s.setTeam k x).ticked = s.ticked ∧
    (s.setTeam k x).halved = s.halved ∧ (s.setTeam k x).ceil = s.ceil ∧ (s.setTeam k x).xts = s.xts ∧
    (s.setTeam k x).mem = s.mem ∧ (s.setTeam k x).poison = s.poison ∧ (s.setTeam k x).lines = s.lines ∧
    (s.setTeam k x).homes = s.homes ∧ (s.setTeam k x).monitors = s.monitors ∧ (s.setTeam k x).toks = s.toks ∧
    (s.setTeam k x).tokens = s.tokens ∧ (s.setTeam k x).cores = s.cores ∧ (s.setTeam k x).clusters = s.clusters ∧
    (s.setTeam k x).dies = s.dies ∧ (s.setTeam k x).reqs = s.reqs ∧ (s.setTeam k x).reps = s.reps ∧
    (s.setTeam k x).flights = s.flights ∧ (s.setTeam k x).waves = s.waves ∧
    (s.setTeam k x).teams = tput s.teams k x ∧ (s.setTeam k x).gangs = s.gangs ∧ (s.setTeam k x).grids = s.grids ∧
    (s.setTeam k x).hops = s.hops ∧ (s.setTeam k x).areqs = s.areqs ∧ (s.setTeam k x).unitQ = s.unitQ ∧
    (s.setTeam k x).mustQ = s.mustQ ∧ (s.setTeam k x).parts = s.parts ∧ (s.setTeam k x).mboxes = s.mboxes ∧
    (s.setTeam k x).ctrl = s.ctrl ∧ (s.setTeam k x).answers = s.answers :=
  ⟨rfl, rfl, rfl, rfl, rfl, rfl, rfl, rfl, rfl, rfl, rfl, rfl, rfl, rfl, rfl, rfl, rfl, rfl, rfl, rfl, rfl, rfl, rfl, rfl, rfl, rfl, rfl, rfl, rfl, rfl, rfl, rfl, rfl, rfl⟩

@[simp] theorem State.setGang_fields (s : State) (k : Nat) (x : Gang) :
    (s.setGang k x).agenda = s.agenda ∧ (s.setGang k x).focus = s.focus ∧ (s.setGang k x).nextId = s.nextId ∧
    (s.setGang k x).freeCtr = s.freeCtr ∧ (s.setGang k x).cycle = s.cycle ∧ (s.setGang k x).ticked = s.ticked ∧
    (s.setGang k x).halved = s.halved ∧ (s.setGang k x).ceil = s.ceil ∧ (s.setGang k x).xts = s.xts ∧
    (s.setGang k x).mem = s.mem ∧ (s.setGang k x).poison = s.poison ∧ (s.setGang k x).lines = s.lines ∧
    (s.setGang k x).homes = s.homes ∧ (s.setGang k x).monitors = s.monitors ∧ (s.setGang k x).toks = s.toks ∧
    (s.setGang k x).tokens = s.tokens ∧ (s.setGang k x).cores = s.cores ∧ (s.setGang k x).clusters = s.clusters ∧
    (s.setGang k x).dies = s.dies ∧ (s.setGang k x).reqs = s.reqs ∧ (s.setGang k x).reps = s.reps ∧
    (s.setGang k x).flights = s.flights ∧ (s.setGang k x).waves = s.waves ∧ (s.setGang k x).teams = s.teams ∧
    (s.setGang k x).gangs = tput s.gangs k x ∧ (s.setGang k x).grids = s.grids ∧ (s.setGang k x).hops = s.hops ∧
    (s.setGang k x).areqs = s.areqs ∧ (s.setGang k x).unitQ = s.unitQ ∧ (s.setGang k x).mustQ = s.mustQ ∧
    (s.setGang k x).parts = s.parts ∧ (s.setGang k x).mboxes = s.mboxes ∧ (s.setGang k x).ctrl = s.ctrl ∧
    (s.setGang k x).answers = s.answers :=
  ⟨rfl, rfl, rfl, rfl, rfl, rfl, rfl, rfl, rfl, rfl, rfl, rfl, rfl, rfl, rfl, rfl, rfl, rfl, rfl, rfl, rfl, rfl, rfl, rfl, rfl, rfl, rfl, rfl, rfl, rfl, rfl, rfl, rfl, rfl⟩

@[simp] theorem State.setGrid_fields (s : State) (k : Nat) (x : Grid) :
    (s.setGrid k x).agenda = s.agenda ∧ (s.setGrid k x).focus = s.focus ∧ (s.setGrid k x).nextId = s.nextId ∧
    (s.setGrid k x).freeCtr = s.freeCtr ∧ (s.setGrid k x).cycle = s.cycle ∧ (s.setGrid k x).ticked = s.ticked ∧
    (s.setGrid k x).halved = s.halved ∧ (s.setGrid k x).ceil = s.ceil ∧ (s.setGrid k x).xts = s.xts ∧
    (s.setGrid k x).mem = s.mem ∧ (s.setGrid k x).poison = s.poison ∧ (s.setGrid k x).lines = s.lines ∧
    (s.setGrid k x).homes = s.homes ∧ (s.setGrid k x).monitors = s.monitors ∧ (s.setGrid k x).toks = s.toks ∧
    (s.setGrid k x).tokens = s.tokens ∧ (s.setGrid k x).cores = s.cores ∧ (s.setGrid k x).clusters = s.clusters ∧
    (s.setGrid k x).dies = s.dies ∧ (s.setGrid k x).reqs = s.reqs ∧ (s.setGrid k x).reps = s.reps ∧
    (s.setGrid k x).flights = s.flights ∧ (s.setGrid k x).waves = s.waves ∧ (s.setGrid k x).teams = s.teams ∧
    (s.setGrid k x).gangs = s.gangs ∧ (s.setGrid k x).grids = tput s.grids k x ∧ (s.setGrid k x).hops = s.hops ∧
    (s.setGrid k x).areqs = s.areqs ∧ (s.setGrid k x).unitQ = s.unitQ ∧ (s.setGrid k x).mustQ = s.mustQ ∧
    (s.setGrid k x).parts = s.parts ∧ (s.setGrid k x).mboxes = s.mboxes ∧ (s.setGrid k x).ctrl = s.ctrl ∧
    (s.setGrid k x).answers = s.answers :=
  ⟨rfl, rfl, rfl, rfl, rfl, rfl, rfl, rfl, rfl, rfl, rfl, rfl, rfl, rfl, rfl, rfl, rfl, rfl, rfl, rfl, rfl, rfl, rfl, rfl, rfl, rfl, rfl, rfl, rfl, rfl, rfl, rfl, rfl, rfl⟩

@[simp] theorem State.setPart_fields (s : State) (k : Nat) (x : Part) :
    (s.setPart k x).agenda = s.agenda ∧ (s.setPart k x).focus = s.focus ∧ (s.setPart k x).nextId = s.nextId ∧
    (s.setPart k x).freeCtr = s.freeCtr ∧ (s.setPart k x).cycle = s.cycle ∧ (s.setPart k x).ticked = s.ticked ∧
    (s.setPart k x).halved = s.halved ∧ (s.setPart k x).ceil = s.ceil ∧ (s.setPart k x).xts = s.xts ∧
    (s.setPart k x).mem = s.mem ∧ (s.setPart k x).poison = s.poison ∧ (s.setPart k x).lines = s.lines ∧
    (s.setPart k x).homes = s.homes ∧ (s.setPart k x).monitors = s.monitors ∧ (s.setPart k x).toks = s.toks ∧
    (s.setPart k x).tokens = s.tokens ∧ (s.setPart k x).cores = s.cores ∧ (s.setPart k x).clusters = s.clusters ∧
    (s.setPart k x).dies = s.dies ∧ (s.setPart k x).reqs = s.reqs ∧ (s.setPart k x).reps = s.reps ∧
    (s.setPart k x).flights = s.flights ∧ (s.setPart k x).waves = s.waves ∧ (s.setPart k x).teams = s.teams ∧
    (s.setPart k x).gangs = s.gangs ∧ (s.setPart k x).grids = s.grids ∧ (s.setPart k x).hops = s.hops ∧
    (s.setPart k x).areqs = s.areqs ∧ (s.setPart k x).unitQ = s.unitQ ∧ (s.setPart k x).mustQ = s.mustQ ∧
    (s.setPart k x).parts = tput s.parts k x ∧ (s.setPart k x).mboxes = s.mboxes ∧ (s.setPart k x).ctrl = s.ctrl ∧
    (s.setPart k x).answers = s.answers :=
  ⟨rfl, rfl, rfl, rfl, rfl, rfl, rfl, rfl, rfl, rfl, rfl, rfl, rfl, rfl, rfl, rfl, rfl, rfl, rfl, rfl, rfl, rfl, rfl, rfl, rfl, rfl, rfl, rfl, rfl, rfl, rfl, rfl, rfl, rfl⟩

@[simp] theorem State.setMbox_fields (s : State) (k : Nat) (x : Mbox) :
    (s.setMbox k x).agenda = s.agenda ∧ (s.setMbox k x).focus = s.focus ∧ (s.setMbox k x).nextId = s.nextId ∧
    (s.setMbox k x).freeCtr = s.freeCtr ∧ (s.setMbox k x).cycle = s.cycle ∧ (s.setMbox k x).ticked = s.ticked ∧
    (s.setMbox k x).halved = s.halved ∧ (s.setMbox k x).ceil = s.ceil ∧ (s.setMbox k x).xts = s.xts ∧
    (s.setMbox k x).mem = s.mem ∧ (s.setMbox k x).poison = s.poison ∧ (s.setMbox k x).lines = s.lines ∧
    (s.setMbox k x).homes = s.homes ∧ (s.setMbox k x).monitors = s.monitors ∧ (s.setMbox k x).toks = s.toks ∧
    (s.setMbox k x).tokens = s.tokens ∧ (s.setMbox k x).cores = s.cores ∧ (s.setMbox k x).clusters = s.clusters ∧
    (s.setMbox k x).dies = s.dies ∧ (s.setMbox k x).reqs = s.reqs ∧ (s.setMbox k x).reps = s.reps ∧
    (s.setMbox k x).flights = s.flights ∧ (s.setMbox k x).waves = s.waves ∧ (s.setMbox k x).teams = s.teams ∧
    (s.setMbox k x).gangs = s.gangs ∧ (s.setMbox k x).grids = s.grids ∧ (s.setMbox k x).hops = s.hops ∧
    (s.setMbox k x).areqs = s.areqs ∧ (s.setMbox k x).unitQ = s.unitQ ∧ (s.setMbox k x).mustQ = s.mustQ ∧
    (s.setMbox k x).parts = s.parts ∧ (s.setMbox k x).mboxes = tput s.mboxes k x ∧ (s.setMbox k x).ctrl = s.ctrl ∧
    (s.setMbox k x).answers = s.answers :=
  ⟨rfl, rfl, rfl, rfl, rfl, rfl, rfl, rfl, rfl, rfl, rfl, rfl, rfl, rfl, rfl, rfl, rfl, rfl, rfl, rfl, rfl, rfl, rfl, rfl, rfl, rfl, rfl, rfl, rfl, rfl, rfl, rfl, rfl, rfl⟩

@[simp] theorem State.updWave_fields (s : State) (k : Nat) (f : Wave → Wave) :
    (s.updWave k f).agenda = s.agenda ∧ (s.updWave k f).focus = s.focus ∧ (s.updWave k f).nextId = s.nextId ∧
    (s.updWave k f).freeCtr = s.freeCtr ∧ (s.updWave k f).cycle = s.cycle ∧ (s.updWave k f).ticked = s.ticked ∧
    (s.updWave k f).halved = s.halved ∧ (s.updWave k f).ceil = s.ceil ∧ (s.updWave k f).xts = s.xts ∧
    (s.updWave k f).mem = s.mem ∧ (s.updWave k f).poison = s.poison ∧ (s.updWave k f).lines = s.lines ∧
    (s.updWave k f).homes = s.homes ∧ (s.updWave k f).monitors = s.monitors ∧ (s.updWave k f).toks = s.toks ∧
    (s.updWave k f).tokens = s.tokens ∧ (s.updWave k f).cores = s.cores ∧ (s.updWave k f).clusters = s.clusters ∧
    (s.updWave k f).dies = s.dies ∧ (s.updWave k f).reqs = s.reqs ∧ (s.updWave k f).reps = s.reps ∧
    (s.updWave k f).flights = s.flights ∧ (s.updWave k f).waves = tupd s.waves k f ∧
    (s.updWave k f).teams = s.teams ∧ (s.updWave k f).gangs = s.gangs ∧ (s.updWave k f).grids = s.grids ∧
    (s.updWave k f).hops = s.hops ∧ (s.updWave k f).areqs = s.areqs ∧ (s.updWave k f).unitQ = s.unitQ ∧
    (s.updWave k f).mustQ = s.mustQ ∧ (s.updWave k f).parts = s.parts ∧ (s.updWave k f).mboxes = s.mboxes ∧
    (s.updWave k f).ctrl = s.ctrl ∧ (s.updWave k f).answers = s.answers :=
  ⟨rfl, rfl, rfl, rfl, rfl, rfl, rfl, rfl, rfl, rfl, rfl, rfl, rfl, rfl, rfl, rfl, rfl, rfl, rfl, rfl, rfl, rfl, rfl, rfl, rfl, rfl, rfl, rfl, rfl, rfl, rfl, rfl, rfl, rfl⟩

@[simp] theorem State.updTeam_fields (s : State) (k : Nat) (f : Team → Team) :
    (s.updTeam k f).agenda = s.agenda ∧ (s.updTeam k f).focus = s.focus ∧ (s.updTeam k f).nextId = s.nextId ∧
    (s.updTeam k f).freeCtr = s.freeCtr ∧ (s.updTeam k f).cycle = s.cycle ∧ (s.updTeam k f).ticked = s.ticked ∧
    (s.updTeam k f).halved = s.halved ∧ (s.updTeam k f).ceil = s.ceil ∧ (s.updTeam k f).xts = s.xts ∧
    (s.updTeam k f).mem = s.mem ∧ (s.updTeam k f).poison = s.poison ∧ (s.updTeam k f).lines = s.lines ∧
    (s.updTeam k f).homes = s.homes ∧ (s.updTeam k f).monitors = s.monitors ∧ (s.updTeam k f).toks = s.toks ∧
    (s.updTeam k f).tokens = s.tokens ∧ (s.updTeam k f).cores = s.cores ∧ (s.updTeam k f).clusters = s.clusters ∧
    (s.updTeam k f).dies = s.dies ∧ (s.updTeam k f).reqs = s.reqs ∧ (s.updTeam k f).reps = s.reps ∧
    (s.updTeam k f).flights = s.flights ∧ (s.updTeam k f).waves = s.waves ∧
    (s.updTeam k f).teams = tupd s.teams k f ∧ (s.updTeam k f).gangs = s.gangs ∧ (s.updTeam k f).grids = s.grids ∧
    (s.updTeam k f).hops = s.hops ∧ (s.updTeam k f).areqs = s.areqs ∧ (s.updTeam k f).unitQ = s.unitQ ∧
    (s.updTeam k f).mustQ = s.mustQ ∧ (s.updTeam k f).parts = s.parts ∧ (s.updTeam k f).mboxes = s.mboxes ∧
    (s.updTeam k f).ctrl = s.ctrl ∧ (s.updTeam k f).answers = s.answers :=
  ⟨rfl, rfl, rfl, rfl, rfl, rfl, rfl, rfl, rfl, rfl, rfl, rfl, rfl, rfl, rfl, rfl, rfl, rfl, rfl, rfl, rfl, rfl, rfl, rfl, rfl, rfl, rfl, rfl, rfl, rfl, rfl, rfl, rfl, rfl⟩

@[simp] theorem State.updGang_fields (s : State) (k : Nat) (f : Gang → Gang) :
    (s.updGang k f).agenda = s.agenda ∧ (s.updGang k f).focus = s.focus ∧ (s.updGang k f).nextId = s.nextId ∧
    (s.updGang k f).freeCtr = s.freeCtr ∧ (s.updGang k f).cycle = s.cycle ∧ (s.updGang k f).ticked = s.ticked ∧
    (s.updGang k f).halved = s.halved ∧ (s.updGang k f).ceil = s.ceil ∧ (s.updGang k f).xts = s.xts ∧
    (s.updGang k f).mem = s.mem ∧ (s.updGang k f).poison = s.poison ∧ (s.updGang k f).lines = s.lines ∧
    (s.updGang k f).homes = s.homes ∧ (s.updGang k f).monitors = s.monitors ∧ (s.updGang k f).toks = s.toks ∧
    (s.updGang k f).tokens = s.tokens ∧ (s.updGang k f).cores = s.cores ∧ (s.updGang k f).clusters = s.clusters ∧
    (s.updGang k f).dies = s.dies ∧ (s.updGang k f).reqs = s.reqs ∧ (s.updGang k f).reps = s.reps ∧
    (s.updGang k f).flights = s.flights ∧ (s.updGang k f).waves = s.waves ∧ (s.updGang k f).teams = s.teams ∧
    (s.updGang k f).gangs = tupd s.gangs k f ∧ (s.updGang k f).grids = s.grids ∧ (s.updGang k f).hops = s.hops ∧
    (s.updGang k f).areqs = s.areqs ∧ (s.updGang k f).unitQ = s.unitQ ∧ (s.updGang k f).mustQ = s.mustQ ∧
    (s.updGang k f).parts = s.parts ∧ (s.updGang k f).mboxes = s.mboxes ∧ (s.updGang k f).ctrl = s.ctrl ∧
    (s.updGang k f).answers = s.answers :=
  ⟨rfl, rfl, rfl, rfl, rfl, rfl, rfl, rfl, rfl, rfl, rfl, rfl, rfl, rfl, rfl, rfl, rfl, rfl, rfl, rfl, rfl, rfl, rfl, rfl, rfl, rfl, rfl, rfl, rfl, rfl, rfl, rfl, rfl, rfl⟩

@[simp] theorem State.updGrid_fields (s : State) (k : Nat) (f : Grid → Grid) :
    (s.updGrid k f).agenda = s.agenda ∧ (s.updGrid k f).focus = s.focus ∧ (s.updGrid k f).nextId = s.nextId ∧
    (s.updGrid k f).freeCtr = s.freeCtr ∧ (s.updGrid k f).cycle = s.cycle ∧ (s.updGrid k f).ticked = s.ticked ∧
    (s.updGrid k f).halved = s.halved ∧ (s.updGrid k f).ceil = s.ceil ∧ (s.updGrid k f).xts = s.xts ∧
    (s.updGrid k f).mem = s.mem ∧ (s.updGrid k f).poison = s.poison ∧ (s.updGrid k f).lines = s.lines ∧
    (s.updGrid k f).homes = s.homes ∧ (s.updGrid k f).monitors = s.monitors ∧ (s.updGrid k f).toks = s.toks ∧
    (s.updGrid k f).tokens = s.tokens ∧ (s.updGrid k f).cores = s.cores ∧ (s.updGrid k f).clusters = s.clusters ∧
    (s.updGrid k f).dies = s.dies ∧ (s.updGrid k f).reqs = s.reqs ∧ (s.updGrid k f).reps = s.reps ∧
    (s.updGrid k f).flights = s.flights ∧ (s.updGrid k f).waves = s.waves ∧ (s.updGrid k f).teams = s.teams ∧
    (s.updGrid k f).gangs = s.gangs ∧ (s.updGrid k f).grids = tupd s.grids k f ∧ (s.updGrid k f).hops = s.hops ∧
    (s.updGrid k f).areqs = s.areqs ∧ (s.updGrid k f).unitQ = s.unitQ ∧ (s.updGrid k f).mustQ = s.mustQ ∧
    (s.updGrid k f).parts = s.parts ∧ (s.updGrid k f).mboxes = s.mboxes ∧ (s.updGrid k f).ctrl = s.ctrl ∧
    (s.updGrid k f).answers = s.answers :=
  ⟨rfl, rfl, rfl, rfl, rfl, rfl, rfl, rfl, rfl, rfl, rfl, rfl, rfl, rfl, rfl, rfl, rfl, rfl, rfl, rfl, rfl, rfl, rfl, rfl, rfl, rfl, rfl, rfl, rfl, rfl, rfl, rfl, rfl, rfl⟩

@[simp] theorem State.updPart_fields (s : State) (k : Nat) (f : Part → Part) :
    (s.updPart k f).agenda = s.agenda ∧ (s.updPart k f).focus = s.focus ∧ (s.updPart k f).nextId = s.nextId ∧
    (s.updPart k f).freeCtr = s.freeCtr ∧ (s.updPart k f).cycle = s.cycle ∧ (s.updPart k f).ticked = s.ticked ∧
    (s.updPart k f).halved = s.halved ∧ (s.updPart k f).ceil = s.ceil ∧ (s.updPart k f).xts = s.xts ∧
    (s.updPart k f).mem = s.mem ∧ (s.updPart k f).poison = s.poison ∧ (s.updPart k f).lines = s.lines ∧
    (s.updPart k f).homes = s.homes ∧ (s.updPart k f).monitors = s.monitors ∧ (s.updPart k f).toks = s.toks ∧
    (s.updPart k f).tokens = s.tokens ∧ (s.updPart k f).cores = s.cores ∧ (s.updPart k f).clusters = s.clusters ∧
    (s.updPart k f).dies = s.dies ∧ (s.updPart k f).reqs = s.reqs ∧ (s.updPart k f).reps = s.reps ∧
    (s.updPart k f).flights = s.flights ∧ (s.updPart k f).waves = s.waves ∧ (s.updPart k f).teams = s.teams ∧
    (s.updPart k f).gangs = s.gangs ∧ (s.updPart k f).grids = s.grids ∧ (s.updPart k f).hops = s.hops ∧
    (s.updPart k f).areqs = s.areqs ∧ (s.updPart k f).unitQ = s.unitQ ∧ (s.updPart k f).mustQ = s.mustQ ∧
    (s.updPart k f).parts = tupd s.parts k f ∧ (s.updPart k f).mboxes = s.mboxes ∧ (s.updPart k f).ctrl = s.ctrl ∧
    (s.updPart k f).answers = s.answers :=
  ⟨rfl, rfl, rfl, rfl, rfl, rfl, rfl, rfl, rfl, rfl, rfl, rfl, rfl, rfl, rfl, rfl, rfl, rfl, rfl, rfl, rfl, rfl, rfl, rfl, rfl, rfl, rfl, rfl, rfl, rfl, rfl, rfl, rfl, rfl⟩

@[simp] theorem State.updHop_fields (s : State) (k : Nat) (f : HodOp → HodOp) :
    (s.updHop k f).agenda = s.agenda ∧ (s.updHop k f).focus = s.focus ∧ (s.updHop k f).nextId = s.nextId ∧
    (s.updHop k f).freeCtr = s.freeCtr ∧ (s.updHop k f).cycle = s.cycle ∧ (s.updHop k f).ticked = s.ticked ∧
    (s.updHop k f).halved = s.halved ∧ (s.updHop k f).ceil = s.ceil ∧ (s.updHop k f).xts = s.xts ∧
    (s.updHop k f).mem = s.mem ∧ (s.updHop k f).poison = s.poison ∧ (s.updHop k f).lines = s.lines ∧
    (s.updHop k f).homes = s.homes ∧ (s.updHop k f).monitors = s.monitors ∧ (s.updHop k f).toks = s.toks ∧
    (s.updHop k f).tokens = s.tokens ∧ (s.updHop k f).cores = s.cores ∧ (s.updHop k f).clusters = s.clusters ∧
    (s.updHop k f).dies = s.dies ∧ (s.updHop k f).reqs = s.reqs ∧ (s.updHop k f).reps = s.reps ∧
    (s.updHop k f).flights = s.flights ∧ (s.updHop k f).waves = s.waves ∧ (s.updHop k f).teams = s.teams ∧
    (s.updHop k f).gangs = s.gangs ∧ (s.updHop k f).grids = s.grids ∧ (s.updHop k f).hops = tupd s.hops k f ∧
    (s.updHop k f).areqs = s.areqs ∧ (s.updHop k f).unitQ = s.unitQ ∧ (s.updHop k f).mustQ = s.mustQ ∧
    (s.updHop k f).parts = s.parts ∧ (s.updHop k f).mboxes = s.mboxes ∧ (s.updHop k f).ctrl = s.ctrl ∧
    (s.updHop k f).answers = s.answers :=
  ⟨rfl, rfl, rfl, rfl, rfl, rfl, rfl, rfl, rfl, rfl, rfl, rfl, rfl, rfl, rfl, rfl, rfl, rfl, rfl, rfl, rfl, rfl, rfl, rfl, rfl, rfl, rfl, rfl, rfl, rfl, rfl, rfl, rfl, rfl⟩

@[simp] theorem State.updCore_fields (s : State) (k : Nat) (f : Core → Core) :
    (s.updCore k f).agenda = s.agenda ∧ (s.updCore k f).focus = s.focus ∧ (s.updCore k f).nextId = s.nextId ∧
    (s.updCore k f).freeCtr = s.freeCtr ∧ (s.updCore k f).cycle = s.cycle ∧ (s.updCore k f).ticked = s.ticked ∧
    (s.updCore k f).halved = s.halved ∧ (s.updCore k f).ceil = s.ceil ∧ (s.updCore k f).xts = s.xts ∧
    (s.updCore k f).mem = s.mem ∧ (s.updCore k f).poison = s.poison ∧ (s.updCore k f).lines = s.lines ∧
    (s.updCore k f).homes = s.homes ∧ (s.updCore k f).monitors = s.monitors ∧ (s.updCore k f).toks = s.toks ∧
    (s.updCore k f).tokens = s.tokens ∧ (s.updCore k f).cores = tput s.cores k (f (s.core k)) ∧
    (s.updCore k f).clusters = s.clusters ∧ (s.updCore k f).dies = s.dies ∧ (s.updCore k f).reqs = s.reqs ∧
    (s.updCore k f).reps = s.reps ∧ (s.updCore k f).flights = s.flights ∧ (s.updCore k f).waves = s.waves ∧
    (s.updCore k f).teams = s.teams ∧ (s.updCore k f).gangs = s.gangs ∧ (s.updCore k f).grids = s.grids ∧
    (s.updCore k f).hops = s.hops ∧ (s.updCore k f).areqs = s.areqs ∧ (s.updCore k f).unitQ = s.unitQ ∧
    (s.updCore k f).mustQ = s.mustQ ∧ (s.updCore k f).parts = s.parts ∧ (s.updCore k f).mboxes = s.mboxes ∧
    (s.updCore k f).ctrl = s.ctrl ∧ (s.updCore k f).answers = s.answers :=
  ⟨rfl, rfl, rfl, rfl, rfl, rfl, rfl, rfl, rfl, rfl, rfl, rfl, rfl, rfl, rfl, rfl, rfl, rfl, rfl, rfl, rfl, rfl, rfl, rfl, rfl, rfl, rfl, rfl, rfl, rfl, rfl, rfl, rfl, rfl⟩

@[simp] theorem State.updCluster_fields (s : State) (k : Nat) (f : Cluster → Cluster) :
    (s.updCluster k f).agenda = s.agenda ∧ (s.updCluster k f).focus = s.focus ∧
    (s.updCluster k f).nextId = s.nextId ∧ (s.updCluster k f).freeCtr = s.freeCtr ∧
    (s.updCluster k f).cycle = s.cycle ∧ (s.updCluster k f).ticked = s.ticked ∧
    (s.updCluster k f).halved = s.halved ∧ (s.updCluster k f).ceil = s.ceil ∧ (s.updCluster k f).xts = s.xts ∧
    (s.updCluster k f).mem = s.mem ∧ (s.updCluster k f).poison = s.poison ∧ (s.updCluster k f).lines = s.lines ∧
    (s.updCluster k f).homes = s.homes ∧ (s.updCluster k f).monitors = s.monitors ∧
    (s.updCluster k f).toks = s.toks ∧ (s.updCluster k f).tokens = s.tokens ∧ (s.updCluster k f).cores = s.cores ∧
    (s.updCluster k f).clusters = tput s.clusters k (f (s.cluster k)) ∧ (s.updCluster k f).dies = s.dies ∧
    (s.updCluster k f).reqs = s.reqs ∧ (s.updCluster k f).reps = s.reps ∧ (s.updCluster k f).flights = s.flights ∧
    (s.updCluster k f).waves = s.waves ∧ (s.updCluster k f).teams = s.teams ∧ (s.updCluster k f).gangs = s.gangs ∧
    (s.updCluster k f).grids = s.grids ∧ (s.updCluster k f).hops = s.hops ∧ (s.updCluster k f).areqs = s.areqs ∧
    (s.updCluster k f).unitQ = s.unitQ ∧ (s.updCluster k f).mustQ = s.mustQ ∧ (s.updCluster k f).parts = s.parts ∧
    (s.updCluster k f).mboxes = s.mboxes ∧ (s.updCluster k f).ctrl = s.ctrl ∧
    (s.updCluster k f).answers = s.answers :=
  ⟨rfl, rfl, rfl, rfl, rfl, rfl, rfl, rfl, rfl, rfl, rfl, rfl, rfl, rfl, rfl, rfl, rfl, rfl, rfl, rfl, rfl, rfl, rfl, rfl, rfl, rfl, rfl, rfl, rfl, rfl, rfl, rfl, rfl, rfl⟩

@[simp] theorem State.updDie_fields (s : State) (k : Nat) (f : Die → Die) :
    (s.updDie k f).agenda = s.agenda ∧ (s.updDie k f).focus = s.focus ∧ (s.updDie k f).nextId = s.nextId ∧
    (s.updDie k f).freeCtr = s.freeCtr ∧ (s.updDie k f).cycle = s.cycle ∧ (s.updDie k f).ticked = s.ticked ∧
    (s.updDie k f).halved = s.halved ∧ (s.updDie k f).ceil = s.ceil ∧ (s.updDie k f).xts = s.xts ∧
    (s.updDie k f).mem = s.mem ∧ (s.updDie k f).poison = s.poison ∧ (s.updDie k f).lines = s.lines ∧
    (s.updDie k f).homes = s.homes ∧ (s.updDie k f).monitors = s.monitors ∧ (s.updDie k f).toks = s.toks ∧
    (s.updDie k f).tokens = s.tokens ∧ (s.updDie k f).cores = s.cores ∧ (s.updDie k f).clusters = s.clusters ∧
    (s.updDie k f).dies = tput s.dies k (f (s.die k)) ∧ (s.updDie k f).reqs = s.reqs ∧ (s.updDie k f).reps = s.reps ∧
    (s.updDie k f).flights = s.flights ∧ (s.updDie k f).waves = s.waves ∧ (s.updDie k f).teams = s.teams ∧
    (s.updDie k f).gangs = s.gangs ∧ (s.updDie k f).grids = s.grids ∧ (s.updDie k f).hops = s.hops ∧
    (s.updDie k f).areqs = s.areqs ∧ (s.updDie k f).unitQ = s.unitQ ∧ (s.updDie k f).mustQ = s.mustQ ∧
    (s.updDie k f).parts = s.parts ∧ (s.updDie k f).mboxes = s.mboxes ∧ (s.updDie k f).ctrl = s.ctrl ∧
    (s.updDie k f).answers = s.answers :=
  ⟨rfl, rfl, rfl, rfl, rfl, rfl, rfl, rfl, rfl, rfl, rfl, rfl, rfl, rfl, rfl, rfl, rfl, rfl, rfl, rfl, rfl, rfl, rfl, rfl, rfl, rfl, rfl, rfl, rfl, rfl, rfl, rfl, rfl, rfl⟩

@[simp] theorem State.updHome_fields (s : State) (k : Nat) (f : Home → Home) :
    (s.updHome k f).agenda = s.agenda ∧ (s.updHome k f).focus = s.focus ∧ (s.updHome k f).nextId = s.nextId ∧
    (s.updHome k f).freeCtr = s.freeCtr ∧ (s.updHome k f).cycle = s.cycle ∧ (s.updHome k f).ticked = s.ticked ∧
    (s.updHome k f).halved = s.halved ∧ (s.updHome k f).ceil = s.ceil ∧ (s.updHome k f).xts = s.xts ∧
    (s.updHome k f).mem = s.mem ∧ (s.updHome k f).poison = s.poison ∧ (s.updHome k f).lines = s.lines ∧
    (s.updHome k f).homes = tput s.homes k (f (s.home k)) ∧ (s.updHome k f).monitors = s.monitors ∧
    (s.updHome k f).toks = s.toks ∧ (s.updHome k f).tokens = s.tokens ∧ (s.updHome k f).cores = s.cores ∧
    (s.updHome k f).clusters = s.clusters ∧ (s.updHome k f).dies = s.dies ∧ (s.updHome k f).reqs = s.reqs ∧
    (s.updHome k f).reps = s.reps ∧ (s.updHome k f).flights = s.flights ∧ (s.updHome k f).waves = s.waves ∧
    (s.updHome k f).teams = s.teams ∧ (s.updHome k f).gangs = s.gangs ∧ (s.updHome k f).grids = s.grids ∧
    (s.updHome k f).hops = s.hops ∧ (s.updHome k f).areqs = s.areqs ∧ (s.updHome k f).unitQ = s.unitQ ∧
    (s.updHome k f).mustQ = s.mustQ ∧ (s.updHome k f).parts = s.parts ∧ (s.updHome k f).mboxes = s.mboxes ∧
    (s.updHome k f).ctrl = s.ctrl ∧ (s.updHome k f).answers = s.answers :=
  ⟨rfl, rfl, rfl, rfl, rfl, rfl, rfl, rfl, rfl, rfl, rfl, rfl, rfl, rfl, rfl, rfl, rfl, rfl, rfl, rfl, rfl, rfl, rfl, rfl, rfl, rfl, rfl, rfl, rfl, rfl, rfl, rfl, rfl, rfl⟩

@[simp] theorem State.updMbox_fields (s : State) (k : Nat) (f : Mbox → Mbox) :
    (s.updMbox k f).agenda = s.agenda ∧ (s.updMbox k f).focus = s.focus ∧ (s.updMbox k f).nextId = s.nextId ∧
    (s.updMbox k f).freeCtr = s.freeCtr ∧ (s.updMbox k f).cycle = s.cycle ∧ (s.updMbox k f).ticked = s.ticked ∧
    (s.updMbox k f).halved = s.halved ∧ (s.updMbox k f).ceil = s.ceil ∧ (s.updMbox k f).xts = s.xts ∧
    (s.updMbox k f).mem = s.mem ∧ (s.updMbox k f).poison = s.poison ∧ (s.updMbox k f).lines = s.lines ∧
    (s.updMbox k f).homes = s.homes ∧ (s.updMbox k f).monitors = s.monitors ∧ (s.updMbox k f).toks = s.toks ∧
    (s.updMbox k f).tokens = s.tokens ∧ (s.updMbox k f).cores = s.cores ∧ (s.updMbox k f).clusters = s.clusters ∧
    (s.updMbox k f).dies = s.dies ∧ (s.updMbox k f).reqs = s.reqs ∧ (s.updMbox k f).reps = s.reps ∧
    (s.updMbox k f).flights = s.flights ∧ (s.updMbox k f).waves = s.waves ∧ (s.updMbox k f).teams = s.teams ∧
    (s.updMbox k f).gangs = s.gangs ∧ (s.updMbox k f).grids = s.grids ∧ (s.updMbox k f).hops = s.hops ∧
    (s.updMbox k f).areqs = s.areqs ∧ (s.updMbox k f).unitQ = s.unitQ ∧ (s.updMbox k f).mustQ = s.mustQ ∧
    (s.updMbox k f).parts = s.parts ∧ (s.updMbox k f).mboxes = tput s.mboxes k (f (s.mbox k)) ∧
    (s.updMbox k f).ctrl = s.ctrl ∧ (s.updMbox k f).answers = s.answers :=
  ⟨rfl, rfl, rfl, rfl, rfl, rfl, rfl, rfl, rfl, rfl, rfl, rfl, rfl, rfl, rfl, rfl, rfl, rfl, rfl, rfl, rfl, rfl, rfl, rfl, rfl, rfl, rfl, rfl, rfl, rfl, rfl, rfl, rfl, rfl⟩

@[simp] theorem State.wr_fields (s : State) (a : Nat) (bs : List Byte) :
    (s.wr a bs).agenda = s.agenda ∧ (s.wr a bs).focus = s.focus ∧ (s.wr a bs).nextId = s.nextId ∧
    (s.wr a bs).freeCtr = s.freeCtr ∧ (s.wr a bs).cycle = s.cycle ∧ (s.wr a bs).ticked = s.ticked ∧
    (s.wr a bs).halved = s.halved ∧ (s.wr a bs).ceil = s.ceil ∧ (s.wr a bs).xts = s.xts ∧
    (s.wr a bs).mem = memPutAll s.mem a bs ∧ (s.wr a bs).poison = s.poison ∧ (s.wr a bs).lines = s.lines ∧
    (s.wr a bs).homes = s.homes ∧ (s.wr a bs).monitors = s.monitors ∧ (s.wr a bs).toks = s.toks ∧
    (s.wr a bs).tokens = s.tokens ∧ (s.wr a bs).cores = s.cores ∧ (s.wr a bs).clusters = s.clusters ∧
    (s.wr a bs).dies = s.dies ∧ (s.wr a bs).reqs = s.reqs ∧ (s.wr a bs).reps = s.reps ∧
    (s.wr a bs).flights = s.flights ∧ (s.wr a bs).waves = s.waves ∧ (s.wr a bs).teams = s.teams ∧
    (s.wr a bs).gangs = s.gangs ∧ (s.wr a bs).grids = s.grids ∧ (s.wr a bs).hops = s.hops ∧
    (s.wr a bs).areqs = s.areqs ∧ (s.wr a bs).unitQ = s.unitQ ∧ (s.wr a bs).mustQ = s.mustQ ∧
    (s.wr a bs).parts = s.parts ∧ (s.wr a bs).mboxes = s.mboxes ∧ (s.wr a bs).ctrl = s.ctrl ∧
    (s.wr a bs).answers = s.answers :=
  ⟨rfl, rfl, rfl, rfl, rfl, rfl, rfl, rfl, rfl, rfl, rfl, rfl, rfl, rfl, rfl, rfl, rfl, rfl, rfl, rfl, rfl, rfl, rfl, rfl, rfl, rfl, rfl, rfl, rfl, rfl, rfl, rfl, rfl, rfl⟩

@[simp] theorem State.newId_fields (s : State) :
    (s.newId.2).agenda = s.agenda ∧ (s.newId.2).focus = s.focus ∧ (s.newId.2).nextId = s.nextId + 1 ∧
    (s.newId.2).freeCtr = s.freeCtr ∧ (s.newId.2).cycle = s.cycle ∧ (s.newId.2).ticked = s.ticked ∧
    (s.newId.2).halved = s.halved ∧ (s.newId.2).ceil = s.ceil ∧ (s.newId.2).xts = s.xts ∧ (s.newId.2).mem = s.mem ∧
    (s.newId.2).poison = s.poison ∧ (s.newId.2).lines = s.lines ∧ (s.newId.2).homes = s.homes ∧
    (s.newId.2).monitors = s.monitors ∧ (s.newId.2).toks = s.toks ∧ (s.newId.2).tokens = s.tokens ∧
    (s.newId.2).cores = s.cores ∧ (s.newId.2).clusters = s.clusters ∧ (s.newId.2).dies = s.dies ∧
    (s.newId.2).reqs = s.reqs ∧ (s.newId.2).reps = s.reps ∧ (s.newId.2).flights = s.flights ∧
    (s.newId.2).waves = s.waves ∧ (s.newId.2).teams = s.teams ∧ (s.newId.2).gangs = s.gangs ∧
    (s.newId.2).grids = s.grids ∧ (s.newId.2).hops = s.hops ∧ (s.newId.2).areqs = s.areqs ∧
    (s.newId.2).unitQ = s.unitQ ∧ (s.newId.2).mustQ = s.mustQ ∧ (s.newId.2).parts = s.parts ∧
    (s.newId.2).mboxes = s.mboxes ∧ (s.newId.2).ctrl = s.ctrl ∧ (s.newId.2).answers = s.answers :=
  ⟨rfl, rfl, rfl, rfl, rfl, rfl, rfl, rfl, rfl, rfl, rfl, rfl, rfl, rfl, rfl, rfl, rfl, rfl, rfl, rfl, rfl, rfl, rfl, rfl, rfl, rfl, rfl, rfl, rfl, rfl, rfl, rfl, rfl, rfl⟩

@[simp] theorem State.free_fields (s : State) :
    (s.free.2).agenda = s.agenda ∧ (s.free.2).focus = s.focus ∧ (s.free.2).nextId = s.nextId ∧
    (s.free.2).freeCtr = s.freeCtr + 1 ∧ (s.free.2).cycle = s.cycle ∧ (s.free.2).ticked = s.ticked ∧
    (s.free.2).halved = s.halved ∧ (s.free.2).ceil = s.ceil ∧ (s.free.2).xts = s.xts ∧ (s.free.2).mem = s.mem ∧
    (s.free.2).poison = s.poison ∧ (s.free.2).lines = s.lines ∧ (s.free.2).homes = s.homes ∧
    (s.free.2).monitors = s.monitors ∧ (s.free.2).toks = s.toks ∧ (s.free.2).tokens = s.tokens ∧
    (s.free.2).cores = s.cores ∧ (s.free.2).clusters = s.clusters ∧ (s.free.2).dies = s.dies ∧
    (s.free.2).reqs = s.reqs ∧ (s.free.2).reps = s.reps ∧ (s.free.2).flights = s.flights ∧
    (s.free.2).waves = s.waves ∧ (s.free.2).teams = s.teams ∧ (s.free.2).gangs = s.gangs ∧
    (s.free.2).grids = s.grids ∧ (s.free.2).hops = s.hops ∧ (s.free.2).areqs = s.areqs ∧ (s.free.2).unitQ = s.unitQ ∧
    (s.free.2).mustQ = s.mustQ ∧ (s.free.2).parts = s.parts ∧ (s.free.2).mboxes = s.mboxes ∧
    (s.free.2).ctrl = s.ctrl ∧ (s.free.2).answers = s.answers :=
  ⟨rfl, rfl, rfl, rfl, rfl, rfl, rfl, rfl, rfl, rfl, rfl, rfl, rfl, rfl, rfl, rfl, rfl, rfl, rfl, rfl, rfl, rfl, rfl, rfl, rfl, rfl, rfl, rfl, rfl, rfl, rfl, rfl, rfl, rfl⟩

@[simp] theorem State.stir_fields (s : State) (p : Nat) :
    (s.stir p).agenda = s.agenda ∧ (s.stir p).focus = s.focus ∧ (s.stir p).nextId = s.nextId ∧
    (s.stir p).freeCtr = s.freeCtr ∧ (s.stir p).cycle = s.cycle ∧ (s.stir p).ticked = s.ticked ∧
    (s.stir p).halved = s.halved ∧ (s.stir p).ceil = s.ceil ∧ (s.stir p).xts = s.xts ∧ (s.stir p).mem = s.mem ∧
    (s.stir p).poison = s.poison ∧ (s.stir p).lines = s.lines ∧ (s.stir p).homes = s.homes ∧
    (s.stir p).monitors = s.monitors ∧ (s.stir p).toks = s.toks ∧ (s.stir p).tokens = s.tokens ∧
    (s.stir p).cores = s.cores ∧ (s.stir p).clusters = s.clusters ∧ (s.stir p).dies = s.dies ∧
    (s.stir p).reqs = s.reqs ∧ (s.stir p).reps = s.reps ∧ (s.stir p).flights = s.flights ∧
    (s.stir p).waves = s.waves ∧ (s.stir p).teams = s.teams ∧ (s.stir p).gangs = s.gangs ∧
    (s.stir p).grids = s.grids ∧ (s.stir p).hops = s.hops ∧ (s.stir p).areqs = s.areqs ∧ (s.stir p).unitQ = s.unitQ ∧
    (s.stir p).mustQ = s.mustQ ∧ (s.stir p).parts = (tupd s.parts p fun x => { x with wdSince := s.cycle }) ∧
    (s.stir p).mboxes = s.mboxes ∧ (s.stir p).ctrl = s.ctrl ∧ (s.stir p).answers = s.answers :=
  ⟨rfl, rfl, rfl, rfl, rfl, rfl, rfl, rfl, rfl, rfl, rfl, rfl, rfl, rfl, rfl, rfl, rfl, rfl, rfl, rfl, rfl, rfl, rfl, rfl, rfl, rfl, rfl, rfl, rfl, rfl, rfl, rfl, rfl, rfl⟩

@[simp] theorem State.newId_id (s : State) : s.newId.1 = s.nextId := rfl

@[simp] theorem State.free_value (s : State) : s.free.1 = Config.freeValue s.freeCtr := rfl

/-! ## Records read after an update -/

theorem State.line_setLine (s : State) (k m : Nat) (x : Line) : (s.setLine k x).line m = if m = k then x else s.line m := by
  by_cases h : m = k <;> simp [State.line, tget_tput, h]

@[simp] theorem State.line_setLine_same (s : State) (k : Nat) (x : Line) : (s.setLine k x).line k = x := by
  simp [State.line_setLine]

theorem State.home_setHome (s : State) (k m : Nat) (x : Home) : (s.setHome k x).home m = if m = k then x else s.home m := by
  by_cases h : m = k <;> simp [State.home, tget_tput, h]

@[simp] theorem State.home_setHome_same (s : State) (k : Nat) (x : Home) : (s.setHome k x).home k = x := by
  simp [State.home_setHome]

theorem State.core_setCore (s : State) (k m : Nat) (x : Core) : (s.setCore k x).core m = if m = k then x else s.core m := by
  by_cases h : m = k <;> simp [State.core, tget_tput, h]

@[simp] theorem State.core_setCore_same (s : State) (k : Nat) (x : Core) : (s.setCore k x).core k = x := by
  simp [State.core_setCore]

theorem State.cluster_setCluster (s : State) (k m : Nat) (x : Cluster) : (s.setCluster k x).cluster m = if m = k then x else s.cluster m := by
  by_cases h : m = k <;> simp [State.cluster, tget_tput, h]

@[simp] theorem State.cluster_setCluster_same (s : State) (k : Nat) (x : Cluster) : (s.setCluster k x).cluster k = x := by
  simp [State.cluster_setCluster]

theorem State.die_setDie (s : State) (k m : Nat) (x : Die) : (s.setDie k x).die m = if m = k then x else s.die m := by
  by_cases h : m = k <;> simp [State.die, tget_tput, h]

@[simp] theorem State.die_setDie_same (s : State) (k : Nat) (x : Die) : (s.setDie k x).die k = x := by
  simp [State.die_setDie]

theorem State.wave_setWave (s : State) (k m : Nat) (x : Wave) : (s.setWave k x).wave m = if m = k then x else s.wave m := by
  by_cases h : m = k <;> simp [State.wave, tget_tput, h]

@[simp] theorem State.wave_setWave_same (s : State) (k : Nat) (x : Wave) : (s.setWave k x).wave k = x := by
  simp [State.wave_setWave]

theorem State.team_setTeam (s : State) (k m : Nat) (x : Team) : (s.setTeam k x).team m = if m = k then x else s.team m := by
  by_cases h : m = k <;> simp [State.team, tget_tput, h]

@[simp] theorem State.team_setTeam_same (s : State) (k : Nat) (x : Team) : (s.setTeam k x).team k = x := by
  simp [State.team_setTeam]

theorem State.gang_setGang (s : State) (k m : Nat) (x : Gang) : (s.setGang k x).gang m = if m = k then x else s.gang m := by
  by_cases h : m = k <;> simp [State.gang, tget_tput, h]

@[simp] theorem State.gang_setGang_same (s : State) (k : Nat) (x : Gang) : (s.setGang k x).gang k = x := by
  simp [State.gang_setGang]

theorem State.grid_setGrid (s : State) (k m : Nat) (x : Grid) : (s.setGrid k x).grid m = if m = k then x else s.grid m := by
  by_cases h : m = k <;> simp [State.grid, tget_tput, h]

@[simp] theorem State.grid_setGrid_same (s : State) (k : Nat) (x : Grid) : (s.setGrid k x).grid k = x := by
  simp [State.grid_setGrid]

theorem State.part_setPart (s : State) (k m : Nat) (x : Part) : (s.setPart k x).part m = if m = k then x else s.part m := by
  by_cases h : m = k <;> simp [State.part, tget_tput, h]

@[simp] theorem State.part_setPart_same (s : State) (k : Nat) (x : Part) : (s.setPart k x).part k = x := by
  simp [State.part_setPart]

theorem State.mbox_setMbox (s : State) (k m : Nat) (x : Mbox) : (s.setMbox k x).mbox m = if m = k then x else s.mbox m := by
  by_cases h : m = k <;> simp [State.mbox, tget_tput, h]

@[simp] theorem State.mbox_setMbox_same (s : State) (k : Nat) (x : Mbox) : (s.setMbox k x).mbox k = x := by
  simp [State.mbox_setMbox]

end Sys2Proof.Machine
end

