-- ==== Sys2Proof/Laws/Memory.lean ====
section
/-! SUPPORT. Memory: reading after writing, and the canonical form kept by every operation. -/

namespace Sys2Proof.Machine

/-- The canonical form as a statement about the entries. -/
theorem Memory.wf_iff (m : List Host.Cell) :
    Memory.wf m = true ↔ twf m = true ∧ ∀ c ∈ m, c.2 ≠ Config.unwritten := by
  simp [Memory.wf]

theorem mem_tput {α : Type} {t : Tbl α} {n : Nat} {x : α} {e : Nat × α} (h : e ∈ tput t n x) : e = (n, x) ∨ e ∈ t := by
  induction t with
  | nil => simpa [tput] using h
  | cons a t ih =>
    obtain ⟨k, v⟩ := a
    simp only [tput] at h
    split at h
    · simpa using h
    · split at h
      · rcases List.mem_cons.mp h with h | h
        · exact .inl h
        · exact .inr (by simp [h])
      · rcases List.mem_cons.mp h with h | h
        · exact .inr (by simp [h])
        · rcases ih h with h | h
          · exact .inl h
          · exact .inr (by simp [h])

theorem memPut_wf {m : List Host.Cell} (a : Nat) (b : Byte) (h : Memory.wf m = true) :
    Memory.wf (memPut m a b) = true := by
  rw [Memory.wf_iff] at *
  unfold memPut
  split
  · exact ⟨twf_tdel m a h.1, fun c hc => h.2 c (mem_tdel hc)⟩
  · rename_i hb
    refine ⟨twf_tput m a b h.1, fun c hc => ?_⟩
    rcases mem_tput hc with rfl | hc
    · exact hb
    · exact h.2 c hc

@[simp] theorem memPutAll_wf {m : List Host.Cell} (a : Nat) (bs : List Byte) (h : Memory.wf m = true) :
    Memory.wf (memPutAll m a bs) = true := by
  induction bs generalizing m a with
  | nil => exact h
  | cons b bs ih => exact ih (a + 1) (memPut_wf a b h)

@[simp] theorem memFilter_wf {m : List Host.Cell} (p : Host.Cell → Bool) (h : Memory.wf m = true) :
    Memory.wf (m.filter p) = true := by
  rw [Memory.wf_iff] at *
  exact ⟨twf_filter m p h.1, fun c hc => h.2 c (List.mem_filter.mp hc).1⟩

/-- A read after a write of one byte. -/
theorem memGet_memPut (m : List Host.Cell) (a x : Nat) (b : Byte) :
    memGet (memPut m a b) x = if x = a then b else memGet m x := by
  unfold memPut memGet
  by_cases hb : b = Config.unwritten
  · subst hb; by_cases hx : x = a <;> simp [tget_tdel, hx]
  · by_cases hx : x = a <;> simp [tget_tput, hb, hx]

/-- A read after a write of bytes: the byte written where one was, and else the old one. -/
theorem memGet_memPutAll (m : List Host.Cell) (a x : Nat) (bs : List Byte) :
    memGet (memPutAll m a bs) x = if a ≤ x ∧ x < a + bs.length then bs.getD (x - a) 0 else memGet m x := by
  induction bs generalizing m a with
  | nil =>
    have : ¬ (a ≤ x ∧ x < a + ([] : List Byte).length) := by simp only [List.length_nil]; omega
    rw [if_neg this]; rfl
  | cons b bs ih =>
    simp only [memPutAll, ih (memPut m a b) (a + 1), memGet_memPut, List.length_cons]
    by_cases h1 : x = a
    · subst h1
      have h2 : ¬ (x + 1 ≤ x ∧ x < x + 1 + bs.length) := by omega
      have h3 : x ≤ x ∧ x < x + (bs.length + 1) := by omega
      rw [if_neg h2, if_pos h3]; simp
    · by_cases h2 : a + 1 ≤ x ∧ x < a + 1 + bs.length
      · have : a ≤ x ∧ x < a + (bs.length + 1) := by omega
        have e : x - a = (x - (a + 1)) + 1 := by omega
        rw [if_pos h2, if_pos this, e]; simp
      · have : ¬ (a ≤ x ∧ x < a + (bs.length + 1)) := by omega
        rw [if_neg h2, if_neg this, if_neg h1]

/-- A write leaves every byte outside it alone. -/
theorem State.wr_other (s : State) (a x : Nat) (bs : List Byte)
    (hx : ¬ (a ≤ x ∧ x < a + bs.length)) : memGet (s.wr a bs).mem x = memGet s.mem x := by
  simp [State.wr, memGet_memPutAll, hx]

/-- Bytes read back after they have been written. -/
theorem State.rd_wr (s : State) (a : Nat) (bs : List Byte) :
    (s.wr a bs).rd a bs.length = bs := by
  apply List.ext_getElem
  · simp [State.rd, memGetAll]
  · intro i h1 h2
    simp [State.rd, memGetAll, State.wr, memGet_memPutAll, h2]

/-! ## Memory's form as a predicate of states -/

/-- A state's memory is in canonical form. -/
def MemOk (s : State) : Prop := Memory.wf s.mem = true

theorem MemOk.wf {s : State} (h : MemOk s) : Memory.wf s.mem = true := h

theorem MemOk.mk_eq {x0 x1 x2 x3 x4 x5 x6 x7 x8 x9 x10 x11 x12 x13 x14 x15 x16 x17 x18 x19 x20 x21 x22 x23 x24 x25 x26 x27 x28 x29 x30 x31 x32 x33} :
    MemOk (State.mk x0 x1 x2 x3 x4 x5 x6 x7 x8 x9 x10 x11 x12 x13 x14 x15 x16 x17 x18 x19 x20 x21 x22 x23 x24 x25 x26 x27 x28 x29 x30 x31 x32 x33) = (Memory.wf x9 = true) := rfl

/-- The state with a serial number, or a free value, drawn. -/
def State.afterId (s : State) : State := { s with nextId := s.nextId + 1 }
def State.afterFree (s : State) : State := { s with freeCtr := s.freeCtr + 1 }

theorem State.newId_eq (s : State) : s.newId = (s.nextId, s.afterId) := rfl
theorem State.free_eq (s : State) : s.free = (Config.freeValue s.freeCtr, s.afterFree) := rfl

theorem MemOk.afterId {s : State} (h : MemOk s) : MemOk s.afterId := h
theorem MemOk.afterFree {s : State} (h : MemOk s) : MemOk s.afterFree := h
theorem MemOk.wr {s : State} {a : Nat} {bs : List Byte} (h : MemOk s) : MemOk (s.wr a bs) := memPutAll_wf a bs h
theorem MemOk.stir {s : State} {p : Nat} (h : MemOk s) : MemOk (s.stir p) := h
theorem MemOk.setLine {s : State} {k : Nat} {x : Line} (h : MemOk s) : MemOk (s.setLine k x) := h
theorem MemOk.setHome {s : State} {k : Nat} {x : Home} (h : MemOk s) : MemOk (s.setHome k x) := h
theorem MemOk.setCore {s : State} {k : Nat} {x : Core} (h : MemOk s) : MemOk (s.setCore k x) := h
theorem MemOk.setCluster {s : State} {k : Nat} {x : Cluster} (h : MemOk s) : MemOk (s.setCluster k x) := h
theorem MemOk.setDie {s : State} {k : Nat} {x : Die} (h : MemOk s) : MemOk (s.setDie k x) := h
theorem MemOk.setWave {s : State} {k : Nat} {x : Wave} (h : MemOk s) : MemOk (s.setWave k x) := h
theorem MemOk.setTeam {s : State} {k : Nat} {x : Team} (h : MemOk s) : MemOk (s.setTeam k x) := h
theorem MemOk.setGang {s : State} {k : Nat} {x : Gang} (h : MemOk s) : MemOk (s.setGang k x) := h
theorem MemOk.setGrid {s : State} {k : Nat} {x : Grid} (h : MemOk s) : MemOk (s.setGrid k x) := h
theorem MemOk.setPart {s : State} {k : Nat} {x : Part} (h : MemOk s) : MemOk (s.setPart k x) := h
theorem MemOk.setMbox {s : State} {k : Nat} {x : Mbox} (h : MemOk s) : MemOk (s.setMbox k x) := h
theorem MemOk.updWave {s : State} {k : Nat} {f : Wave → Wave} (h : MemOk s) : MemOk (s.updWave k f) := h
theorem MemOk.updTeam {s : State} {k : Nat} {f : Team → Team} (h : MemOk s) : MemOk (s.updTeam k f) := h
theorem MemOk.updGang {s : State} {k : Nat} {f : Gang → Gang} (h : MemOk s) : MemOk (s.updGang k f) := h
theorem MemOk.updGrid {s : State} {k : Nat} {f : Grid → Grid} (h : MemOk s) : MemOk (s.updGrid k f) := h
theorem MemOk.updPart {s : State} {k : Nat} {f : Part → Part} (h : MemOk s) : MemOk (s.updPart k f) := h
theorem MemOk.updHop {s : State} {k : Nat} {f : HodOp → HodOp} (h : MemOk s) : MemOk (s.updHop k f) := h
theorem MemOk.updCore {s : State} {k : Nat} {f : Core → Core} (h : MemOk s) : MemOk (s.updCore k f) := h
theorem MemOk.updCluster {s : State} {k : Nat} {f : Cluster → Cluster} (h : MemOk s) : MemOk (s.updCluster k f) := h
theorem MemOk.updDie {s : State} {k : Nat} {f : Die → Die} (h : MemOk s) : MemOk (s.updDie k f) := h
theorem MemOk.updHome {s : State} {k : Nat} {f : Home → Home} (h : MemOk s) : MemOk (s.updHome k f) := h
theorem MemOk.updMbox {s : State} {k : Nat} {f : Mbox → Mbox} (h : MemOk s) : MemOk (s.updMbox k f) := h

/-- Both branches of a choice keep the canonical form. -/
theorem MemOk.ite {c : Prop} {d : Decidable c} {a b : State} (ha : MemOk a) (hb : MemOk b) :
    MemOk (if c then a else b) := by
  split <;> assumption

/-- A state that is there, or else one that keeps the canonical form. -/
theorem MemOk.getD {o : Option State} {s : State} (h : MemOk s) (ho : ∀ t, o = some t → MemOk t) : MemOk (o.getD s) := by
  cases o with
  | none => exact h
  | some t => exact ho t rfl

/-- A fold of operations that keep the canonical form keeps it. -/
theorem MemOk.foldl {α : Type} {f : State → α → State} {l : List α} {s : State} (h : MemOk s)
    (hf : ∀ (s : State) (x : α), MemOk s → MemOk (f s x)) : MemOk (l.foldl f s) := by
  induction l generalizing s with
  | nil => exact h
  | cons x l ih => exact ih (hf s x h)

/-- A fold that carries a state and something else. -/
theorem MemOk.foldl_fst {α β : Type} {f : State × β → α → State × β} {l : List α} {p : State × β} (h : MemOk p.1)
    (hf : ∀ (p : State × β) (x : α), MemOk p.1 → MemOk (f p x).1) : MemOk (l.foldl f p).1 := by
  induction l generalizing p with
  | nil => exact h
  | cons x l ih => exact ih (hf p x h)

theorem MemOk.foldl_snd {α β : Type} {f : β × State → α → β × State} {l : List α} {p : β × State} (h : MemOk p.2)
    (hf : ∀ (p : β × State) (x : α), MemOk p.2 → MemOk (f p x).2) : MemOk (l.foldl f p).2 := by
  induction l generalizing p with
  | nil => exact h
  | cons x l ih => exact ih (hf p x h)

/-- A step's next state, if it answers one, has its memory in canonical form. -/
def OutOk (o : Out) : Prop :=
  match o with
  | .next t => MemOk t
  | _ => True

theorem OutOk.next {t : State} (h : MemOk t) : OutOk (.next t) := h
theorem OutOk.ite {c : Prop} {d : Decidable c} {a b : Out} (ha : OutOk a) (hb : OutOk b) : OutOk (if c then a else b) := by
  split <;> assumption

end Sys2Proof.Machine
end

