-- ==== Sys2Proof/Laws/MemKeeps.lean ====
section
/-! SUPPORT. Every operation of the machine keeps the canonical form of memory, file by file: for an operation that answers
a state beside something else, `_ok` speaks of its component and `_ok2` of the state in an equation. -/

namespace Sys2Proof.Machine

/-! ## Machine/Homes.lean -/

theorem evictLine_ok {s : State} {k : Nat} (hm : MemOk s) : MemOk (evictLine s k) := by
  unfold evictLine
  try dsimp only
  repeat' first | with_reducible assumption | with_reducible apply MemOk.setHome | with_reducible apply MemOk.wf
                | simp only [MemOk.mk_eq] | intro _ | split

theorem fitSet_ok {k n : Nat} {s : State} (h : MemOk s) : MemOk (fitSet k n s) := by
  induction n generalizing s with
  | zero => exact h
  | succ n ih =>
    unfold fitSet
    repeat' first | with_reducible assumption | with_reducible apply evictLine_ok | with_reducible apply ih | split

theorem makeRoom_ok {k : Nat} {s : State} (hm : MemOk s) : MemOk (makeRoom k s) := by
  unfold makeRoom
  try dsimp only
  repeat' first | with_reducible assumption | with_reducible apply fitSet_ok

theorem fillLine_ok {s : State} {home pa : Nat} (hm : MemOk s) : MemOk (fillLine s home pa) := by
  unfold fillLine
  simp only [State.newId_eq]
  repeat' first | with_reducible assumption | with_reducible apply makeRoom_ok | with_reducible apply MemOk.setLine
                | with_reducible apply MemOk.afterId | with_reducible apply MemOk.wf | simp only [MemOk.mk_eq]
                | intro _ | split

theorem freeLine_ok {s : State} {k : Nat} (hm : MemOk s) : MemOk (freeLine s k) := by
  unfold freeLine
  try dsimp only
  repeat' first | with_reducible assumption | with_reducible apply evictLine_ok | with_reducible apply MemOk.wr
                | refine MemOk.ite ?_ ?_ | with_reducible apply MemOk.wf | simp only [MemOk.mk_eq] | intro _ | split

theorem useDown_ok {s : State} {k : Nat} (hm : MemOk s) : MemOk (useDown s k) := by
  unfold useDown
  try dsimp only
  repeat' first | with_reducible assumption | with_reducible apply MemOk.setLine | with_reducible apply freeLine_ok
                | refine MemOk.ite ?_ ?_ | with_reducible apply MemOk.wf | simp only [MemOk.mk_eq] | intro _ | split

theorem homeReadAt_ok {s : State} {home pa n pts : Nat} {lease renew : Option Nat} {hint : Nat} {tt} {xx}
    (e : homeReadAt s home pa n pts lease renew hint = .ok (tt, xx)) (hm : MemOk s) : MemOk tt := by
  unfold homeReadAt at e
  simp only [State.newId_eq] at e
  repeat' first | (simp only [reduceCtorEq] at e; done)
                | (simp only [Except.ok.injEq, Option.some.injEq, Prod.mk.injEq] at e; obtain ⟨rfl, -⟩ := e)
                | split at e
  all_goals repeat' first | with_reducible assumption | with_reducible apply fillLine_ok
                          | with_reducible apply MemOk.setLine | with_reducible apply useDown_ok
                          | with_reducible apply MemOk.afterId

theorem sendReply_ok {s : State} {id : Nat} {words : List Word} {t wts rts : Nat} {line : List Byte} {status : Nat}
    {bad : Bool} (hm : MemOk s) : MemOk (sendReply s id words t wts rts line status bad) := by
  unfold sendReply
  try dsimp only
  repeat' first | with_reducible assumption | with_reducible apply MemOk.wf | simp only [MemOk.mk_eq] | intro _
                | split

theorem wakeMonitors_ok {home pa n t : Nat} {l : List (Nat × Monitor)} {s : State} (h : MemOk s) :
    MemOk (wakeMonitors home pa n t l s) := by
  induction l generalizing s with
  | nil => exact h
  | cons x l ih =>
    unfold wakeMonitors
    repeat' first | with_reducible assumption | with_reducible apply ih | with_reducible apply sendReply_ok
                  | simp only [MemOk.mk_eq] | with_reducible apply MemOk.wf | split

theorem clearPoison_ok {s : State} {pa n : Nat} (hm : MemOk s) : MemOk (clearPoison s pa n) := by
  unfold clearPoison
  try dsimp only
  repeat' first | with_reducible assumption | with_reducible apply MemOk.wf | simp only [MemOk.mk_eq]

theorem ownCopy_ok {s : State} {core : Option Nat} {pa t : Nat} (hm : MemOk s) : MemOk (ownCopy s core pa t) := by
  unfold ownCopy
  try dsimp only
  repeat' first | with_reducible assumption | with_reducible apply MemOk.updCore | refine MemOk.ite ?_ ?_
                | with_reducible apply MemOk.wf | simp only [MemOk.mk_eq] | intro _ | split

theorem homeWriteAt_ok {s : State} {home pa pts : Nat} {bs : List Byte} {core : Option Nat} {hint : Nat} {tt} {xx}
    (e : homeWriteAt s home pa pts bs core hint = .ok (tt, xx)) (hm : MemOk s) : MemOk tt := by
  unfold homeWriteAt at e
  simp only [State.newId_eq] at e
  repeat' first | (simp only [reduceCtorEq] at e; done)
                | (simp only [Except.ok.injEq, Option.some.injEq, Prod.mk.injEq] at e; obtain ⟨rfl, -⟩ := e)
                | split at e
  all_goals repeat' first | with_reducible assumption | with_reducible apply fillLine_ok
                          | with_reducible apply clearPoison_ok | with_reducible apply MemOk.setLine
                          | with_reducible apply ownCopy_ok | with_reducible apply makeRoom_ok
                          | with_reducible apply MemOk.wr | with_reducible apply wakeMonitors_ok
                          | with_reducible apply MemOk.afterId | refine MemOk.ite ?_ ?_

theorem xdSend_ok {s : State} {r : Req} (hm : MemOk s) : MemOk (xdSend s r).2 := by
  unfold xdSend
  simp only [State.newId_eq]
  repeat' first | with_reducible assumption | with_reducible apply MemOk.afterId | with_reducible apply MemOk.wf
                | simp only [MemOk.mk_eq]

theorem xdSend_ok2 {s : State} {r : Req} {tt} {xx} (e : xdSend s r = (xx, tt)) (hm : MemOk s) : MemOk tt := by
  have h2 : MemOk (xdSend s r).2 := xdSend_ok hm
  rw [e] at h2; exact h2

theorem devWrite_ok {s : State} {part pa : Nat} {bs : List Byte} {tt} (e : devWrite s part pa bs = some tt)
    (hm : MemOk s) : MemOk tt := by
  unfold devWrite at e
  try dsimp only at e
  repeat' first | (simp only [reduceCtorEq] at e; done)
                | (simp only [Except.ok.injEq, Option.some.injEq, Prod.mk.injEq] at e; obtain rfl := e) | split at e
  all_goals repeat' first | with_reducible assumption | with_reducible apply xdSend_ok
                          | refine xdSend_ok2 (by with_reducible assumption) ?_
                          | refine homeWriteAt_ok (by with_reducible assumption) ?_

theorem cleanLine_ok {s : State} {k : Nat} (hm : MemOk s) : MemOk (cleanLine s k) := by
  unfold cleanLine
  try dsimp only
  repeat' first | with_reducible assumption | with_reducible apply MemOk.setLine | with_reducible apply MemOk.wf
                | simp only [MemOk.mk_eq] | intro _ | split

/-! ## Machine/Ops.lean -/

theorem finish_ok {s : State} {c : Ctx} {hd : Hdr} {w : Wave} {f : Nat → DWord} (hm : MemOk s) : MemOk
    (finish s c hd w f) := by
  unfold finish
  try dsimp only
  repeat' first | with_reducible assumption | with_reducible apply MemOk.setWave

theorem finishNext_ok {s : State} {c : Ctx} {hd : Hdr} {w : Wave} (hm : MemOk s) : MemOk (finishNext s c hd w) := by
  unfold finishNext
  try dsimp only
  repeat' first | with_reducible assumption | with_reducible apply finish_ok

theorem startFlight_ok {s : State} {f : Flight} {w : Wave} (hm : MemOk s) : MemOk (startFlight s f w).2.1 := by
  unfold startFlight
  simp only [State.newId_eq]
  repeat' first | with_reducible assumption | with_reducible apply MemOk.afterId | with_reducible apply MemOk.wf
                | simp only [MemOk.mk_eq]

theorem startFlight_ok2 {s : State} {f : Flight} {w : Wave} {tt} {xx} {yy} (e : startFlight s f w = (xx, tt, yy))
    (hm : MemOk s) : MemOk tt := by
  have h2 : MemOk (startFlight s f w).2.1 := startFlight_ok hm
  rw [e] at h2; exact h2

theorem endFlight_ok {s : State} {i : Nat} (hm : MemOk s) : MemOk (endFlight s i) := by
  unfold endFlight
  try dsimp only
  repeat' first | with_reducible assumption | with_reducible apply MemOk.updWave | with_reducible apply MemOk.wf
                | simp only [MemOk.mk_eq] | intro _ | split

theorem laneDone_ok {s : State} {i lane : Nat} (hm : MemOk s) : MemOk (laneDone s i lane) := by
  unfold laneDone
  try dsimp only
  repeat' first | with_reducible assumption | with_reducible apply endFlight_ok | refine MemOk.ite ?_ ?_
                | with_reducible apply MemOk.wf | simp only [MemOk.mk_eq] | intro _ | split

theorem escalation_ok {s : State} {p : Nat} (hm : MemOk s) : MemOk (escalation s p) := by
  unfold escalation
  try dsimp only
  repeat' first | with_reducible assumption | with_reducible apply MemOk.updMbox

theorem notice_ok {s : State} {p : Nat} (hm : MemOk s) : MemOk (notice s p) := by
  unfold notice
  try dsimp only
  repeat' first | with_reducible assumption | with_reducible apply escalation_ok | refine MemOk.ite ?_ ?_

theorem writeRecord_ok {s : State} {p id : Nat} {tt} (e : writeRecord s p id = some tt) (hm : MemOk s) : MemOk tt :=
    by
  unfold writeRecord at e
  dsimp only at e
  split at e
  · cases e; exact hm
  · split at e
    · cases e
    · rename_i e1
      have h1 := devWrite_ok e1 hm
      split at e
      · cases e
      · rename_i e2
        obtain rfl := Option.some.inj e
        refine notice_ok (MemOk.updPart ?_)
        split at e2
        · exact devWrite_ok e2 h1
        · cases e2; exact h1

theorem drainHeld_ok {p : Nat} {n : Nat} {s : State} (hm : MemOk s) : MemOk (drainHeld p n s) := by
  induction n generalizing s with
  | zero => exact hm
  | succ n ih =>
    unfold drainHeld
    try simp only [State.free_eq]
    repeat' first | with_reducible assumption | with_reducible apply MemOk.updPart | with_reducible apply ih
                  | refine writeRecord_ok (by with_reducible assumption) ?_ | refine MemOk.ite ?_ ?_
                  | with_reducible apply MemOk.wf | simp only [MemOk.mk_eq] | intro _ | split

theorem pushFault_ok {s : State} {p : Nat} {r : FRec} {ask : Bool} (hm : MemOk s) : MemOk (pushFault s p r ask) := by
  unfold pushFault
  try dsimp only
  repeat' first | with_reducible assumption | with_reducible apply MemOk.updPart | with_reducible apply drainHeld_ok

theorem suspendWave_ok {s : State} {id : Nat} {why : Susp} (hm : MemOk s) : MemOk (suspendWave s id why) := by
  unfold suspendWave
  try dsimp only
  repeat' first | with_reducible assumption | with_reducible apply endFlight_ok | with_reducible apply MemOk.updTeam
                | with_reducible apply MemOk.updWave | with_reducible apply MemOk.wf | simp only [MemOk.mk_eq]
                | intro _ | split

theorem policyTrap_ok {s : State} {id : Nat} {pc : DWord} {lanes : LaneSet} {code : Nat} {info : DWord} (hm : MemOk s)
    : MemOk (policyTrap s id pc lanes code info) := by
  unfold policyTrap
  try dsimp only
  repeat' first | with_reducible assumption | with_reducible apply pushFault_ok | with_reducible apply suspendWave_ok

theorem takeTrap_ok {s : State} {id : Nat} {pc : DWord} {path E : LaneSet} {code : Nat} {info : DWord} (hm : MemOk s)
    : MemOk (takeTrap s id pc path E code info) := by
  unfold takeTrap
  try dsimp only
  repeat' first | with_reducible assumption | with_reducible apply MemOk.setWave | with_reducible apply MemOk.updWave
                | with_reducible apply policyTrap_ok | refine MemOk.ite ?_ ?_

theorem trapCtx_ok {s : State} {c : Ctx} {code info : Nat} (hm : MemOk s) : MemOk (trapCtx s c code info) := by
  unfold trapCtx
  try dsimp only
  repeat' first | with_reducible assumption | with_reducible apply takeTrap_ok

theorem teamTrapRec_ok {s : State} {t : Nat} {r : FRec} (hm : MemOk s) : MemOk (teamTrapRec s t r) := by
  unfold teamTrapRec
  try dsimp only
  repeat' first | with_reducible assumption | with_reducible apply suspendWave_ok | with_reducible apply MemOk.updTeam
                | with_reducible apply pushFault_ok | with_reducible apply MemOk.foldl
                | with_reducible apply MemOk.foldl_fst | with_reducible apply MemOk.foldl_snd
                | with_reducible apply MemOk.wf | simp only [MemOk.mk_eq] | intro _

theorem teamTrap_ok {s : State} {t : Nat} {code : Nat} {info pc : DWord} {named : Nat} {lanes : LaneSet}
    (hm : MemOk s) : MemOk (teamTrap s t code info pc named lanes) := by
  unfold teamTrap
  try dsimp only
  repeat' first | with_reducible assumption | with_reducible apply teamTrapRec_ok

theorem namedTrap_ok {s : State} {t named code : Nat} {info : DWord} (hm : MemOk s) : MemOk
    (namedTrap s t named code info) := by
  unfold namedTrap
  try dsimp only
  repeat' first | with_reducible assumption | with_reducible apply teamTrap_ok

theorem storageTrap_ok {s : State} {wave pa : Nat} (hm : MemOk s) : MemOk (storageTrap s wave pa) := by
  unfold storageTrap
  try dsimp only
  repeat' first | with_reducible assumption | with_reducible apply namedTrap_ok

theorem coreTrap_ok {s : State} {wave unit : Nat} (hm : MemOk s) : MemOk (coreTrap s wave unit) := by
  unfold coreTrap
  try dsimp only
  repeat' first | with_reducible assumption | with_reducible apply namedTrap_ok

theorem convDeadlock_ok {s : State} {id : Nat} (hm : MemOk s) : MemOk (convDeadlock s id) := by
  unfold convDeadlock
  try dsimp only
  repeat' first | with_reducible assumption | with_reducible apply takeTrap_ok | refine MemOk.ite ?_ ?_
                | with_reducible apply MemOk.wf | simp only [MemOk.mk_eq] | intro _ | split

theorem gathered_ok {s : State} {c : Ctx} {hd : Hdr} {mask : LaneSet} {keep : Bool} (hm : MemOk s) : MemOk
    (gathered s c hd mask keep).2 := by
  unfold gathered
  try dsimp only
  repeat' first | with_reducible assumption | with_reducible apply MemOk.setWave
                | with_reducible apply convDeadlock_ok | refine MemOk.ite ?_ ?_ | with_reducible apply MemOk.wf
                | simp only [MemOk.mk_eq] | intro _ | split

theorem gathered_ok2 {s : State} {c : Ctx} {hd : Hdr} {mask : LaneSet} {keep : Bool} {tt} {xx}
    (e : gathered s c hd mask keep = (xx, tt)) (hm : MemOk s) : MemOk tt := by
  have h2 : MemOk (gathered s c hd mask keep).2 := gathered_ok hm
  rw [e] at h2; exact h2

theorem block_ok {s : State} {c : Ctx} {hd : Hdr} {w : Wave} {b : Blocked} (hm : MemOk s) : MemOk (block s c hd w b)
    := by
  unfold block
  try dsimp only
  repeat' first | with_reducible assumption | with_reducible apply MemOk.setWave

theorem wake_ok {s : State} {id : Nat} (hm : MemOk s) : MemOk (wake s id) := by
  unfold wake
  try dsimp only
  repeat' first | with_reducible assumption | with_reducible apply MemOk.updWave

theorem operate_ok {s : State} {c : Ctx} {u : Use} {eff : State → State} (hm : MemOk s)
    (heff : ∀ y0, MemOk y0 → MemOk (eff y0)) : MemOk (operate s c u eff) := by
  unfold operate
  try dsimp only
  repeat' first | with_reducible assumption | with_reducible apply coreTrap_ok | with_reducible apply heff
                | with_reducible apply MemOk.wf | simp only [MemOk.mk_eq] | intro _ | split

theorem issue_ok {s : State} {hd : Hdr} {u : Use} {eff : Ctx → State} (h : MemOk s) (he : ∀ c, MemOk (eff c)) :
    MemOk (issue s hd u eff) := by
  unfold issue
  repeat' first | with_reducible assumption | with_reducible apply trapCtx_ok
                | exact operate_ok (by with_reducible assumption) fun _ _ => he _ | split

theorem issueWide_ok {s : State} {hd : Hdr} {u mu : Use} {keep : Bool} {mask : Wave → LaneSet}
    {eff : Ctx → State → State} (h : MemOk s)
    (he : ∀ c s, MemOk s → MemOk (eff c s)) : MemOk (issueWide s hd u mu keep mask eff) := by
  unfold issueWide
  repeat' first | with_reducible assumption | with_reducible apply trapCtx_ok
                | refine gathered_ok2 (by with_reducible assumption) ?_ | with_reducible apply he
                | (with_reducible refine operate_ok ?_ fun _ _ => ?_) | split

/-! ## Machine/Flags.lean -/

theorem alu_ok {s : State} {hd : Hdr} {u : Use} {d : Dst} {f : Wave → Nat → Word} (hm : MemOk s) : MemOk
    (alu s hd u d f) := by
  unfold alu
  try dsimp only
  repeat' first | with_reducible assumption | with_reducible apply issue_ok | with_reducible apply finishNext_ok
                | intro _

theorem alu2_ok {s : State} {hd : Hdr} {u : Use} {d : Dst} {f : Wave → Nat → DWord} (hm : MemOk s) : MemOk
    (alu2 s hd u d f) := by
  unfold alu2
  try dsimp only
  repeat' first | with_reducible assumption | with_reducible apply issue_ok | with_reducible apply finishNext_ok
                | intro _

theorem aluW_ok {s : State} {hd : Hdr} {u : Use} {wide : Bool} {d : Dst} {f : Wave → Nat → DWord} (hm : MemOk s) :
    MemOk (aluW s hd u wide d f) := by
  unfold aluW
  try dsimp only
  repeat' first | with_reducible assumption | with_reducible apply alu2_ok | with_reducible apply alu_ok
                | refine MemOk.ite ?_ ?_

theorem setPred_ok {s : State} {hd : Hdr} {u : Use} {d : PDst} {f : Wave → Nat → Bool} (hm : MemOk s) : MemOk
    (setPred s hd u d f) := by
  unfold setPred
  try dsimp only
  repeat' first | with_reducible assumption | with_reducible apply issue_ok | with_reducible apply finishNext_ok
                | intro _

theorem falu_ok {s : State} {hd : Hdr} {u : Use} {d : Dst} {f : Wave → Nat → FRes} (hm : MemOk s) : MemOk
    (falu s hd u d f) := by
  unfold falu
  try dsimp only
  repeat' first | with_reducible assumption | with_reducible apply issue_ok | with_reducible apply finishNext_ok
                | intro _

theorem falu2_ok {s : State} {hd : Hdr} {u : Use} {d : Dst} {f : Wave → Nat → FRes} (hm : MemOk s) : MemOk
    (falu2 s hd u d f) := by
  unfold falu2
  try dsimp only
  repeat' first | with_reducible assumption | with_reducible apply issue_ok | with_reducible apply finishNext_ok
                | intro _

theorem faluW_ok {s : State} {hd : Hdr} {u : Use} {wide : Bool} {d : Dst} {f : Wave → Nat → FRes} (hm : MemOk s) :
    MemOk (faluW s hd u wide d f) := by
  unfold faluW
  try dsimp only
  repeat' first | with_reducible assumption | with_reducible apply falu2_ok | with_reducible apply falu_ok
                | refine MemOk.ite ?_ ?_

theorem fset_ok {s : State} {hd : Hdr} {u : Use} {d : PDst} {f : Wave → Nat → Bool × Flags} (hm : MemOk s) : MemOk
    (fset s hd u d f) := by
  unfold fset
  try dsimp only
  repeat' first | with_reducible assumption | with_reducible apply issue_ok | with_reducible apply finishNext_ok
                | intro _

/-! ## Machine/IntArith.lean -/

theorem execIadd_ok {hd : Hdr} {d : Dst} {a b : Src} {sat : Bool} {ty : Ty} {s : State} (hm : MemOk s) : OutOk
    (execIadd hd d a b sat ty s) := by
  unfold execIadd
  try dsimp only
  repeat' first | with_reducible assumption | with_reducible apply OutOk.next | with_reducible apply alu_ok

theorem execIaddImm_ok {hd : Hdr} {d : Dst} {a : Src} {imm : Word} {sat : Bool} {ty : Ty} {s : State} (hm : MemOk s) :
    OutOk (execIaddImm hd d a imm sat ty s) := by
  unfold execIaddImm
  try dsimp only
  repeat' first | with_reducible assumption | with_reducible apply OutOk.next | with_reducible apply alu_ok

theorem execIsub_ok {hd : Hdr} {d : Dst} {a b : Src} {sat : Bool} {ty : Ty} {s : State} (hm : MemOk s) : OutOk
    (execIsub hd d a b sat ty s) := by
  unfold execIsub
  try dsimp only
  repeat' first | with_reducible assumption | with_reducible apply OutOk.next | with_reducible apply alu_ok

theorem execImad_ok {hd : Hdr} {d : Dst} {a b c : Src} {wide : Bool} {ty : Ty} {s : State} (hm : MemOk s) : OutOk
    (execImad hd d a b c wide ty s) := by
  unfold execImad
  try dsimp only
  repeat' first | with_reducible assumption | with_reducible apply OutOk.next | with_reducible apply aluW_ok

theorem execImadImm_ok {hd : Hdr} {d : Dst} {a : Src} {imm : Word} {ty : Ty} {s : State} (hm : MemOk s) : OutOk
    (execImadImm hd d a imm ty s) := by
  unfold execImadImm
  try dsimp only
  repeat' first | with_reducible assumption | with_reducible apply OutOk.next | with_reducible apply alu_ok

theorem execImulh_ok {hd : Hdr} {d : Dst} {a b : Src} {ty : Ty} {s : State} (hm : MemOk s) : OutOk
    (execImulh hd d a b ty s) := by
  unfold execImulh
  try dsimp only
  repeat' first | with_reducible assumption | with_reducible apply OutOk.next | with_reducible apply alu_ok

theorem execIadd64_ok {hd : Hdr} {d : Dst} {a b : Src} {s : State} (hm : MemOk s) : OutOk (execIadd64 hd d a b s) :=
    by
  unfold execIadd64
  try dsimp only
  repeat' first | with_reducible assumption | with_reducible apply OutOk.next | with_reducible apply alu2_ok

theorem execIadd64Imm_ok {hd : Hdr} {d : Dst} {a : Src} {imm : Word} {s : State} (hm : MemOk s) : OutOk
    (execIadd64Imm hd d a imm s) := by
  unfold execIadd64Imm
  try dsimp only
  repeat' first | with_reducible assumption | with_reducible apply OutOk.next | with_reducible apply alu2_ok

theorem execLea_ok {hd : Hdr} {d : Dst} {a b : Src} {sh : BitVec 4} {ty : Ty} {s : State} (hm : MemOk s) : OutOk
    (execLea hd d a b sh ty s) := by
  unfold execLea
  try dsimp only
  repeat' first | with_reducible assumption | with_reducible apply OutOk.next | with_reducible apply alu2_ok

theorem execLeaImm_ok {hd : Hdr} {d : Dst} {a : Src} {imm : Word} {sh : BitVec 4} {ty : Ty} {s : State} (hm : MemOk s)
    : OutOk (execLeaImm hd d a imm sh ty s) := by
  unfold execLeaImm
  try dsimp only
  repeat' first | with_reducible assumption | with_reducible apply OutOk.next | with_reducible apply alu2_ok

theorem execImin_ok {hd : Hdr} {d : Dst} {a b : Src} {ty : Ty} {s : State} (hm : MemOk s) : OutOk
    (execImin hd d a b ty s) := by
  unfold execImin
  try dsimp only
  repeat' first | with_reducible assumption | with_reducible apply OutOk.next | with_reducible apply aluW_ok

theorem execImax_ok {hd : Hdr} {d : Dst} {a b : Src} {ty : Ty} {s : State} (hm : MemOk s) : OutOk
    (execImax hd d a b ty s) := by
  unfold execImax
  try dsimp only
  repeat' first | with_reducible assumption | with_reducible apply OutOk.next | with_reducible apply aluW_ok

theorem execIminImm_ok {hd : Hdr} {d : Dst} {a : Src} {imm : Word} {ty : Ty} {s : State} (hm : MemOk s) : OutOk
    (execIminImm hd d a imm ty s) := by
  unfold execIminImm
  try dsimp only
  repeat' first | with_reducible assumption | with_reducible apply OutOk.next | with_reducible apply aluW_ok

theorem execImaxImm_ok {hd : Hdr} {d : Dst} {a : Src} {imm : Word} {ty : Ty} {s : State} (hm : MemOk s) : OutOk
    (execImaxImm hd d a imm ty s) := by
  unfold execImaxImm
  try dsimp only
  repeat' first | with_reducible assumption | with_reducible apply OutOk.next | with_reducible apply aluW_ok

theorem execIabs_ok {hd : Hdr} {d : Dst} {a : Src} {sat : Bool} {ty : Ty} {s : State} (hm : MemOk s) : OutOk
    (execIabs hd d a sat ty s) := by
  unfold execIabs
  try dsimp only
  repeat' first | with_reducible assumption | with_reducible apply OutOk.next | with_reducible apply aluW_ok

theorem execIsetp_ok {hd : Hdr} {pd : PDst} {a b : Src} {pc : Pred} {cmp : Cmp} {bop : Bop} {ty : Ty} {s : State}
    (hm : MemOk s) : OutOk (execIsetp hd pd a b pc cmp bop ty s) := by
  unfold execIsetp
  try dsimp only
  repeat' first | with_reducible assumption | with_reducible apply OutOk.next | with_reducible apply setPred_ok

theorem execIsetpImm_ok {hd : Hdr} {pd : PDst} {a : Src} {imm : Word} {cmp : Cmp} {ty : Ty} {s : State} (hm : MemOk s)
    : OutOk (execIsetpImm hd pd a imm cmp ty s) := by
  unfold execIsetpImm
  try dsimp only
  repeat' first | with_reducible assumption | with_reducible apply OutOk.next | with_reducible apply setPred_ok

theorem execIsel_ok {hd : Hdr} {d : Dst} {a b : Src} {pneg : Bool} {pr : Pred} {ty : Ty} {s : State} (hm : MemOk s) :
    OutOk (execIsel hd d a b pneg pr ty s) := by
  unfold execIsel
  try dsimp only
  repeat' first | with_reducible assumption | with_reducible apply OutOk.next | with_reducible apply aluW_ok

theorem execIselImm_ok {hd : Hdr} {d : Dst} {a : Src} {imm : Word} {pneg : Bool} {pr : Pred} {ty : Ty} {s : State}
    (hm : MemOk s) : OutOk (execIselImm hd d a imm pneg pr ty s) := by
  unfold execIselImm
  try dsimp only
  repeat' first | with_reducible assumption | with_reducible apply OutOk.next | with_reducible apply aluW_ok

theorem execShl_ok {hd : Hdr} {d : Dst} {a b : Src} {ty : Ty} {s : State} (hm : MemOk s) : OutOk
    (execShl hd d a b ty s) := by
  unfold execShl
  try dsimp only
  repeat' first | with_reducible assumption | with_reducible apply OutOk.next | with_reducible apply aluW_ok

theorem execShr_ok {hd : Hdr} {d : Dst} {a b : Src} {ty : Ty} {s : State} (hm : MemOk s) : OutOk
    (execShr hd d a b ty s) := by
  unfold execShr
  try dsimp only
  repeat' first | with_reducible assumption | with_reducible apply OutOk.next | with_reducible apply aluW_ok

theorem execSar_ok {hd : Hdr} {d : Dst} {a b : Src} {ty : Ty} {s : State} (hm : MemOk s) : OutOk
    (execSar hd d a b ty s) := by
  unfold execSar
  try dsimp only
  repeat' first | with_reducible assumption | with_reducible apply OutOk.next | with_reducible apply aluW_ok

theorem execShlImm_ok {hd : Hdr} {d : Dst} {a : Src} {amt : BitVec 6} {ty : Ty} {s : State} (hm : MemOk s) : OutOk
    (execShlImm hd d a amt ty s) := by
  unfold execShlImm
  try dsimp only
  repeat' first | with_reducible assumption | with_reducible apply OutOk.next | with_reducible apply aluW_ok

theorem execShrImm_ok {hd : Hdr} {d : Dst} {a : Src} {amt : BitVec 6} {ty : Ty} {s : State} (hm : MemOk s) : OutOk
    (execShrImm hd d a amt ty s) := by
  unfold execShrImm
  try dsimp only
  repeat' first | with_reducible assumption | with_reducible apply OutOk.next | with_reducible apply aluW_ok

theorem execSarImm_ok {hd : Hdr} {d : Dst} {a : Src} {amt : BitVec 6} {ty : Ty} {s : State} (hm : MemOk s) : OutOk
    (execSarImm hd d a amt ty s) := by
  unfold execSarImm
  try dsimp only
  repeat' first | with_reducible assumption | with_reducible apply OutOk.next | with_reducible apply aluW_ok

theorem execRot_ok {hd : Hdr} {d : Dst} {a b : Src} {right : Bool} {ty : Ty} {s : State} (hm : MemOk s) : OutOk
    (execRot hd d a b right ty s) := by
  unfold execRot
  try dsimp only
  repeat' first | with_reducible assumption | with_reducible apply OutOk.next | with_reducible apply aluW_ok

theorem execBool3_ok {hd : Hdr} {d : Dst} {a b c : Src} {w64 : Bool} {fn : BitVec 8} {s : State} (hm : MemOk s) :
    OutOk (execBool3 hd d a b c w64 fn s) := by
  unfold execBool3
  try dsimp only
  repeat' first | with_reducible assumption | with_reducible apply OutOk.next | with_reducible apply aluW_ok

theorem execBool3Imm_ok {hd : Hdr} {d : Dst} {a : Src} {imm : Word} {fn : BitVec 8} {s : State} (hm : MemOk s) : OutOk
    (execBool3Imm hd d a imm fn s) := by
  unfold execBool3Imm
  try dsimp only
  repeat' first | with_reducible assumption | with_reducible apply OutOk.next | with_reducible apply alu_ok

theorem execPopc_ok {hd : Hdr} {d : Dst} {a : Src} {ty : Ty} {s : State} (hm : MemOk s) : OutOk (execPopc hd d a ty s)
    := by
  unfold execPopc
  try dsimp only
  repeat' first | with_reducible assumption | with_reducible apply OutOk.next | with_reducible apply alu_ok

theorem execClz_ok {hd : Hdr} {d : Dst} {a : Src} {ty : Ty} {s : State} (hm : MemOk s) : OutOk (execClz hd d a ty s)
    := by
  unfold execClz
  try dsimp only
  repeat' first | with_reducible assumption | with_reducible apply OutOk.next | with_reducible apply alu_ok

theorem execBrev_ok {hd : Hdr} {d : Dst} {a : Src} {ty : Ty} {s : State} (hm : MemOk s) : OutOk (execBrev hd d a ty s)
    := by
  unfold execBrev
  try dsimp only
  repeat' first | with_reducible assumption | with_reducible apply OutOk.next | with_reducible apply aluW_ok

theorem execBfe_ok {hd : Hdr} {d : Dst} {a b : Src} {ty : Ty} {s : State} (hm : MemOk s) : OutOk
    (execBfe hd d a b ty s) := by
  unfold execBfe
  try dsimp only
  repeat' first | with_reducible assumption | with_reducible apply OutOk.next | with_reducible apply alu_ok

theorem execBfi_ok {hd : Hdr} {d : Dst} {a b c : Src} {s : State} (hm : MemOk s) : OutOk (execBfi hd d a b c s) := by
  unfold execBfi
  try dsimp only
  repeat' first | with_reducible assumption | with_reducible apply OutOk.next | with_reducible apply alu_ok

theorem execBsel_ok {hd : Hdr} {d : Dst} {a b c : Src} {s : State} (hm : MemOk s) : OutOk (execBsel hd d a b c s) :=
    by
  unfold execBsel
  try dsimp only
  repeat' first | with_reducible assumption | with_reducible apply OutOk.next | with_reducible apply alu_ok

/-! ## Machine/FloatArith.lean -/

theorem execFadd_ok {hd : Hdr} {d : Dst} {a b : Src} {fm : FMod} {ty : Ty} {s : State} (hm : MemOk s) : OutOk
    (execFadd hd d a b fm ty s) := by
  unfold execFadd
  try dsimp only
  repeat' first | with_reducible assumption | with_reducible apply OutOk.next | with_reducible apply falu_ok

theorem execFmul_ok {hd : Hdr} {d : Dst} {a b : Src} {fm : FMod} {ty : Ty} {s : State} (hm : MemOk s) : OutOk
    (execFmul hd d a b fm ty s) := by
  unfold execFmul
  try dsimp only
  repeat' first | with_reducible assumption | with_reducible apply OutOk.next | with_reducible apply falu_ok

theorem execFfma_ok {hd : Hdr} {d : Dst} {a b c : Src} {fm : FMod} {ty : Ty} {s : State} (hm : MemOk s) : OutOk
    (execFfma hd d a b c fm ty s) := by
  unfold execFfma
  try dsimp only
  repeat' first | with_reducible assumption | with_reducible apply OutOk.next | with_reducible apply falu_ok

theorem execFmin_ok {hd : Hdr} {d : Dst} {a b : Src} {ftz na nl : Bool} {ty : Ty} {s : State} (hm : MemOk s) : OutOk
    (execFmin hd d a b ftz na nl ty s) := by
  unfold execFmin
  try dsimp only
  repeat' first | with_reducible assumption | with_reducible apply OutOk.next | with_reducible apply falu_ok

theorem execFmax_ok {hd : Hdr} {d : Dst} {a b : Src} {ftz na nl : Bool} {ty : Ty} {s : State} (hm : MemOk s) : OutOk
    (execFmax hd d a b ftz na nl ty s) := by
  unfold execFmax
  try dsimp only
  repeat' first | with_reducible assumption | with_reducible apply OutOk.next | with_reducible apply falu_ok

theorem execFsetp_ok {hd : Hdr} {pd : PDst} {a b : Src} {pc : Pred} {bop : Bop} {ftz : Bool} {cmp : FCmp} {ty : Ty}
    {s : State} (hm : MemOk s) : OutOk (execFsetp hd pd a b pc bop ftz cmp ty s) := by
  unfold execFsetp
  try dsimp only
  repeat' first | with_reducible assumption | with_reducible apply OutOk.next | with_reducible apply fset_ok

theorem execFclass_ok {hd : Hdr} {d : Dst} {a : Src} {ty : Ty} {s : State} (hm : MemOk s) : OutOk
    (execFclass hd d a ty s) := by
  unfold execFclass
  try dsimp only
  repeat' first | with_reducible assumption | with_reducible apply OutOk.next | with_reducible apply alu_ok

theorem execHadd2_ok {hd : Hdr} {d : Dst} {a b : Src} {fm : FMod} {ty : Ty} {s : State} (hm : MemOk s) : OutOk
    (execHadd2 hd d a b fm ty s) := by
  unfold execHadd2
  try dsimp only
  repeat' first | with_reducible assumption | with_reducible apply OutOk.next | with_reducible apply falu_ok

theorem execHfma2_ok {hd : Hdr} {d : Dst} {a b c : Src} {fm : FMod} {ty : Ty} {s : State} (hm : MemOk s) : OutOk
    (execHfma2 hd d a b c fm ty s) := by
  unfold execHfma2
  try dsimp only
  repeat' first | with_reducible assumption | with_reducible apply OutOk.next | with_reducible apply falu_ok

theorem execDot4_ok {hd : Hdr} {d : Dst} {a b c : Src} {sat : Bool} {ty : Ty} {s : State} (hm : MemOk s) : OutOk
    (execDot4 hd d a b c sat ty s) := by
  unfold execDot4
  try dsimp only
  repeat' first | with_reducible assumption | with_reducible apply OutOk.next | with_reducible apply alu_ok

theorem execDot2_ok {hd : Hdr} {d : Dst} {a b c : Src} {rm : Rm} {ty : Ty} {s : State} (hm : MemOk s) : OutOk
    (execDot2 hd d a b c rm ty s) := by
  unfold execDot2
  try dsimp only
  repeat' first | with_reducible assumption | with_reducible apply OutOk.next | with_reducible apply falu_ok

theorem execFaddImm_ok {hd : Hdr} {d : Dst} {a : Src} {imm : Word} {rm : Rm} {ftz na : Bool} {ty : Ty} {s : State}
    (hm : MemOk s) : OutOk (execFaddImm hd d a imm rm ftz na ty s) := by
  unfold execFaddImm
  try dsimp only
  repeat' first | with_reducible assumption | with_reducible apply OutOk.next | with_reducible apply falu_ok

theorem execFmulImm_ok {hd : Hdr} {d : Dst} {a : Src} {imm : Word} {rm : Rm} {ftz na : Bool} {ty : Ty} {s : State}
    (hm : MemOk s) : OutOk (execFmulImm hd d a imm rm ftz na ty s) := by
  unfold execFmulImm
  try dsimp only
  repeat' first | with_reducible assumption | with_reducible apply OutOk.next | with_reducible apply falu_ok

theorem execFfmaImm_ok {hd : Hdr} {d : Dst} {a : Src} {imm : Word} {rm : Rm} {ftz na : Bool} {ty : Ty} {s : State}
    (hm : MemOk s) : OutOk (execFfmaImm hd d a imm rm ftz na ty s) := by
  unfold execFfmaImm
  try dsimp only
  repeat' first | with_reducible assumption | with_reducible apply OutOk.next | with_reducible apply falu_ok

theorem execDadd_ok {hd : Hdr} {d : Dst} {a b : Src} {rm : Rm} {na nl : Bool} {s : State} (hm : MemOk s) : OutOk
    (execDadd hd d a b rm na nl s) := by
  unfold execDadd
  try dsimp only
  repeat' first | with_reducible assumption | with_reducible apply OutOk.next | with_reducible apply falu2_ok

theorem execDmul_ok {hd : Hdr} {d : Dst} {a b : Src} {rm : Rm} {na nl : Bool} {s : State} (hm : MemOk s) : OutOk
    (execDmul hd d a b rm na nl s) := by
  unfold execDmul
  try dsimp only
  repeat' first | with_reducible assumption | with_reducible apply OutOk.next | with_reducible apply falu2_ok

theorem execDfma_ok {hd : Hdr} {d : Dst} {a b c : Src} {rm : Rm} {na nl : Bool} {s : State} (hm : MemOk s) : OutOk
    (execDfma hd d a b c rm na nl s) := by
  unfold execDfma
  try dsimp only
  repeat' first | with_reducible assumption | with_reducible apply OutOk.next | with_reducible apply falu2_ok

theorem execDsetp_ok {hd : Hdr} {pd : PDst} {a b : Src} {pc : Pred} {bop : Bop} {cmp : FCmp} {s : State}
    (hm : MemOk s) : OutOk (execDsetp hd pd a b pc bop cmp s) := by
  unfold execDsetp
  try dsimp only
  repeat' first | with_reducible assumption | with_reducible apply OutOk.next | with_reducible apply fset_ok

theorem special47_ok {s : State} {hd : Hdr} {u : Use} {d : DReg} {f : Wave → Nat → FRes} (hm : MemOk s) : MemOk
    (special47 s hd u d f) := by
  unfold special47
  try dsimp only
  repeat' first | with_reducible assumption | with_reducible apply issue_ok | with_reducible apply finishNext_ok
                | with_reducible apply startFlight_ok | refine startFlight_ok2 (by with_reducible assumption) ?_
                | refine MemOk.ite ?_ ?_ | intro _

theorem execFrcp_ok {hd : Hdr} {d : DReg} {a : Src} {rm : Rm} {ftz : Bool} {s : State} (hm : MemOk s) : OutOk
    (execFrcp hd d a rm ftz s) := by
  unfold execFrcp
  try dsimp only
  repeat' first | with_reducible assumption | with_reducible apply OutOk.next | with_reducible apply special47_ok

theorem execFrsq_ok {hd : Hdr} {d : DReg} {a : Src} {ftz : Bool} {s : State} (hm : MemOk s) : OutOk
    (execFrsq hd d a ftz s) := by
  unfold execFrsq
  try dsimp only
  repeat' first | with_reducible assumption | with_reducible apply OutOk.next | with_reducible apply special47_ok

theorem execFsqrt_ok {hd : Hdr} {d : DReg} {a : Src} {rm : Rm} {ftz : Bool} {s : State} (hm : MemOk s) : OutOk
    (execFsqrt hd d a rm ftz s) := by
  unfold execFsqrt
  try dsimp only
  repeat' first | with_reducible assumption | with_reducible apply OutOk.next | with_reducible apply special47_ok

theorem execFex2_ok {hd : Hdr} {d : DReg} {a : Src} {ftz : Bool} {s : State} (hm : MemOk s) : OutOk
    (execFex2 hd d a ftz s) := by
  unfold execFex2
  try dsimp only
  repeat' first | with_reducible assumption | with_reducible apply OutOk.next | with_reducible apply special47_ok

theorem execFlg2_ok {hd : Hdr} {d : DReg} {a : Src} {ftz : Bool} {s : State} (hm : MemOk s) : OutOk
    (execFlg2 hd d a ftz s) := by
  unfold execFlg2
  try dsimp only
  repeat' first | with_reducible assumption | with_reducible apply OutOk.next | with_reducible apply special47_ok

theorem execFsin_ok {hd : Hdr} {d : DReg} {a : Src} {ftz : Bool} {s : State} (hm : MemOk s) : OutOk
    (execFsin hd d a ftz s) := by
  unfold execFsin
  try dsimp only
  repeat' first | with_reducible assumption | with_reducible apply OutOk.next | with_reducible apply special47_ok

theorem execFcos_ok {hd : Hdr} {d : DReg} {a : Src} {ftz : Bool} {s : State} (hm : MemOk s) : OutOk
    (execFcos hd d a ftz s) := by
  unfold execFcos
  try dsimp only
  repeat' first | with_reducible assumption | with_reducible apply OutOk.next | with_reducible apply special47_ok

theorem writeLane_ok {s : State} {f : Flight} {lane : Nat} {ws : List Word} (hm : MemOk s) : MemOk
    (writeLane s f lane ws) := by
  unfold writeLane
  try dsimp only
  repeat' first | with_reducible assumption | with_reducible apply MemOk.updWave

theorem execSpecialFunctionResult_ok {seq : Nat} {s : State} (hm : MemOk s) : OutOk (execSpecialFunctionResult seq s)
    := by
  unfold execSpecialFunctionResult
  try dsimp only
  repeat' first | with_reducible assumption | with_reducible apply OutOk.next | with_reducible apply endFlight_ok
                | with_reducible apply writeLane_ok | with_reducible apply MemOk.foldl
                | with_reducible apply MemOk.foldl_fst | with_reducible apply MemOk.foldl_snd | refine OutOk.ite ?_ ?_
                | refine MemOk.ite ?_ ?_ | with_reducible apply MemOk.wf | simp only [MemOk.mk_eq] | intro _ | split

/-! ## Machine/Translate.lean -/

theorem readEntry_ok {s : State} {pa : Nat} (hm : MemOk s) : MemOk (readEntry s pa).1 := by
  unfold readEntry
  simp only [State.free_eq]
  repeat' first | with_reducible assumption | with_reducible apply MemOk.afterFree
                | refine homeReadAt_ok (by with_reducible assumption) ?_ | refine MemOk.ite ?_ ?_
                | with_reducible apply MemOk.wf | simp only [MemOk.mk_eq] | intro _ | split

theorem readEntry_ok2 {s : State} {pa : Nat} {tt} {xx} (e : readEntry s pa = (tt, xx)) (hm : MemOk s) : MemOk tt := by
  have h2 : MemOk (readEntry s pa).1 := readEntry_ok hm
  rw [e] at h2; exact h2

theorem pasidRoot_ok {s : State} {part pasid : Nat} (hm : MemOk s) : MemOk (pasidRoot s part pasid).1 := by
  unfold pasidRoot
  try dsimp only
  repeat' first | with_reducible assumption | with_reducible apply readEntry_ok
                | refine readEntry_ok2 (by with_reducible assumption) ?_ | with_reducible apply MemOk.wf
                | simp only [MemOk.mk_eq] | intro _ | split

theorem pasidRoot_ok2 {s : State} {part pasid : Nat} {tt} {xx} (e : pasidRoot s part pasid = (tt, xx)) (hm : MemOk s)
    : MemOk tt := by
  have h2 : MemOk (pasidRoot s part pasid).1 := pasidRoot_ok hm
  rw [e] at h2; exact h2

theorem walkFrom_ok {part pasid va n level node : Nat} {ws : List WalkEnt} {s : State} (h : MemOk s) :
    MemOk (walkFrom part pasid va n level node ws s).1 := by
  induction n generalizing level node ws s with
  | zero => exact h
  | succ n ih =>
    unfold walkFrom
    split
    · rename_i e; exact readEntry_ok2 e h
    · rename_i e
      split
      · exact readEntry_ok2 e h
      · exact ih (readEntry_ok2 e h)
theorem walkFrom_ok2 {part pasid va n level node : Nat} {ws : List WalkEnt} {s : State} {t x}
    (e : walkFrom part pasid va n level node ws s = (t, x)) (h : MemOk s) : MemOk t := by
  have h2 := walkFrom_ok (part := part) (pasid := pasid) (va := va) (n := n) (level := level) (node := node) (ws := ws) h
  rw [e] at h2; exact h2

theorem walk_ok {s : State} {die part pasid va : Nat} (hm : MemOk s) : MemOk (walk s die part pasid va).1 := by
  unfold walk
  split
  · exact hm
  · split
    · rename_i e; exact pasidRoot_ok2 e hm
    · rename_i e
      dsimp only
      split
      · rename_i e2; exact walkFrom_ok2 e2 (pasidRoot_ok2 e hm)
      · rename_i e2; exact walkFrom_ok2 e2 (pasidRoot_ok2 e hm)

theorem walk_ok2 {s : State} {die part pasid va : Nat} {tt} {xx} (e : walk s die part pasid va = (tt, xx))
    (hm : MemOk s) : MemOk tt := by
  have h2 : MemOk (walk s die part pasid va).1 := walk_ok hm
  rw [e] at h2; exact h2

theorem fillOuter_ok {s : State} {cluster : Nat} {e : TlbEnt} (hm : MemOk s) : MemOk (fillOuter s cluster e) := by
  unfold fillOuter
  try dsimp only
  repeat' first | with_reducible assumption | with_reducible apply MemOk.updCluster
                | with_reducible apply MemOk.updDie

theorem fillTlbs_ok {s : State} {core : Nat} {e : TlbEnt} (hm : MemOk s) : MemOk (fillTlbs s core e) := by
  unfold fillTlbs
  try dsimp only
  repeat' first | with_reducible assumption | with_reducible apply fillOuter_ok | with_reducible apply MemOk.updCore

theorem dropEnt_ok {s : State} {core : Nat} {e : TlbEnt} (hm : MemOk s) : MemOk (dropEnt s core e) := by
  unfold dropEnt
  try dsimp only
  repeat' first | with_reducible assumption | with_reducible apply MemOk.updCore
                | with_reducible apply MemOk.updCluster | with_reducible apply MemOk.updDie

theorem queueMiss_ok {s : State} {core part pasid va : Nat} {w : Waiter × Access} (hm : MemOk s) : MemOk
    (queueMiss s core part pasid va w) := by
  unfold queueMiss
  try dsimp only
  repeat' first | with_reducible assumption | with_reducible apply MemOk.updDie

theorem xlatWave_ok {s : State} {wt : Waiter} {w : Wave} {va : Nat} {a : Access} (hm : MemOk s) : MemOk
    (xlatWave s wt w va a).1 := by
  unfold xlatWave
  try dsimp only
  repeat' first | with_reducible assumption | with_reducible apply fillTlbs_ok | with_reducible apply dropEnt_ok
                | with_reducible apply queueMiss_ok | refine MemOk.ite ?_ ?_ | with_reducible apply MemOk.wf
                | simp only [MemOk.mk_eq] | intro _ | split

theorem xlatWave_ok2 {s : State} {wt : Waiter} {w : Wave} {va : Nat} {a : Access} {tt} {xx}
    (e : xlatWave s wt w va a = (tt, xx)) (hm : MemOk s) : MemOk tt := by
  have h2 : MemOk (xlatWave s wt w va a).1 := xlatWave_ok hm
  rw [e] at h2; exact h2

theorem xlatAll_ok {id : Waiter} {w : Wave} {l : List (Nat × Access)} {s : State} (h : MemOk s) :
    MemOk (xlatAll id w l s).1 := by
  induction l generalizing s with
  | nil => exact h
  | cons x l ih => exact ih (xlatWave_ok h)
theorem xlatAll_ok2 {id : Waiter} {w : Wave} {l : List (Nat × Access)} {s : State} {t x}
    (e : xlatAll id w l s = (t, x))
    (h : MemOk s) : MemOk t := by
  have h2 := xlatAll_ok (id := id) (w := w) (l := l) h
  rw [e] at h2; exact h2

theorem recordFault_ok {s : State} {die : Nat} {r : FRec} {pages : List Nat} (hm : MemOk s) : MemOk
    (recordFault s die r pages) := by
  unfold recordFault
  try dsimp only
  repeat' first | with_reducible assumption | with_reducible apply pushFault_ok | with_reducible apply MemOk.updDie
                | refine MemOk.ite ?_ ?_

theorem faultWave_ok {s : State} {id : Nat} {pc : DWord} {lanes : LaneSet} {faults : List (Nat × DWord)}
    (hm : MemOk s) : MemOk (faultWave s id pc lanes faults) := by
  unfold faultWave
  try dsimp only
  repeat' first | with_reducible assumption | with_reducible apply suspendWave_ok | with_reducible apply MemOk.updWave
                | with_reducible apply recordFault_ok

theorem faultIfDone_ok {s : State} {id : Nat} (hm : MemOk s) : MemOk (faultIfDone s id) := by
  unfold faultIfDone
  try dsimp only
  repeat' first | with_reducible assumption | with_reducible apply faultWave_ok | refine MemOk.ite ?_ ?_
                | with_reducible apply MemOk.wf | simp only [MemOk.mk_eq] | intro _ | split

theorem noteXlat_ok {s : State} {id : Nat} {vas : List (Nat × Access)} {xs : List Xlat} (hm : MemOk s) : MemOk
    (noteXlat s id vas xs) := by
  unfold noteXlat
  try dsimp only
  repeat' first | with_reducible assumption | with_reducible apply MemOk.updWave

theorem withXlat_ok {s : State} {c : Ctx} {vas : List (Nat × Access)}
    {k : Ctx → State → List (Nat × TlbEnt) → State} (h : MemOk s) (hk : ∀ c s l, MemOk s → MemOk (k c s l)) :
    MemOk (withXlat s c vas k) := by
  unfold withXlat
  dsimp only
  repeat' first | with_reducible assumption | with_reducible apply noteXlat_ok | with_reducible apply faultWave_ok
                | with_reducible apply xlatAll_ok | (with_reducible apply hk) | refine MemOk.ite ?_ ?_

theorem invalidate_ok {s : State} {part scope pasid vpn : Nat} (hm : MemOk s) : MemOk
    (invalidate s part scope pasid vpn) := by
  unfold invalidate
  try dsimp only
  repeat' first | with_reducible assumption | with_reducible apply MemOk.wf | simp only [MemOk.mk_eq]

/-! ## Machine/Requests.lean -/

theorem raisePts_ok {s : State} {core t : Nat} (hm : MemOk s) : MemOk (raisePts s core t) := by
  unfold raisePts
  try dsimp only
  repeat' first | with_reducible assumption | with_reducible apply MemOk.updCore

theorem newToken_ok {s : State} {cluster : Nat} {wave : Option Nat} (hm : MemOk s) : MemOk (newToken s cluster wave).2
    := by
  unfold newToken
  try dsimp only
  repeat' first | with_reducible assumption | with_reducible apply MemOk.setCluster | with_reducible apply MemOk.wf
                | simp only [MemOk.mk_eq]

theorem newToken_ok2 {s : State} {cluster : Nat} {wave : Option Nat} {tt} {xx}
    (e : newToken s cluster wave = (xx, tt)) (hm : MemOk s) : MemOk tt := by
  have h2 : MemOk (newToken s cluster wave).2 := newToken_ok hm
  rw [e] at h2; exact h2

theorem sendReq_ok {s : State} {r : Req} {token : Bool} (hm : MemOk s) : MemOk (sendReq s r token) := by
  unfold sendReq
  simp only [State.newId_eq]
  repeat' first | with_reducible assumption | with_reducible apply newToken_ok | with_reducible apply MemOk.afterId
                | refine newToken_ok2 (by with_reducible assumption) ?_ | refine MemOk.ite ?_ ?_
                | with_reducible apply MemOk.wf | simp only [MemOk.mk_eq] | intro _ | split

theorem victimHit_ok {s : State} {core line : Nat} (hm : MemOk s) : MemOk (victimHit s core line) := by
  unfold victimHit
  try dsimp only
  repeat' first | with_reducible assumption | with_reducible apply MemOk.updWave | with_reducible apply MemOk.wf
                | simp only [MemOk.mk_eq] | intro _ | split

theorem l1Fill_ok {s : State} {core wave line : Nat} {x : L1Line} (hm : MemOk s) : MemOk (l1Fill s core wave line x)
    := by
  unfold l1Fill
  try dsimp only
  repeat' first | with_reducible assumption | with_reducible apply MemOk.setCore

theorem l1Drop_ok {s : State} {core line : Nat} (hm : MemOk s) : MemOk (l1Drop s core line) := by
  unfold l1Drop
  try dsimp only
  repeat' first | with_reducible assumption | with_reducible apply MemOk.updCore

theorem tokenAnswer_ok {s : State} {id : Nat} {r : Req} {tt} (e : tokenAnswer s id r = some tt) (hm : MemOk s) : MemOk
    tt := by
  unfold tokenAnswer at e
  repeat' first | (simp only [reduceCtorEq] at e; done)
                | (simp only [Except.ok.injEq, Option.some.injEq, Prod.mk.injEq] at e; obtain rfl := e) | split at e
  all_goals repeat' first | with_reducible assumption | with_reducible apply sendReply_ok

theorem keepToken_ok {s : State} {r : Req} {result : List Word} {t : Nat} (hm : MemOk s) : MemOk
    (keepToken s r result t) := by
  unfold keepToken
  try dsimp only
  repeat' first | with_reducible assumption | with_reducible apply MemOk.wf | simp only [MemOk.mk_eq] | intro _
                | split

theorem setReq_ok {s : State} {id : Nat} {r : Req} (hm : MemOk s) : MemOk (setReq s id r) := by
  unfold setReq
  try dsimp only
  repeat' first | with_reducible assumption | with_reducible apply MemOk.wf | simp only [MemOk.mk_eq]

theorem holdReq_ok {s : State} {id : Nat} {r : Req} {t : Nat} (hm : MemOk s) : MemOk (holdReq s id r t) := by
  unfold holdReq
  try dsimp only
  repeat' first | with_reducible assumption | with_reducible apply setReq_ok

theorem performRead_ok {s : State} {id : Nat} {r : Req} {renew : Option Nat} (hm : MemOk s) : MemOk
    (performRead s id r renew) := by
  unfold performRead
  try dsimp only
  repeat' first | with_reducible assumption | with_reducible apply holdReq_ok | with_reducible apply sendReply_ok
                | refine homeReadAt_ok (by with_reducible assumption) ?_ | with_reducible apply MemOk.wf
                | simp only [MemOk.mk_eq] | intro _ | split

theorem performWrite_ok {s : State} {id : Nat} {r : Req} {new : List Byte} {ret : List Word} (hm : MemOk s) : MemOk
    (performWrite s id r new ret) := by
  unfold performWrite
  try dsimp only
  repeat' first | with_reducible assumption | with_reducible apply setReq_ok | with_reducible apply holdReq_ok
                | with_reducible apply sendReply_ok | with_reducible apply keepToken_ok
                | refine tokenAnswer_ok (by with_reducible assumption) ?_
                | refine homeWriteAt_ok (by with_reducible assumption) ?_ | refine MemOk.ite ?_ ?_
                | with_reducible apply MemOk.wf | simp only [MemOk.mk_eq] | intro _ | split

theorem answerAt_ok {s : State} {r : Req} {words : List Word} {t : Nat} {token : Bool} (hm : MemOk s) : MemOk
    (answerAt s r words t token) := by
  unfold answerAt
  try dsimp only
  repeat' first | with_reducible assumption | with_reducible apply sendReq_ok | with_reducible apply sendReply_ok
                | with_reducible apply keepToken_ok | with_reducible apply MemOk.wf | simp only [MemOk.mk_eq]
                | intro _ | split

theorem perform_ok {s : State} {id : Nat} {r : Req} (hm : MemOk s) : MemOk (perform s id r) := by
  unfold perform
  try dsimp only
  repeat' first | with_reducible assumption | with_reducible apply performRead_ok
                | with_reducible apply performWrite_ok | with_reducible apply MemOk.getD
                | refine tokenAnswer_ok (by with_reducible assumption) ?_ | with_reducible apply MemOk.wf
                | simp only [MemOk.mk_eq] | intro _ | split

theorem charge_ok {s : State} {home part n : Nat} (hm : MemOk s) : MemOk (charge s home part n) := by
  unfold charge
  try dsimp only
  repeat' first | with_reducible assumption | with_reducible apply MemOk.setHome

theorem performCharged_ok {s : State} {id : Nat} {r : Req} (hm : MemOk s) : MemOk (performCharged s id r) := by
  unfold performCharged
  try dsimp only
  repeat' first | with_reducible assumption | with_reducible apply perform_ok | with_reducible apply charge_ok
                | refine tokenAnswer_ok (by with_reducible assumption) ?_ | refine MemOk.ite ?_ ?_

theorem performEvent_ok {s : State} {id : Nat} {kind : ReqKind → Bool} (hm : MemOk s) : MemOk (performEvent s id kind)
    := by
  unfold performEvent
  try dsimp only
  repeat' first | with_reducible assumption | with_reducible apply performCharged_ok | refine MemOk.ite ?_ ?_
                | with_reducible apply MemOk.wf | simp only [MemOk.mk_eq] | intro _ | split

theorem execHomeRead_ok {req : Nat} {s : State} (hm : MemOk s) : OutOk (execHomeRead req s) := by
  unfold execHomeRead
  try dsimp only
  repeat' first | with_reducible assumption | with_reducible apply OutOk.next | with_reducible apply performEvent_ok

theorem execLeaseRenewal_ok {req : Nat} {s : State} (hm : MemOk s) : OutOk (execLeaseRenewal req s) := by
  unfold execLeaseRenewal
  try dsimp only
  repeat' first | with_reducible assumption | with_reducible apply OutOk.next | with_reducible apply performEvent_ok

theorem execHomeWrite_ok {req : Nat} {s : State} (hm : MemOk s) : OutOk (execHomeWrite req s) := by
  unfold execHomeWrite
  try dsimp only
  repeat' first | with_reducible assumption | with_reducible apply OutOk.next | with_reducible apply performEvent_ok

theorem execReadModifyWrite_ok {req : Nat} {s : State} (hm : MemOk s) : OutOk (execReadModifyWrite req s) := by
  unfold execReadModifyWrite
  try dsimp only
  repeat' first | with_reducible assumption | with_reducible apply OutOk.next | with_reducible apply performEvent_ok

theorem execCeilingHoldRelease_ok {req : Nat} {s : State} (hm : MemOk s) : OutOk (execCeilingHoldRelease req s) := by
  unfold execCeilingHoldRelease
  try dsimp only
  repeat' first | with_reducible assumption | with_reducible apply OutOk.next | with_reducible apply performCharged_ok
                | with_reducible apply setReq_ok | refine OutOk.ite ?_ ?_ | refine MemOk.ite ?_ ?_
                | with_reducible apply MemOk.wf | simp only [MemOk.mk_eq] | intro _ | split

theorem execL2LineFill_ok {home line : Nat} {s : State} (hm : MemOk s) : OutOk (execL2LineFill home line s) := by
  unfold execL2LineFill
  try dsimp only
  repeat' first | with_reducible assumption | with_reducible apply OutOk.next | with_reducible apply fillLine_ok
                | refine OutOk.ite ?_ ?_ | refine MemOk.ite ?_ ?_

theorem consumeToken_ok {s : State} {tok : Option Nat} (hm : MemOk s) : MemOk (consumeToken s tok) := by
  unfold consumeToken
  try dsimp only
  repeat' first | with_reducible assumption | with_reducible apply MemOk.wf | simp only [MemOk.mk_eq] | intro _
                | split

theorem keepCopy_ok {s : State} {rep : Reply} {pref : Bool} (hm : MemOk s) : MemOk (keepCopy s rep pref) := by
  unfold keepCopy
  simp only [State.newId_eq]
  repeat' first | with_reducible assumption | with_reducible apply l1Fill_ok | with_reducible apply MemOk.afterId
                | refine MemOk.ite ?_ ?_

theorem collectLane_ok {s : State} {fid lane n : Nat} {ws : List Word} (hm : MemOk s) : MemOk
    (collectLane s fid lane n ws) := by
  unfold collectLane
  try dsimp only
  repeat' first | with_reducible assumption | with_reducible apply MemOk.foldl | with_reducible apply MemOk.foldl_fst
                | with_reducible apply MemOk.foldl_snd | with_reducible apply MemOk.wf | simp only [MemOk.mk_eq]
                | intro _ | split

theorem withdraw_ok {s : State} {p : Req → Bool} (hm : MemOk s) : MemOk (withdraw s p) := by
  unfold withdraw
  try dsimp only
  repeat' first | with_reducible assumption | refine MemOk.ite ?_ ?_ | with_reducible apply MemOk.wf
                | simp only [MemOk.mk_eq]

theorem Flight.afresh_ok {f : Flight} {s : State} {fid : Nat} (hm : MemOk s) : MemOk (Flight.afresh f s fid) := by
  unfold Flight.afresh
  try dsimp only
  repeat' first | with_reducible assumption | with_reducible apply endFlight_ok | with_reducible apply withdraw_ok
                | refine MemOk.ite ?_ ?_

theorem takeWords_ok {s : State} {fid : Nat} {f : Flight} {lane : Nat} {ws : List Word} {bad : Bool} (hm : MemOk s) :
    MemOk (takeWords s fid f lane ws bad) := by
  unfold takeWords
  try dsimp only
  repeat' first | with_reducible assumption | with_reducible apply collectLane_ok | with_reducible apply laneDone_ok
                | with_reducible apply writeLane_ok | refine MemOk.ite ?_ ?_ | with_reducible apply MemOk.wf
                | simp only [MemOk.mk_eq] | intro _ | split

theorem acceptReply_ok {s : State} {rep : Reply} (hm : MemOk s) : MemOk (acceptReply s rep) := by
  unfold acceptReply
  try dsimp only
  repeat' first | with_reducible assumption | with_reducible apply raisePts_ok | with_reducible apply keepCopy_ok
                | with_reducible apply consumeToken_ok | with_reducible apply takeWords_ok
                | with_reducible apply storageTrap_ok | with_reducible apply Flight.afresh_ok
                | with_reducible apply MemOk.foldl | with_reducible apply MemOk.foldl_fst
                | with_reducible apply MemOk.foldl_snd | refine MemOk.ite ?_ ?_ | with_reducible apply MemOk.wf
                | simp only [MemOk.mk_eq] | intro _ | split

theorem mwaitEnd_ok {s : State} {id : Nat} (hm : MemOk s) : MemOk (mwaitEnd s id) := by
  unfold mwaitEnd
  try dsimp only
  repeat' first | with_reducible assumption | with_reducible apply wake_ok | refine MemOk.ite ?_ ?_
                | with_reducible apply MemOk.wf | simp only [MemOk.mk_eq] | intro _ | split

theorem gridTop_ok {s : State} {part t : Nat} (hm : MemOk s) : MemOk (gridTop s part t) := by
  unfold gridTop
  try dsimp only
  repeat' first | with_reducible assumption | refine MemOk.ite ?_ ?_ | with_reducible apply MemOk.wf
                | simp only [MemOk.mk_eq]

theorem staleReply_ok {s : State} {rep : Reply} (hm : MemOk s) : MemOk (staleReply s rep) := by
  unfold staleReply
  try dsimp only
  repeat' first | with_reducible assumption | with_reducible apply gridTop_ok | with_reducible apply Flight.afresh_ok
                | with_reducible apply collectLane_ok | refine MemOk.ite ?_ ?_ | with_reducible apply MemOk.wf
                | simp only [MemOk.mk_eq] | intro _ | split

theorem replyEvent_ok {s : State} {id : Nat} {kind : ReqKind → Bool} (hm : MemOk s) : MemOk (replyEvent s id kind) :=
    by
  unfold replyEvent
  try dsimp only
  repeat' first | with_reducible assumption | with_reducible apply laneDone_ok | with_reducible apply keepCopy_ok
                | with_reducible apply mwaitEnd_ok | with_reducible apply acceptReply_ok
                | with_reducible apply staleReply_ok | refine MemOk.ite ?_ ?_ | with_reducible apply MemOk.wf
                | simp only [MemOk.mk_eq] | intro _ | split

theorem deliverKept_ok {s : State} {fid : Nat} (hm : MemOk s) : MemOk (deliverKept s fid) := by
  unfold deliverKept
  try dsimp only
  repeat' first | with_reducible assumption | with_reducible apply MemOk.updWave | with_reducible apply endFlight_ok
                | with_reducible apply writeLane_ok | with_reducible apply MemOk.foldl
                | with_reducible apply MemOk.foldl_fst | with_reducible apply MemOk.foldl_snd | refine MemOk.ite ?_ ?_
                | with_reducible apply MemOk.wf | simp only [MemOk.mk_eq] | intro _ | split

theorem execReadReply_ok {rep : Nat} {s : State} (hm : MemOk s) : OutOk (execReadReply rep s) := by
  unfold execReadReply
  try dsimp only
  repeat' first | with_reducible assumption | with_reducible apply OutOk.next | with_reducible apply deliverKept_ok
                | with_reducible apply replyEvent_ok | refine OutOk.ite ?_ ?_ | refine MemOk.ite ?_ ?_

theorem execTokenRelease_ok {token : BitVec 32} {s : State} (hm : MemOk s) : OutOk (execTokenRelease token s) := by
  unfold execTokenRelease
  try dsimp only
  repeat' first | with_reducible assumption | with_reducible apply OutOk.next | refine OutOk.ite ?_ ?_
                | refine MemOk.ite ?_ ?_ | with_reducible apply MemOk.wf | simp only [MemOk.mk_eq] | intro _ | split

/-! ## Machine/LoadStore.lean -/

theorem globalOp_ok {s : State} {hd : Hdr} {u : Use} {n : Nat} {acc : Access} {ea : Wave → Nat → Nat}
    {toks : Nat → Nat} {lanes : LaneSet → LaneSet} {k : Ctx → State → List LaneAcc → State} (hm : MemOk s)
    (hk : ∀ y0 y1 y2, MemOk y1 → MemOk (k y0 y1 y2)) : MemOk (globalOp s hd u n acc ea toks lanes k) := by
  unfold globalOp
  try dsimp only
  repeat' first | with_reducible assumption | with_reducible apply issue_ok | with_reducible apply trapCtx_ok
                | with_reducible apply withXlat_ok | with_reducible apply hk | refine MemOk.ite ?_ ?_
                | with_reducible apply MemOk.wf | simp only [MemOk.mk_eq] | intro _ | split

theorem keepResults_ok {s : State} {c : Ctx} {hd : Hdr} {regs : List Nat} {n : Nat} {d : DReg}
    {vals : Nat → List Word} (hm : MemOk s) : MemOk (keepResults s c hd regs n d vals) := by
  unfold keepResults
  try dsimp only
  repeat' first | with_reducible assumption | with_reducible apply finishNext_ok | with_reducible apply startFlight_ok
                | refine startFlight_ok2 (by with_reducible assumption) ?_ | refine MemOk.ite ?_ ?_

theorem sendLanes_ok {f : Nat → LaneAcc → State → State × Bool} {fid : Nat} {l : List LaneAcc} {s : State}
    {m : LaneSet}
    (h : MemOk s) (hf : ∀ i x s, MemOk s → MemOk (f i x s).1) : MemOk (sendLanes f fid l s m).1 := by
  induction l generalizing s m with
  | nil => exact h
  | cons x l ih => exact ih (hf _ _ _ h)
theorem sendLanes_ok2 {f : Nat → LaneAcc → State → State × Bool} {fid : Nat} {l : List LaneAcc} {s : State}
    {m : LaneSet}
    {t x} (e : sendLanes f fid l s m = (t, x)) (h : MemOk s) (hf : ∀ i x s, MemOk s → MemOk (f i x s).1) : MemOk t := by
  have h2 := sendLanes_ok (fid := fid) (l := l) (m := m) h hf
  rw [e] at h2; exact h2

theorem flyLanes_ok {s : State} {c : Ctx} {hd : Hdr} {fl : Flight} {xs : List LaneAcc}
    {f : Nat → LaneAcc → State → State × Bool} (hm : MemOk s) (hf : ∀ y0 y1 y2, MemOk y2 → MemOk (f y0 y1 y2).1) :
    MemOk (flyLanes s c hd fl xs f) := by
  unfold flyLanes
  try dsimp only
  repeat' first | with_reducible assumption | with_reducible apply finishNext_ok | with_reducible apply startFlight_ok
                | with_reducible apply sendLanes_ok | with_reducible apply MemOk.setWave
                | with_reducible apply endFlight_ok | refine startFlight_ok2 (by with_reducible assumption) ?_
                | refine sendLanes_ok2 (by with_reducible assumption) ?_ | with_reducible apply hf
                | refine MemOk.ite ?_ ?_ | with_reducible apply MemOk.wf | simp only [MemOk.mk_eq]

theorem loadLane_ok {c : Ctx} {ch : CHint} {n : Nat} {fid : Nat} {x : LaneAcc} {s : State} (hm : MemOk s) : MemOk
    (loadLane c ch n fid x s).1 := by
  unfold loadLane
  simp only [State.newId_eq]
  repeat' first | with_reducible assumption | with_reducible apply MemOk.updCore | with_reducible apply raisePts_ok
                | with_reducible apply coreTrap_ok | with_reducible apply Flight.afresh_ok
                | with_reducible apply collectLane_ok | with_reducible apply writeLane_ok
                | with_reducible apply victimHit_ok | with_reducible apply sendReq_ok
                | with_reducible apply MemOk.afterId | refine MemOk.ite ?_ ?_ | with_reducible apply MemOk.wf
                | simp only [MemOk.mk_eq] | intro _ | split

theorem loadLane_ok2 {c : Ctx} {ch : CHint} {n : Nat} {fid : Nat} {x : LaneAcc} {s : State} {tt} {xx}
    (e : loadLane c ch n fid x s = (tt, xx)) (hm : MemOk s) : MemOk tt := by
  have h2 : MemOk (loadLane c ch n fid x s).1 := loadLane_ok hm
  rw [e] at h2; exact h2

theorem execLd_ok {hd : Hdr} {d : DReg} {a : Src} {off : BitVec 24} {ch : CHint} {mt : MemTy} {s : State}
    (hm : MemOk s) : OutOk (execLd hd d a off ch mt s) := by
  unfold execLd
  try dsimp only
  repeat' first | with_reducible assumption | with_reducible apply OutOk.next | with_reducible apply globalOp_ok
                | with_reducible apply flyLanes_ok | with_reducible apply loadLane_ok
                | refine loadLane_ok2 (by with_reducible assumption) ?_ | intro _

theorem execSt_ok {hd : Hdr} {a : Src} {off : BitVec 24} {b : Src} {ch : CHint} {mt : MemTy} {s : State}
    (hm : MemOk s) : OutOk (execSt hd a off b ch mt s) := by
  unfold execSt
  try dsimp only
  repeat' first | with_reducible assumption | with_reducible apply OutOk.next | with_reducible apply globalOp_ok
                | with_reducible apply flyLanes_ok | with_reducible apply sendReq_ok | intro _

theorem execLdw_ok {hd : Hdr} {d : BitVec 7} {a : BitVec 7} {off : BitVec 24} {ch : CHint} {ty : Ty} {s : State}
    (hm : MemOk s) : OutOk (execLdw hd d a off ch ty s) := by
  unfold execLdw
  try dsimp only
  repeat' first | with_reducible assumption | with_reducible apply OutOk.next | with_reducible apply globalOp_ok
                | with_reducible apply flyLanes_ok | with_reducible apply loadLane_ok
                | refine loadLane_ok2 (by with_reducible assumption) ?_ | intro _

theorem prefLane_ok {c : Ctx} {ch : CHint} {fid : Nat} {x : LaneAcc} {s : State} (hm : MemOk s) : MemOk
    (prefLane c ch fid x s).1 := by
  unfold prefLane
  try dsimp only
  repeat' first | with_reducible assumption | with_reducible apply sendReq_ok | refine MemOk.ite ?_ ?_ | intro _
                | split

theorem prefLane_ok2 {c : Ctx} {ch : CHint} {fid : Nat} {x : LaneAcc} {s : State} {tt} {xx}
    (e : prefLane c ch fid x s = (tt, xx)) (hm : MemOk s) : MemOk tt := by
  have h2 : MemOk (prefLane c ch fid x s).1 := prefLane_ok hm
  rw [e] at h2; exact h2

theorem execPref_ok {hd : Hdr} {a : Src} {off : BitVec 24} {ch : CHint} {s : State} (hm : MemOk s) : OutOk
    (execPref hd a off ch s) := by
  unfold execPref
  try dsimp only
  repeat' first | with_reducible assumption | with_reducible apply OutOk.next | with_reducible apply issue_ok
                | with_reducible apply xlatAll_ok | with_reducible apply noteXlat_ok
                | with_reducible apply flyLanes_ok | with_reducible apply prefLane_ok
                | refine xlatAll_ok2 (by with_reducible assumption) ?_
                | refine prefLane_ok2 (by with_reducible assumption) ?_ | refine OutOk.ite ?_ ?_
                | refine MemOk.ite ?_ ?_ | with_reducible apply MemOk.wf | simp only [MemOk.mk_eq] | intro _

theorem cctl_ok {s : State} {hd : Hdr} {u : Use} {ea : Wave → Nat → Nat} {acc : Wave → Nat → Access}
    {toks : Nat → Nat} {k : Ctx → State → List LaneAcc → State} (hm : MemOk s)
    (hk : ∀ y0 y1 y2, MemOk y1 → MemOk (k y0 y1 y2)) : MemOk (cctl s hd u ea acc toks k) := by
  unfold cctl
  try dsimp only
  repeat' first | with_reducible assumption | with_reducible apply issue_ok | with_reducible apply withXlat_ok
                | with_reducible apply faultWave_ok | with_reducible apply hk | refine MemOk.ite ?_ ?_
                | with_reducible apply MemOk.wf | simp only [MemOk.mk_eq] | intro _

theorem useLine_ok {s : State} {home pa hint : Nat} {b : Word} (hm : MemOk s) : MemOk (useLine s home pa hint b) := by
  unfold useLine
  try dsimp only
  repeat' first | with_reducible assumption | with_reducible apply fillLine_ok | with_reducible apply MemOk.setLine
                | refine MemOk.ite ?_ ?_

theorem execCctlUse_ok {hd : Hdr} {a : Src} {off : BitVec 24} {b : Src} {ch : CHint} {s : State} (hm : MemOk s) :
    OutOk (execCctlUse hd a off b ch s) := by
  unfold execCctlUse
  try dsimp only
  repeat' first | with_reducible assumption | with_reducible apply OutOk.next | with_reducible apply cctl_ok
                | with_reducible apply flyLanes_ok | with_reducible apply useLine_ok
                | with_reducible apply answerAt_ok | refine OutOk.ite ?_ ?_ | refine MemOk.ite ?_ ?_ | intro _

theorem execCctlL1drop_ok {hd : Hdr} {a : Src} {off : BitVec 24} {ch : CHint} {s : State} (hm : MemOk s) : OutOk
    (execCctlL1drop hd a off ch s) := by
  unfold execCctlL1drop
  try dsimp only
  repeat' first | with_reducible assumption | with_reducible apply OutOk.next | with_reducible apply cctl_ok
                | with_reducible apply l1Drop_ok | with_reducible apply MemOk.setWave
                | with_reducible apply keepResults_ok | with_reducible apply MemOk.foldl
                | with_reducible apply MemOk.foldl_fst | with_reducible apply MemOk.foldl_snd | refine OutOk.ite ?_ ?_
                | refine MemOk.ite ?_ ?_ | intro _

theorem execCctlWb_ok {hd : Hdr} {a : Src} {off : BitVec 24} {ch : CHint} {s : State} (hm : MemOk s) : OutOk
    (execCctlWb hd a off ch s) := by
  unfold execCctlWb
  try dsimp only
  repeat' first | with_reducible assumption | with_reducible apply OutOk.next | with_reducible apply cctl_ok
                | with_reducible apply cleanLine_ok | with_reducible apply MemOk.setWave
                | with_reducible apply keepResults_ok | with_reducible apply MemOk.foldl
                | with_reducible apply MemOk.foldl_fst | with_reducible apply MemOk.foldl_snd | refine OutOk.ite ?_ ?_
                | refine MemOk.ite ?_ ?_ | intro _

theorem execAtom_ok {hd : Hdr} {d : DReg} {a : Src} {off : BitVec 24} {b : Src} {ch : CHint} {aop : Aop} {ty : Ty}
    {s : State} (hm : MemOk s) : OutOk (execAtom hd d a off b ch aop ty s) := by
  unfold execAtom
  try dsimp only
  repeat' first | with_reducible assumption | with_reducible apply OutOk.next | with_reducible apply globalOp_ok
                | with_reducible apply flyLanes_ok | with_reducible apply sendReq_ok | intro _

theorem localTouch_ok {s : State} {gang core o pts : Nat} (hm : MemOk s) : MemOk (localTouch s gang core o pts).1 :=
    by
  unfold localTouch
  try dsimp only
  repeat' first | with_reducible assumption | with_reducible apply raisePts_ok | with_reducible apply MemOk.setGang

theorem localTouch_ok2 {s : State} {gang core o pts : Nat} {tt} {xx} (e : localTouch s gang core o pts = (tt, xx))
    (hm : MemOk s) : MemOk tt := by
  have h2 : MemOk (localTouch s gang core o pts).1 := localTouch_ok hm
  rw [e] at h2; exact h2

theorem localLanes_ok {f : Nat → Nat → State → State × List Word} {l : List (Nat × Nat)} {s : State} (h : MemOk s)
    (hf : ∀ i x s, MemOk s → MemOk (f i x s).1) : MemOk (localLanes f l s).1 := by
  induction l generalizing s with
  | nil => exact h
  | cons x l ih => exact ih (hf _ _ _ h)

theorem localOp_ok {s : State} {hd : Hdr} {u : Use} {n : Nat} {load reads : Bool} {regs : List Nat} {words : Nat}
    {d : DReg}
    {ea : Wave → Nat → Nat} {f : Ctx → Nat → Nat → State → State × List Word} (hm : MemOk s)
    (hf : ∀ c i x s, MemOk s → MemOk (f c i x s).1) : MemOk (localOp s hd u n load reads regs words d ea f) := by
  refine issue_ok hm fun c => ?_
  dsimp only
  repeat' first | with_reducible assumption | with_reducible apply trapCtx_ok | with_reducible apply coreTrap_ok
                | with_reducible apply keepResults_ok | with_reducible apply localLanes_ok | with_reducible apply hf | refine MemOk.ite ?_ ?_
                | intro _ | split

theorem execLdl_ok {hd : Hdr} {d : DReg} {a : Src} {off : BitVec 24} {mt : MemTy} {s : State} (hm : MemOk s) : OutOk
    (execLdl hd d a off mt s) := by
  unfold execLdl
  try dsimp only
  repeat' first | with_reducible assumption | with_reducible apply OutOk.next | with_reducible apply localOp_ok
                | with_reducible apply localTouch_ok | refine localTouch_ok2 (by with_reducible assumption) ?_
                | refine OutOk.ite ?_ ?_ | refine MemOk.ite ?_ ?_ | intro _ | split

theorem localStore_ok {s : State} {gang core o pts : Nat} {bs : List Byte} (hm : MemOk s) : MemOk
    (localStore s gang core o pts bs) := by
  unfold localStore
  try dsimp only
  repeat' first | with_reducible assumption | with_reducible apply localTouch_ok | with_reducible apply MemOk.setGang

theorem execStl_ok {hd : Hdr} {a : Src} {off : BitVec 24} {b : Src} {mt : MemTy} {s : State} (hm : MemOk s) : OutOk
    (execStl hd a off b mt s) := by
  unfold execStl
  try dsimp only
  repeat' first | with_reducible assumption | with_reducible apply OutOk.next | with_reducible apply localOp_ok
                | with_reducible apply localStore_ok | intro _

theorem execAtomLocal_ok {hd : Hdr} {d : DReg} {a : Src} {off : BitVec 24} {b : Src} {aop : Aop} {ty : Ty} {s : State}
    (hm : MemOk s) : OutOk (execAtomLocal hd d a off b aop ty s) := by
  unfold execAtomLocal
  try dsimp only
  repeat' first | with_reducible assumption | with_reducible apply OutOk.next | with_reducible apply localOp_ok
                | with_reducible apply localStore_ok | intro _

/-! ## Machine/Barriers.lean -/

theorem passBlock_ok {s : State} {c : Ctx} {hd : Hdr} {w : Wave} (hm : MemOk s) : MemOk (passBlock s c hd w) := by
  unfold passBlock
  try dsimp only
  repeat' first | with_reducible assumption | with_reducible apply finishNext_ok

theorem setPhase_ok {s : State} {k : BarKey} {p : Phase} (hm : MemOk s) : MemOk (setPhase s k p) := by
  unfold setPhase
  try dsimp only
  repeat' first | with_reducible assumption | with_reducible apply MemOk.updTeam | with_reducible apply MemOk.updGang
                | with_reducible apply MemOk.wf | simp only [MemOk.mk_eq] | intro _ | split

theorem arriveAt_ok {s : State} {k : BarKey} {id : Nat} {w : Wave} {path : LaneSet} {stages : Nat} (hm : MemOk s) :
    MemOk (arriveAt s k id w path stages) := by
  unfold arriveAt
  try dsimp only
  repeat' first | with_reducible assumption | with_reducible apply setPhase_ok

theorem releaseWave_ok {k : BarKey} {p : Phase} {s : State} {i : Nat} (hm : MemOk s) : MemOk (releaseWave k p s i) :=
    by
  unfold releaseWave
  try dsimp only
  repeat' first | with_reducible assumption | with_reducible apply MemOk.updWave | with_reducible apply wake_ok
                | with_reducible apply raisePts_ok | with_reducible apply MemOk.wf | simp only [MemOk.mk_eq] | intro _
                | split

theorem enterCarried_ok {k : BarKey} {n : List Nat} {s : State} (hm : MemOk s) : MemOk (enterCarried k n s) := by
  induction n generalizing s with
  | nil => exact hm
  | cons x n ih =>
    unfold enterCarried
    try simp only [State.free_eq]
    repeat' first | with_reducible assumption | with_reducible apply MemOk.updWave | with_reducible apply takeTrap_ok
                  | with_reducible apply arriveAt_ok | with_reducible apply wake_ok | with_reducible apply ih
                  | refine MemOk.ite ?_ ?_ | with_reducible apply MemOk.wf | simp only [MemOk.mk_eq] | intro _ | split

theorem releaseRoller_ok {s : State} {k : BarKey} {p : Phase} (hm : MemOk s) : MemOk (releaseRoller s k p) := by
  unfold releaseRoller
  try dsimp only
  repeat' first | with_reducible assumption | with_reducible apply raisePts_ok | with_reducible apply MemOk.updTeam
                | refine MemOk.ite ?_ ?_ | with_reducible apply MemOk.wf | simp only [MemOk.mk_eq] | intro _ | split

theorem releaseBar_ok {k : BarKey} {n : Nat} {s : State} (hm : MemOk s) : MemOk (releaseBar k n s) := by
  induction n generalizing s with
  | zero => exact hm
  | succ n ih =>
    unfold releaseBar
    try simp only [State.free_eq]
    repeat' first | with_reducible assumption | with_reducible apply setPhase_ok | with_reducible apply releaseWave_ok
                  | with_reducible apply releaseRoller_ok | with_reducible apply enterCarried_ok
                  | with_reducible apply MemOk.foldl | with_reducible apply MemOk.foldl_fst
                  | with_reducible apply MemOk.foldl_snd | with_reducible apply ih | refine MemOk.ite ?_ ?_

theorem recheckBars_ok {s : State} {t : Nat} (hm : MemOk s) : MemOk (recheckBars s t) := by
  unfold recheckBars
  try dsimp only
  repeat' first | with_reducible assumption | with_reducible apply releaseBar_ok | with_reducible apply MemOk.foldl
                | with_reducible apply MemOk.foldl_fst | with_reducible apply MemOk.foldl_snd | intro _

theorem barrier_ok {s : State} {hd : Hdr} {u : Use} {key : Wave → BarKey} {stages : Nat} {arrive : Bool}
    (hm : MemOk s) : MemOk (barrier s hd u key stages arrive) := by
  unfold barrier
  try dsimp only
  repeat' first | with_reducible assumption | with_reducible apply issueWide_ok | with_reducible apply finishNext_ok
                | with_reducible apply trapCtx_ok | with_reducible apply block_ok | with_reducible apply setPhase_ok
                | with_reducible apply arriveAt_ok | with_reducible apply releaseBar_ok
                | with_reducible apply passBlock_ok | refine arrive_ok (by with_reducible assumption) ?_
                | refine MemOk.ite ?_ ?_ | with_reducible apply MemOk.wf | simp only [MemOk.mk_eq] | intro _

theorem execBar_ok {hd : Hdr} {bn : BitVec 4} {stages : BitVec 4} {arrive : Bool} {s : State} (hm : MemOk s) : OutOk
    (execBar hd bn stages arrive s) := by
  unfold execBar
  try dsimp only
  repeat' first | with_reducible assumption | with_reducible apply OutOk.next | with_reducible apply barrier_ok

theorem execGbar_ok {hd : Hdr} {bn : BitVec 2} {stages : BitVec 4} {arrive : Bool} {s : State} (hm : MemOk s) : OutOk
    (execGbar hd bn stages arrive s) := by
  unfold execGbar
  try dsimp only
  repeat' first | with_reducible assumption | with_reducible apply OutOk.next | with_reducible apply barrier_ok

theorem grantClaims_ok {t : Nat} {n : Nat} {s : State} (hm : MemOk s) : MemOk (grantClaims t n s) := by
  induction n generalizing s with
  | zero => exact hm
  | succ n ih =>
    unfold grantClaims
    try simp only [State.free_eq]
    repeat' first | with_reducible assumption | with_reducible apply MemOk.updTeam
                  | with_reducible apply MemOk.updWave | with_reducible apply wake_ok | with_reducible apply ih
                  | with_reducible apply MemOk.wf | simp only [MemOk.mk_eq] | intro _ | split

theorem execClaim_ok {hd : Hdr} {n : BitVec 5} {s : State} (hm : MemOk s) : OutOk (execClaim hd n s) := by
  unfold execClaim
  try dsimp only
  repeat' first | with_reducible assumption | with_reducible apply OutOk.next | with_reducible apply issueWide_ok
                | with_reducible apply finishNext_ok | with_reducible apply trapCtx_ok
                | with_reducible apply MemOk.updTeam | with_reducible apply grantClaims_ok
                | with_reducible apply block_ok | refine OutOk.ite ?_ ?_ | refine MemOk.ite ?_ ?_
                | with_reducible apply MemOk.wf | simp only [MemOk.mk_eq] | intro _

theorem execRelease_ok {hd : Hdr} {n : BitVec 5} {s : State} (hm : MemOk s) : OutOk (execRelease hd n s) := by
  unfold execRelease
  try dsimp only
  repeat' first | with_reducible assumption | with_reducible apply OutOk.next | with_reducible apply issueWide_ok
                | with_reducible apply finishNext_ok | with_reducible apply trapCtx_ok
                | with_reducible apply MemOk.updTeam | with_reducible apply grantClaims_ok | refine OutOk.ite ?_ ?_
                | refine MemOk.ite ?_ ?_ | with_reducible apply MemOk.wf | simp only [MemOk.mk_eq] | intro _ | split

theorem fenceDrop_ok {id t : Nat} {s : State} {i : Nat} (hm : MemOk s) : MemOk (fenceDrop id t s i) := by
  unfold fenceDrop
  try dsimp only
  repeat' first | with_reducible assumption | with_reducible apply wake_ok | with_reducible apply raisePts_ok
                | with_reducible apply MemOk.updWave | refine MemOk.ite ?_ ?_ | with_reducible apply MemOk.wf
                | simp only [MemOk.mk_eq] | intro _ | split

theorem waitcDone_ok {s : State} {i : Nat} (hm : MemOk s) : MemOk (waitcDone s i) := by
  unfold waitcDone
  try dsimp only
  repeat' first | with_reducible assumption | with_reducible apply wake_ok | refine MemOk.ite ?_ ?_
                | with_reducible apply MemOk.wf | simp only [MemOk.mk_eq] | intro _ | split

theorem retirePts_ok {s : State} {w : Wave} {t : Nat} (hm : MemOk s) : MemOk (retirePts s w t) := by
  unfold retirePts
  try dsimp only
  repeat' first | with_reducible assumption | with_reducible apply raisePts_ok | with_reducible apply MemOk.updTeam
                | with_reducible apply MemOk.wf | simp only [MemOk.mk_eq] | intro _ | split

theorem retireWave_ok {s : State} {i : Nat} (hm : MemOk s) : MemOk (retireWave s i) := by
  unfold retireWave
  try dsimp only
  repeat' first | with_reducible assumption | with_reducible apply MemOk.updWave | with_reducible apply waitcDone_ok
                | with_reducible apply retirePts_ok | refine MemOk.ite ?_ ?_

theorem completeOp_ok {s : State} {id t : Nat} (hm : MemOk s) : MemOk (completeOp s id t) := by
  unfold completeOp
  try dsimp only
  repeat' first | with_reducible assumption | with_reducible apply MemOk.updWave | with_reducible apply fenceDrop_ok
                | with_reducible apply retireWave_ok | with_reducible apply MemOk.foldl
                | with_reducible apply MemOk.foldl_fst | with_reducible apply MemOk.foldl_snd | refine MemOk.ite ?_ ?_
                | with_reducible apply MemOk.wf | simp only [MemOk.mk_eq] | intro _

theorem dropOp_ok {s : State} {id : Nat} (hm : MemOk s) : MemOk (dropOp s id) := by
  unfold dropOp
  try dsimp only
  repeat' first | with_reducible assumption | with_reducible apply fenceDrop_ok | with_reducible apply MemOk.foldl
                | with_reducible apply MemOk.foldl_fst | with_reducible apply MemOk.foldl_snd
                | with_reducible apply MemOk.wf | simp only [MemOk.mk_eq]

theorem execWaitc_ok {hd : Hdr} {cls : Cls} {n : BitVec 6} {s : State} (hm : MemOk s) : OutOk (execWaitc hd cls n s)
    := by
  unfold execWaitc
  try dsimp only
  repeat' first | with_reducible assumption | with_reducible apply OutOk.next | with_reducible apply issue_ok
                | with_reducible apply finishNext_ok | with_reducible apply passBlock_ok
                | with_reducible apply block_ok | refine OutOk.ite ?_ ?_ | refine MemOk.ite ?_ ?_ | intro _

theorem execFence_ok {hd : Hdr} {agent : Agent} {sp : Spaces} {s : State} (hm : MemOk s) : OutOk
    (execFence hd agent sp s) := by
  unfold execFence
  try dsimp only
  repeat' first | with_reducible assumption | with_reducible apply OutOk.next | with_reducible apply issue_ok
                | with_reducible apply finishNext_ok | with_reducible apply passBlock_ok
                | with_reducible apply block_ok | refine OutOk.ite ?_ ?_ | refine MemOk.ite ?_ ?_ | intro _

theorem setKept_ok {s : State} {fid : Nat} {x : Word} (hm : MemOk s) : MemOk (setKept s fid x) := by
  unfold setKept
  try dsimp only
  repeat' first | with_reducible assumption | with_reducible apply MemOk.wf | simp only [MemOk.mk_eq]

theorem hwaitEnd_ok {s : State} {i : Nat} (hm : MemOk s) : MemOk (hwaitEnd s i) := by
  unfold hwaitEnd
  try dsimp only
  repeat' first | with_reducible assumption | with_reducible apply setKept_ok | with_reducible apply wake_ok
                | with_reducible apply raisePts_ok | refine MemOk.ite ?_ ?_ | with_reducible apply MemOk.wf
                | simp only [MemOk.mk_eq] | intro _ | split

theorem recheckHandles_ok {s : State} {t : Nat} (hm : MemOk s) : MemOk (recheckHandles s t) := by
  unfold recheckHandles
  try dsimp only
  repeat' first | with_reducible assumption | with_reducible apply hwaitEnd_ok | with_reducible apply MemOk.foldl

theorem hwait_ok {s : State} {hd : Hdr} {u : Use} {n : Nat} {full : Bool} {d : DReg} (hm : MemOk s) : MemOk
    (hwait s hd u n full d) := by
  unfold hwait
  try dsimp only
  repeat' first | with_reducible assumption | with_reducible apply issue_ok | with_reducible apply finishNext_ok
                | with_reducible apply trapCtx_ok | with_reducible apply startFlight_ok
                | with_reducible apply setKept_ok | with_reducible apply passBlock_ok
                | with_reducible apply raisePts_ok | with_reducible apply block_ok
                | refine startFlight_ok2 (by with_reducible assumption) ?_ | refine MemOk.ite ?_ ?_
                | with_reducible apply MemOk.wf | simp only [MemOk.mk_eq] | intro _

theorem execHwaitFull_ok {hd : Hdr} {d : DReg} {hnd : BitVec 6} {s : State} (hm : MemOk s) : OutOk
    (execHwaitFull hd d hnd s) := by
  unfold execHwaitFull
  try dsimp only
  repeat' first | with_reducible assumption | with_reducible apply OutOk.next | with_reducible apply hwait_ok

theorem execHwaitFree_ok {hd : Hdr} {hnd : BitVec 6} {s : State} (hm : MemOk s) : OutOk (execHwaitFree hd hnd s) := by
  unfold execHwaitFree
  try dsimp only
  repeat' first | with_reducible assumption | with_reducible apply OutOk.next | with_reducible apply hwait_ok

theorem execHrel_ok {hd : Hdr} {hnd : BitVec 6} {s : State} (hm : MemOk s) : OutOk (execHrel hd hnd s) := by
  unfold execHrel
  simp only [State.free_eq]
  repeat' first | with_reducible assumption | with_reducible apply OutOk.next | with_reducible apply issue_ok
                | with_reducible apply finishNext_ok | with_reducible apply trapCtx_ok
                | with_reducible apply recheckHandles_ok | with_reducible apply MemOk.updTeam
                | with_reducible apply MemOk.afterFree | refine OutOk.ite ?_ ?_ | refine MemOk.ite ?_ ?_
                | with_reducible apply MemOk.wf | simp only [MemOk.mk_eq] | intro _

theorem wakeLow_ok {s : State} {part : Nat} (hm : MemOk s) : MemOk (wakeLow s part) := by
  unfold wakeLow
  try dsimp only
  repeat' first | with_reducible assumption | with_reducible apply wake_ok | with_reducible apply setKept_ok
                | with_reducible apply MemOk.foldl | with_reducible apply MemOk.foldl_fst
                | with_reducible apply MemOk.foldl_snd | refine MemOk.ite ?_ ?_ | with_reducible apply MemOk.wf
                | simp only [MemOk.mk_eq] | intro _ | split

theorem snapDrop_ok {s : State} {part slot : Nat} (hm : MemOk s) : MemOk (snapDrop s part slot) := by
  unfold snapDrop
  try dsimp only
  repeat' first | with_reducible assumption | with_reducible apply wakeLow_ok | with_reducible apply MemOk.updPart
                | refine MemOk.ite ?_ ?_ | with_reducible apply MemOk.wf | simp only [MemOk.mk_eq] | intro _ | split

theorem closeCursor_ok {s : State} {id lane cur : Nat} (hm : MemOk s) : MemOk (closeCursor s id lane cur) := by
  unfold closeCursor
  try dsimp only
  repeat' first | with_reducible assumption | with_reducible apply snapDrop_ok | with_reducible apply MemOk.updWave
                | with_reducible apply MemOk.wf | simp only [MemOk.mk_eq] | intro _ | split

theorem closeLanes_ok {s : State} {id : Nat} {m : LaneSet} (hm : MemOk s) : MemOk (closeLanes s id m) := by
  unfold closeLanes
  try dsimp only
  repeat' first | with_reducible assumption | with_reducible apply closeCursor_ok | with_reducible apply MemOk.foldl
                | with_reducible apply MemOk.foldl_fst | with_reducible apply MemOk.foldl_snd | intro _

/-! ## Machine/Accum.lean -/

theorem opStamp_ok {s : State} {t : Nat} {op : Nat × Nat} (hm : MemOk s) : MemOk (opStamp s t op) := by
  unfold opStamp
  try dsimp only
  repeat' first | with_reducible assumption | with_reducible apply MemOk.updWave

theorem opsEnd_ok {s : State} {ops : List (Nat × Nat)} (hm : MemOk s) : MemOk (opsEnd s ops) := by
  unfold opsEnd
  try dsimp only
  repeat' first | with_reducible assumption | with_reducible apply completeOp_ok | with_reducible apply MemOk.foldl
                | with_reducible apply MemOk.foldl_fst | with_reducible apply MemOk.foldl_snd | refine MemOk.ite ?_ ?_
                | intro _

theorem execAcc_ok {hd : Hdr} {a : Src} {off : BitVec 24} {b : Src} {ch : CHint} {aop : AccOp} {ty : Ty} {s : State}
    (hm : MemOk s) : OutOk (execAcc hd a off b ch aop ty s) := by
  unfold execAcc
  simp only [State.newId_eq]
  repeat' first | with_reducible assumption | with_reducible apply OutOk.next | with_reducible apply issue_ok
                | with_reducible apply trapCtx_ok | with_reducible apply withXlat_ok
                | with_reducible apply finishNext_ok | with_reducible apply MemOk.updCluster
                | with_reducible apply sendReq_ok | with_reducible apply MemOk.afterId
                | with_reducible apply MemOk.foldl | with_reducible apply MemOk.foldl_fst
                | with_reducible apply MemOk.foldl_snd | refine OutOk.ite ?_ ?_ | refine MemOk.ite ?_ ?_
                | with_reducible apply MemOk.wf | simp only [MemOk.mk_eq] | intro _ | split

theorem dueResid_ok {s : State} {cluster : Nat} {p : ResEnt → Bool} (hm : MemOk s) : MemOk (dueResid s cluster p) :=
    by
  unfold dueResid
  try dsimp only
  repeat' first | with_reducible assumption | with_reducible apply MemOk.updCluster

theorem dueComb_ok {s : State} {cluster part : Nat} (hm : MemOk s) : MemOk (dueComb s cluster part) := by
  unfold dueComb
  try dsimp only
  repeat' first | with_reducible assumption | with_reducible apply MemOk.updCluster

theorem flushCluster_ok {s : State} {cluster part : Nat} (hm : MemOk s) : MemOk (flushCluster s cluster part) := by
  unfold flushCluster
  try dsimp only
  repeat' first | with_reducible assumption | with_reducible apply dueComb_ok | with_reducible apply dueResid_ok

theorem markWaits_ok {s : State} {cluster part : Nat} {op : Nat × Nat} {mine : List (Nat × Nat) → Bool} (hm : MemOk s)
    : MemOk (markWaits s cluster part op mine) := by
  unfold markWaits
  try dsimp only
  repeat' first | with_reducible assumption | with_reducible apply MemOk.updCluster | refine MemOk.ite ?_ ?_
                | with_reducible apply MemOk.wf | simp only [MemOk.mk_eq]

theorem execFlushres_ok {hd : Hdr} {s : State} (hm : MemOk s) : OutOk (execFlushres hd s) := by
  unfold execFlushres
  simp only [State.newId_eq]
  repeat' first | with_reducible assumption | with_reducible apply OutOk.next | with_reducible apply issue_ok
                | with_reducible apply finishNext_ok | with_reducible apply markWaits_ok
                | with_reducible apply flushCluster_ok | with_reducible apply opsEnd_ok
                | with_reducible apply MemOk.afterId | refine OutOk.ite ?_ ?_ | refine MemOk.ite ?_ ?_ | intro _

theorem execCombiningEntryAge_ok {cluster ent : Nat} {s : State} (hm : MemOk s) : OutOk
    (execCombiningEntryAge cluster ent s) := by
  unfold execCombiningEntryAge
  try dsimp only
  repeat' first | with_reducible assumption | with_reducible apply OutOk.next | with_reducible apply MemOk.updCluster
                | refine OutOk.ite ?_ ?_ | refine MemOk.ite ?_ ?_ | with_reducible apply MemOk.wf
                | simp only [MemOk.mk_eq] | intro _ | split

theorem execResidualAgeExpiry_ok {cluster slot : Nat} {s : State} (hm : MemOk s) : OutOk
    (execResidualAgeExpiry cluster slot s) := by
  unfold execResidualAgeExpiry
  try dsimp only
  repeat' first | with_reducible assumption | with_reducible apply OutOk.next | with_reducible apply dueResid_ok
                | refine OutOk.ite ?_ ?_ | refine MemOk.ite ?_ ?_ | with_reducible apply MemOk.wf
                | simp only [MemOk.mk_eq] | intro _ | split

theorem accSend_ok {s : State} {cluster : Nat} {k : AccKey} {home : Nat} {words : List AccWord} {pts hint : Nat}
    {waits flush : List (Nat × Nat)} {deliver : Bool} (hm : MemOk s) : MemOk
    (accSend s cluster k home words pts hint waits flush deliver) := by
  unfold accSend
  simp only [State.newId_eq]
  repeat' first | with_reducible assumption | with_reducible apply newToken_ok | with_reducible apply MemOk.setCluster
                | with_reducible apply MemOk.updPart | with_reducible apply MemOk.afterId
                | with_reducible apply MemOk.foldl | with_reducible apply MemOk.foldl_fst
                | with_reducible apply MemOk.foldl_snd | refine newToken_ok2 (by with_reducible assumption) ?_
                | refine MemOk.ite ?_ ?_ | with_reducible apply MemOk.wf | simp only [MemOk.mk_eq]

theorem execAccRequestSend_ok {cluster ent : Nat} {s : State} (hm : MemOk s) : OutOk
    (execAccRequestSend cluster ent s) := by
  unfold execAccRequestSend
  try dsimp only
  repeat' first | with_reducible assumption | with_reducible apply OutOk.next | with_reducible apply accSend_ok
                | with_reducible apply MemOk.updCluster | refine OutOk.ite ?_ ?_ | refine MemOk.ite ?_ ?_
                | with_reducible apply MemOk.wf | simp only [MemOk.mk_eq] | intro _ | split

theorem execResidualDelivery_ok {cluster slot : Nat} {s : State} (hm : MemOk s) : OutOk
    (execResidualDelivery cluster slot s) := by
  unfold execResidualDelivery
  try dsimp only
  repeat' first | with_reducible assumption | with_reducible apply OutOk.next | with_reducible apply accSend_ok
                | refine OutOk.ite ?_ ?_ | refine MemOk.ite ?_ ?_ | with_reducible apply MemOk.wf
                | simp only [MemOk.mk_eq] | intro _ | split

theorem accEnqueue_ok {s : State} {id : Nat} {r : AccReq} (hm : MemOk s) : MemOk (accEnqueue s id r) := by
  unfold accEnqueue
  try dsimp only
  repeat' first | with_reducible assumption | with_reducible apply charge_ok | refine MemOk.ite ?_ ?_
                | with_reducible apply MemOk.wf | simp only [MemOk.mk_eq]

theorem execHomeAccumulate_ok {areq : Nat} {s : State} (hm : MemOk s) : OutOk (execHomeAccumulate areq s) := by
  unfold execHomeAccumulate
  try dsimp only
  repeat' first | with_reducible assumption | with_reducible apply OutOk.next | with_reducible apply fillLine_ok
                | with_reducible apply accEnqueue_ok | with_reducible apply MemOk.setLine | refine OutOk.ite ?_ ?_
                | refine MemOk.ite ?_ ?_ | with_reducible apply MemOk.wf | simp only [MemOk.mk_eq] | intro _ | split

theorem accPerform_ok {s : State} {id : Nat} {r : AccReq} {tt} (e : accPerform s id r = some tt) (hm : MemOk s) :
    MemOk tt := by
  unfold accPerform at e
  try dsimp only at e
  repeat' first | (simp only [reduceCtorEq] at e; done)
                | (simp only [Except.ok.injEq, Option.some.injEq, Prod.mk.injEq] at e; obtain rfl := e) | split at e
  all_goals repeat' first | with_reducible assumption | with_reducible apply gridTop_ok
                          | with_reducible apply MemOk.stir | refine homeWriteAt_ok (by with_reducible assumption) ?_
                          | refine MemOk.ite ?_ ?_ | with_reducible apply MemOk.wf | simp only [MemOk.mk_eq]

theorem serveQueue_ok {s : State} {l : List Nat} (h : MemOk s) : MemOk (serveQueue s l).2 := by
  cases l with
  | nil => exact h
  | cons i q =>
    simp only [serveQueue]
    cases tget s.areqs i with
    | none => exact h
    | some r =>
      cases e : accPerform s i r with
      | none => simpa [e] using h
      | some t => simpa [e] using accPerform_ok e h
theorem serveQueue_ok2 {s : State} {l : List Nat} {t x} (e : serveQueue s l = (x, t)) (h : MemOk s) : MemOk t := by
  have h2 := serveQueue_ok (l := l) h
  rw [e] at h2; exact h2

theorem execAccUnitPerform_ok {home : Nat} {s : State} (hm : MemOk s) : OutOk (execAccUnitPerform home s) := by
  unfold execAccUnitPerform
  try dsimp only
  repeat' first | with_reducible assumption | with_reducible apply OutOk.next | with_reducible apply serveQueue_ok
                | refine serveQueue_ok2 (by with_reducible assumption) ?_ | refine OutOk.ite ?_ ?_
                | refine MemOk.ite ?_ ?_ | with_reducible apply MemOk.wf | simp only [MemOk.mk_eq]

theorem execMustAcceptService_ok {home cluster : Nat} {s : State} (hm : MemOk s) : OutOk
    (execMustAcceptService home cluster s) := by
  unfold execMustAcceptService
  try dsimp only
  repeat' first | with_reducible assumption | with_reducible apply OutOk.next | with_reducible apply serveQueue_ok
                | refine serveQueue_ok2 (by with_reducible assumption) ?_ | with_reducible apply MemOk.wf
                | simp only [MemOk.mk_eq]

theorem trimResid_ok {cluster : Nat} {n : Nat} {s : State} (hm : MemOk s) : MemOk (trimResid cluster n s) := by
  induction n generalizing s with
  | zero => exact hm
  | succ n ih =>
    unfold trimResid
    try simp only [State.free_eq]
    repeat' first | with_reducible assumption | with_reducible apply dueResid_ok | with_reducible apply ih
                  | refine MemOk.ite ?_ ?_ | with_reducible apply MemOk.wf | simp only [MemOk.mk_eq] | intro _ | split

theorem accDone_ok {s : State} {id : Nat} {r : AccReq} (hm : MemOk s) : MemOk (accDone s id r) := by
  unfold accDone
  try dsimp only
  repeat' first | with_reducible assumption | with_reducible apply consumeToken_ok | with_reducible apply MemOk.wf
                | simp only [MemOk.mk_eq]

theorem accReply_ok {s : State} {id : Nat} {r : AccReq} {stage : Nat} {k : State → State} (hm : MemOk s)
    (hk : ∀ y0, MemOk y0 → MemOk (k y0)) : MemOk (accReply s id r stage k) := by
  unfold accReply
  try dsimp only
  repeat' first | with_reducible assumption | with_reducible apply accDone_ok | with_reducible apply hk
                | refine MemOk.ite ?_ ?_

theorem execAccAccepted_ok {areq : Nat} {s : State} (hm : MemOk s) : OutOk (execAccAccepted areq s) := by
  unfold execAccAccepted
  try dsimp only
  repeat' first | with_reducible assumption | with_reducible apply OutOk.next | with_reducible apply accReply_ok
                | with_reducible apply accDone_ok | with_reducible apply MemOk.updCluster
                | with_reducible apply opsEnd_ok | with_reducible apply opStamp_ok | with_reducible apply MemOk.foldl
                | with_reducible apply MemOk.foldl_fst | with_reducible apply MemOk.foldl_snd
                | with_reducible apply MemOk.wf | simp only [MemOk.mk_eq] | intro _ | split

theorem accReturn_ok {s : State} {id : Nat} {r : AccReq} {count : Bool} (hm : MemOk s) : MemOk
    (accReturn s id r count) := by
  unfold accReturn
  try dsimp only
  repeat' first | with_reducible assumption | with_reducible apply accDone_ok | with_reducible apply MemOk.updCluster
                | with_reducible apply trimResid_ok | with_reducible apply opsEnd_ok
                | with_reducible apply MemOk.foldl | with_reducible apply MemOk.foldl_fst
                | with_reducible apply MemOk.foldl_snd | refine MemOk.ite ?_ ?_

theorem execAccRefused_ok {areq : Nat} {s : State} (hm : MemOk s) : OutOk (execAccRefused areq s) := by
  unfold execAccRefused
  try dsimp only
  repeat' first | with_reducible assumption | with_reducible apply OutOk.next | with_reducible apply accReply_ok
                | with_reducible apply accReturn_ok | with_reducible apply MemOk.updPart
                | with_reducible apply MemOk.wf | simp only [MemOk.mk_eq] | intro _ | split

theorem execWriteReply_ok {rep : Nat} {s : State} (hm : MemOk s) : OutOk (execWriteReply rep s) := by
  unfold execWriteReply
  try dsimp only
  repeat' first | with_reducible assumption | with_reducible apply OutOk.next | with_reducible apply opsEnd_ok
                | with_reducible apply consumeToken_ok | with_reducible apply staleReply_ok
                | with_reducible apply replyEvent_ok | refine OutOk.ite ?_ ?_ | refine MemOk.ite ?_ ?_
                | with_reducible apply MemOk.wf | simp only [MemOk.mk_eq] | intro _ | split

/-! ## Machine/Control.lean -/

theorem execBra_ok {hd : Hdr} {off : Word} {s : State} (hm : MemOk s) : OutOk (execBra hd off s) := by
  unfold execBra
  try dsimp only
  repeat' first | with_reducible assumption | with_reducible apply OutOk.next | with_reducible apply issue_ok
                | with_reducible apply trapCtx_ok | with_reducible apply finish_ok | refine OutOk.ite ?_ ?_
                | refine MemOk.ite ?_ ?_ | intro _

theorem execBrx_ok {hd : Hdr} {a : Src} {s : State} (hm : MemOk s) : OutOk (execBrx hd a s) := by
  unfold execBrx
  try dsimp only
  repeat' first | with_reducible assumption | with_reducible apply OutOk.next | with_reducible apply issue_ok
                | with_reducible apply trapCtx_ok | with_reducible apply finish_ok | with_reducible apply MemOk.wf
                | simp only [MemOk.mk_eq] | intro _ | split

theorem execCall_ok {hd : Hdr} {off : Word} {s : State} (hm : MemOk s) : OutOk (execCall hd off s) := by
  unfold execCall
  try dsimp only
  repeat' first | with_reducible assumption | with_reducible apply OutOk.next | with_reducible apply issue_ok
                | with_reducible apply trapCtx_ok | with_reducible apply withXlat_ok | with_reducible apply finish_ok
                | with_reducible apply startFlight_ok | with_reducible apply sendReq_ok
                | with_reducible apply MemOk.setWave | with_reducible apply MemOk.foldl
                | with_reducible apply MemOk.foldl_fst | with_reducible apply MemOk.foldl_snd
                | refine startFlight_ok2 (by with_reducible assumption) ?_ | refine OutOk.ite ?_ ?_
                | refine MemOk.ite ?_ ?_ | with_reducible apply MemOk.wf | simp only [MemOk.mk_eq] | intro _ | split

theorem execRet_ok {hd : Hdr} {s : State} (hm : MemOk s) : OutOk (execRet hd s) := by
  unfold execRet
  try dsimp only
  repeat' first | with_reducible assumption | with_reducible apply OutOk.next | with_reducible apply issue_ok
                | with_reducible apply trapCtx_ok | with_reducible apply finish_ok | with_reducible apply withXlat_ok
                | with_reducible apply finishNext_ok | with_reducible apply startFlight_ok
                | with_reducible apply sendLanes_ok | with_reducible apply loadLane_ok
                | with_reducible apply MemOk.setWave | refine startFlight_ok2 (by with_reducible assumption) ?_
                | refine sendLanes_ok2 (by with_reducible assumption) ?_
                | refine loadLane_ok2 (by with_reducible assumption) ?_ | refine OutOk.ite ?_ ?_
                | refine MemOk.ite ?_ ?_ | with_reducible apply MemOk.wf | simp only [MemOk.mk_eq] | intro _ | split

theorem afterExit_ok {s : State} {id : Nat} (hm : MemOk s) : MemOk (afterExit s id) := by
  unfold afterExit
  try dsimp only
  repeat' first | with_reducible assumption | with_reducible apply recheckBars_ok
                | with_reducible apply convDeadlock_ok | refine MemOk.ite ?_ ?_

theorem execExit_ok {hd : Hdr} {s : State} (hm : MemOk s) : OutOk (execExit hd s) := by
  unfold execExit
  try dsimp only
  repeat' first | with_reducible assumption | with_reducible apply OutOk.next | with_reducible apply issue_ok
                | with_reducible apply finishNext_ok | with_reducible apply afterExit_ok
                | with_reducible apply closeLanes_ok | refine OutOk.ite ?_ ?_ | refine MemOk.ite ?_ ?_
                | with_reducible apply MemOk.wf | simp only [MemOk.mk_eq] | intro _

theorem execConv_ok {hd : Hdr} {m : MaskSrc} {s : State} (hm : MemOk s) : OutOk (execConv hd m s) := by
  unfold execConv
  try dsimp only
  repeat' first | with_reducible assumption | with_reducible apply OutOk.next | with_reducible apply issueWide_ok
                | with_reducible apply finishNext_ok | intro _

theorem execYield_ok {hd : Hdr} {s : State} (hm : MemOk s) : OutOk (execYield hd s) := by
  unfold execYield
  try dsimp only
  repeat' first | with_reducible assumption | with_reducible apply OutOk.next | with_reducible apply issue_ok
                | with_reducible apply finishNext_ok | with_reducible apply MemOk.updWave | refine OutOk.ite ?_ ?_
                | refine MemOk.ite ?_ ?_ | with_reducible apply MemOk.wf | simp only [MemOk.mk_eq] | intro _

theorem execNop_ok {hd : Hdr} {s : State} (hm : MemOk s) : OutOk (execNop hd s) := by
  unfold execNop
  try dsimp only
  repeat' first | with_reducible assumption | with_reducible apply OutOk.next | with_reducible apply issue_ok
                | with_reducible apply finishNext_ok | intro _

/-! ## Machine/Convert.lean -/

theorem execCvt_ok {hd : Hdr} {d : Dst} {a : Src} {rm : Rm} {ftz sat : Bool} {sty ty : Ty} {s : State} (hm : MemOk s)
    : OutOk (execCvt hd d a rm ftz sat sty ty s) := by
  unfold execCvt
  try dsimp only
  repeat' first | with_reducible assumption | with_reducible apply OutOk.next | with_reducible apply faluW_ok

theorem fmtAlu_ok {s : State} {hd : Hdr} {u : Use} {d : Dst} {n : BitVec 3} {ok : NFmt → Bool}
    {f : NFmt → Wave → Nat → FRes} (hm : MemOk s) : MemOk (fmtAlu s hd u d n ok f) := by
  unfold fmtAlu
  try dsimp only
  repeat' first | with_reducible assumption | with_reducible apply issue_ok | with_reducible apply finishNext_ok
                | with_reducible apply trapCtx_ok | refine MemOk.ite ?_ ?_ | intro _

theorem execCvtn_ok {hd : Hdr} {d : Dst} {a : Src} {elem : BitVec 3} {rm : Rm} {freg : BitVec 3} {fromN : Bool}
    {ty : Ty} {s : State} (hm : MemOk s) : OutOk (execCvtn hd d a elem rm freg fromN ty s) := by
  unfold execCvtn
  try dsimp only
  repeat' first | with_reducible assumption | with_reducible apply OutOk.next | with_reducible apply fmtAlu_ok

theorem execCvtef_ok {hd : Hdr} {d : Dst} {a : Src} {r : BitVec 8} {elem : BitVec 3} {freg : BitVec 3} {ty : Ty}
    {s : State} (hm : MemOk s) : OutOk (execCvtef hd d a r elem freg ty s) := by
  unfold execCvtef
  try dsimp only
  repeat' first | with_reducible assumption | with_reducible apply OutOk.next | with_reducible apply issue_ok
                | with_reducible apply trapCtx_ok | with_reducible apply finishNext_ok | refine OutOk.ite ?_ ?_
                | refine MemOk.ite ?_ ?_ | intro _

theorem execCvtw_ok {hd : Hdr} {d : Dst} {a : Src} {elem : BitVec 3} {rm : Rm} {freg : BitVec 3} {ty : Ty} {s : State}
    (hm : MemOk s) : OutOk (execCvtw hd d a elem rm freg ty s) := by
  unfold execCvtw
  try dsimp only
  repeat' first | with_reducible assumption | with_reducible apply OutOk.next | with_reducible apply fmtAlu_ok

theorem execPack_ok {hd : Hdr} {d : Dst} {a b : Src} {rm : Rm} {ftz : Bool} {ty : Ty} {s : State} (hm : MemOk s) :
    OutOk (execPack hd d a b rm ftz ty s) := by
  unfold execPack
  try dsimp only
  repeat' first | with_reducible assumption | with_reducible apply OutOk.next | with_reducible apply falu_ok

theorem execUnpack_ok {hd : Hdr} {d : Dst} {a : Src} {ftz : Bool} {ty : Ty} {s : State} (hm : MemOk s) : OutOk
    (execUnpack hd d a ftz ty s) := by
  unfold execUnpack
  try dsimp only
  repeat' first | with_reducible assumption | with_reducible apply OutOk.next | with_reducible apply falu2_ok

theorem execBscale_ok {hd : Hdr} {d : Dst} {a b : Src} {freg : BitVec 3} {mode : BsMode} {s : State} (hm : MemOk s) :
    OutOk (execBscale hd d a b freg mode s) := by
  unfold execBscale
  try dsimp only
  repeat' first | with_reducible assumption | with_reducible apply OutOk.next | with_reducible apply fmtAlu_ok
                | with_reducible apply falu_ok | with_reducible apply MemOk.wf | simp only [MemOk.mk_eq] | intro _
                | split

/-! ## Machine/Sync.lean -/

theorem execMwait_ok {hd : Hdr} {d : DReg} {a : Src} {off : BitVec 24} {b : Src} {ch : CHint} {cmp : Cmp} {ty : Ty}
    {s : State} (hm : MemOk s) : OutOk (execMwait hd d a off b ch cmp ty s) := by
  unfold execMwait
  try dsimp only
  repeat' first | with_reducible assumption | with_reducible apply OutOk.next | with_reducible apply globalOp_ok
                | with_reducible apply finishNext_ok | with_reducible apply startFlight_ok
                | with_reducible apply sendReq_ok | with_reducible apply block_ok | with_reducible apply MemOk.foldl
                | with_reducible apply MemOk.foldl_fst | with_reducible apply MemOk.foldl_snd
                | refine startFlight_ok2 (by with_reducible assumption) ?_ | refine OutOk.ite ?_ ?_
                | refine MemOk.ite ?_ ?_ | with_reducible apply MemOk.wf | simp only [MemOk.mk_eq] | intro _

theorem addMonitor_ok {s : State} {id : Nat} {r : Req} (hm : MemOk s) : MemOk (addMonitor s id r) := by
  unfold addMonitor
  simp only [State.newId_eq]
  repeat' first | with_reducible assumption | with_reducible apply MemOk.afterId | refine MemOk.ite ?_ ?_
                | with_reducible apply MemOk.wf | simp only [MemOk.mk_eq]

theorem mwaitTake_ok {o : ReadOut} {watch : Bool} {s : State} {id : Nat} (hm : MemOk s) : MemOk
    (mwaitTake o watch s id) := by
  unfold mwaitTake
  try dsimp only
  repeat' first | with_reducible assumption | with_reducible apply sendReply_ok | with_reducible apply setReq_ok
                | with_reducible apply addMonitor_ok | refine MemOk.ite ?_ ?_ | with_reducible apply MemOk.wf
                | simp only [MemOk.mk_eq] | intro _ | split

theorem mwaitRead_ok {s : State} {id : Nat} {r : Req} {watch : Bool} (hm : MemOk s) : MemOk (mwaitRead s id r watch)
    := by
  unfold mwaitRead
  try dsimp only
  repeat' first | with_reducible assumption | with_reducible apply holdReq_ok | with_reducible apply mwaitTake_ok
                | with_reducible apply MemOk.foldl | with_reducible apply MemOk.foldl_fst
                | with_reducible apply MemOk.foldl_snd | refine homeReadAt_ok (by with_reducible assumption) ?_
                | with_reducible apply MemOk.wf | simp only [MemOk.mk_eq] | intro _ | split

theorem execMwaitHomeRead_ok {req : Nat} {s : State} (hm : MemOk s) : OutOk (execMwaitHomeRead req s) := by
  unfold execMwaitHomeRead
  try dsimp only
  repeat' first | with_reducible assumption | with_reducible apply OutOk.next | with_reducible apply mwaitRead_ok
                | refine OutOk.ite ?_ ?_ | refine MemOk.ite ?_ ?_ | with_reducible apply MemOk.wf
                | simp only [MemOk.mk_eq] | intro _ | split

theorem execMonitorReread_ok {req : Nat} {s : State} (hm : MemOk s) : OutOk (execMonitorReread req s) := by
  unfold execMonitorReread
  try dsimp only
  repeat' first | with_reducible assumption | with_reducible apply OutOk.next | with_reducible apply mwaitRead_ok
                | refine OutOk.ite ?_ ?_ | refine MemOk.ite ?_ ?_ | with_reducible apply MemOk.wf
                | simp only [MemOk.mk_eq] | intro _ | split

theorem execPeerWordPoll_ok {req : Nat} {value : DWord} {s : State} (hm : MemOk s) : OutOk
    (execPeerWordPoll req value s) := by
  unfold execPeerWordPoll
  try dsimp only
  repeat' first | with_reducible assumption | with_reducible apply OutOk.next | with_reducible apply sendReply_ok
                | with_reducible apply setReq_ok | refine OutOk.ite ?_ ?_ | refine MemOk.ite ?_ ?_
                | with_reducible apply MemOk.wf | simp only [MemOk.mk_eq] | intro _ | split

theorem execNap_ok {hd : Hdr} {n : BitVec 12} {s : State} (hm : MemOk s) : OutOk (execNap hd n s) := by
  unfold execNap
  try dsimp only
  repeat' first | with_reducible assumption | with_reducible apply OutOk.next | with_reducible apply issue_ok
                | with_reducible apply finishNext_ok | with_reducible apply passBlock_ok
                | with_reducible apply block_ok | refine OutOk.ite ?_ ?_ | refine MemOk.ite ?_ ?_ | intro _

theorem execNapExpiry_ok {wave : Nat} {s : State} (hm : MemOk s) : OutOk (execNapExpiry wave s) := by
  unfold execNapExpiry
  try dsimp only
  repeat' first | with_reducible assumption | with_reducible apply OutOk.next | with_reducible apply wake_ok
                | refine OutOk.ite ?_ ?_ | refine MemOk.ite ?_ ?_ | with_reducible apply MemOk.wf
                | simp only [MemOk.mk_eq] | intro _ | split

/-! ## Machine/System.lean -/

theorem writeSys_ok {s : State} {id : Nat} {idx : Nat} {x : DWord} (hm : MemOk s) : MemOk (writeSys s id idx x) := by
  unfold writeSys
  simp only [State.newId_eq]
  repeat' first | with_reducible assumption | with_reducible apply MemOk.updWave | with_reducible apply MemOk.updTeam
                | with_reducible apply MemOk.afterId | with_reducible apply MemOk.wf | simp only [MemOk.mk_eq]
                | intro _ | split

theorem systemResult_ok {s : State} {c : Ctx} {hd : Hdr} {d : DReg} {x : DWord} (hm : MemOk s) : MemOk
    (systemResult s c hd d x) := by
  unfold systemResult
  try dsimp only
  repeat' first | with_reducible assumption | with_reducible apply keepResults_ok | with_reducible apply MemOk.setWave

theorem execRdsys_ok {hd : Hdr} {d : DReg} {idx : BitVec 12} {s : State} (hm : MemOk s) : OutOk (execRdsys hd d idx s)
    := by
  unfold execRdsys
  try dsimp only
  repeat' first | with_reducible assumption | with_reducible apply OutOk.next | with_reducible apply issue_ok
                | with_reducible apply finishNext_ok | with_reducible apply trapCtx_ok
                | with_reducible apply systemResult_ok | refine OutOk.ite ?_ ?_ | refine MemOk.ite ?_ ?_
                | with_reducible apply MemOk.wf | simp only [MemOk.mk_eq] | intro _ | split

theorem execWrsys_ok {hd : Hdr} {idx : BitVec 12} {a : Src} {s : State} (hm : MemOk s) : OutOk (execWrsys hd idx a s)
    := by
  unfold execWrsys
  try dsimp only
  repeat' first | with_reducible assumption | with_reducible apply OutOk.next | with_reducible apply issue_ok
                | with_reducible apply finishNext_ok | with_reducible apply trapCtx_ok
                | with_reducible apply writeSys_ok | refine OutOk.ite ?_ ?_ | refine MemOk.ite ?_ ?_
                | with_reducible apply MemOk.wf | simp only [MemOk.mk_eq] | intro _ | split

theorem execRdts_ok {hd : Hdr} {d : DReg} {s : State} (hm : MemOk s) : OutOk (execRdts hd d s) := by
  unfold execRdts
  try dsimp only
  repeat' first | with_reducible assumption | with_reducible apply OutOk.next | with_reducible apply issue_ok
                | with_reducible apply finishNext_ok | with_reducible apply systemResult_ok | refine OutOk.ite ?_ ?_
                | refine MemOk.ite ?_ ?_ | intro _

theorem execRdclk_ok {hd : Hdr} {d : DReg} {s : State} (hm : MemOk s) : OutOk (execRdclk hd d s) := by
  unfold execRdclk
  try dsimp only
  repeat' first | with_reducible assumption | with_reducible apply OutOk.next | with_reducible apply issue_ok
                | with_reducible apply systemResult_ok | intro _

theorem execSetprio_ok {hd : Hdr} {n : BitVec 4} {s : State} (hm : MemOk s) : OutOk (execSetprio hd n s) := by
  unfold execSetprio
  try dsimp only
  repeat' first | with_reducible assumption | with_reducible apply OutOk.next | with_reducible apply issue_ok
                | with_reducible apply finishNext_ok | with_reducible apply MemOk.updGang | refine OutOk.ite ?_ ?_
                | refine MemOk.ite ?_ ?_ | with_reducible apply MemOk.wf | simp only [MemOk.mk_eq] | intro _

theorem execTrap_ok {hd : Hdr} {code : BitVec 12} {s : State} (hm : MemOk s) : OutOk (execTrap hd code s) := by
  unfold execTrap
  try dsimp only
  repeat' first | with_reducible assumption | with_reducible apply OutOk.next | with_reducible apply issue_ok
                | with_reducible apply finishNext_ok | with_reducible apply trapCtx_ok | refine OutOk.ite ?_ ?_
                | refine MemOk.ite ?_ ?_ | intro _

theorem execBkpt_ok {hd : Hdr} {tag : BitVec 12} {s : State} (hm : MemOk s) : OutOk (execBkpt hd tag s) := by
  unfold execBkpt
  try dsimp only
  repeat' first | with_reducible assumption | with_reducible apply OutOk.next | with_reducible apply issue_ok
                | with_reducible apply finishNext_ok | with_reducible apply trapCtx_ok | refine OutOk.ite ?_ ?_
                | refine MemOk.ite ?_ ?_ | intro _

theorem execEret_ok {hd : Hdr} {next : Bool} {s : State} (hm : MemOk s) : OutOk (execEret hd next s) := by
  unfold execEret
  try dsimp only
  repeat' first | with_reducible assumption | with_reducible apply OutOk.next | with_reducible apply issueWide_ok
                | with_reducible apply finishNext_ok | with_reducible apply trapCtx_ok
                | with_reducible apply MemOk.setWave | refine OutOk.ite ?_ ?_ | refine MemOk.ite ?_ ?_
                | with_reducible apply MemOk.wf | simp only [MemOk.mk_eq] | intro _

theorem execUnassignedEncoding_ok {raw : Raw} {s : State} (hm : MemOk s) : OutOk (execUnassignedEncoding raw s) := by
  unfold execUnassignedEncoding
  try dsimp only
  repeat' first | with_reducible assumption | with_reducible apply OutOk.next | with_reducible apply trapCtx_ok
                | refine OutOk.ite ?_ ?_ | refine MemOk.ite ?_ ?_ | with_reducible apply MemOk.wf
                | simp only [MemOk.mk_eq] | intro _ | split

/-! ## Machine/Place.lean -/

theorem setQ_ok {s : State} {p q : Nat} {es : List QEnt} (hm : MemOk s) : MemOk (setQ s p q es) := by
  unfold setQ
  try dsimp only
  repeat' first | with_reducible assumption | with_reducible apply MemOk.updPart

theorem askDispatch_ok {s : State} {p : Nat} (hm : MemOk s) : MemOk (askDispatch s p) := by
  unfold askDispatch
  try dsimp only
  repeat' first | with_reducible assumption | with_reducible apply MemOk.updPart

theorem headArrives_ok {s : State} {p q : Nat} (hm : MemOk s) : MemOk (headArrives s p q) := by
  unfold headArrives
  try dsimp only
  repeat' first | with_reducible assumption | with_reducible apply askDispatch_ok | with_reducible apply MemOk.updPart
                | refine MemOk.ite ?_ ?_ | with_reducible apply MemOk.wf | simp only [MemOk.mk_eq] | intro _ | split

theorem enqueue_ok {s : State} {p : Nat} {e : QEnt} (hm : MemOk s) : MemOk (enqueue s p e) := by
  unfold enqueue
  try dsimp only
  repeat' first | with_reducible assumption | with_reducible apply headArrives_ok | with_reducible apply setQ_ok
                | with_reducible apply MemOk.updPart | refine MemOk.ite ?_ ?_

theorem refill_ok {p : Nat} {n : Nat} {s : State} (hm : MemOk s) : MemOk (refill p n s) := by
  induction n generalizing s with
  | zero => exact hm
  | succ n ih =>
    unfold refill
    try simp only [State.newId_eq, State.free_eq]
    repeat' first | with_reducible assumption | with_reducible apply enqueue_ok | with_reducible apply MemOk.updPart
                  | with_reducible apply ih | refine MemOk.ite ?_ ?_ | with_reducible apply MemOk.wf
                  | simp only [MemOk.mk_eq] | intro _ | split

theorem dequeue_ok {s : State} {p vertex : Nat} (hm : MemOk s) : MemOk (dequeue s p vertex) := by
  unfold dequeue
  try dsimp only
  repeat' first | with_reducible assumption | with_reducible apply setQ_ok | with_reducible apply MemOk.updPart
                | with_reducible apply refill_ok | with_reducible apply headArrives_ok | refine MemOk.ite ?_ ?_

/-! ## Machine/Nodes.lean -/

theorem recWrite_ok {s : State} {p v t : Nat} {f : Nat → Nat} {tt} (e : recWrite s p v t f = some tt) (hm : MemOk s) :
    MemOk tt := by
  unfold recWrite at e
  try dsimp only at e
  repeat' first | (simp only [reduceCtorEq] at e; done)
                | (simp only [Except.ok.injEq, Option.some.injEq, Prod.mk.injEq] at e; obtain rfl := e) | split at e
  all_goals repeat' first | with_reducible assumption | with_reducible apply MemOk.updPart

theorem schedXlat_ok {s : State} {p pasid va : Nat} {a : Access} (hm : MemOk s) : MemOk (schedXlat s p pasid va a).1
    := by
  unfold schedXlat
  try dsimp only
  repeat' first | with_reducible assumption | with_reducible apply walk_ok
                | refine walk_ok2 (by with_reducible assumption) ?_ | refine MemOk.ite ?_ ?_
                | with_reducible apply MemOk.wf | simp only [MemOk.mk_eq] | intro _ | split

theorem schedXlat_ok2 {s : State} {p pasid va : Nat} {a : Access} {tt} {xx} (e : schedXlat s p pasid va a = (tt, xx))
    (hm : MemOk s) : MemOk tt := by
  have h2 : MemOk (schedXlat s p pasid va a).1 := schedXlat_ok hm
  rw [e] at h2; exact h2

theorem schedRead_ok {s : State} {p pasid va pts : Nat} (hm : MemOk s) : MemOk (schedRead s p pasid va pts).1 := by
  unfold schedRead
  try dsimp only
  repeat' first | with_reducible assumption | with_reducible apply schedXlat_ok
                | refine schedXlat_ok2 (by with_reducible assumption) ?_
                | refine homeReadAt_ok (by with_reducible assumption) ?_ | refine MemOk.ite ?_ ?_
                | with_reducible apply MemOk.wf | simp only [MemOk.mk_eq] | intro _ | split

theorem schedRead_ok2 {s : State} {p pasid va pts : Nat} {tt} {xx} (e : schedRead s p pasid va pts = (tt, xx))
    (hm : MemOk s) : MemOk tt := by
  have h2 : MemOk (schedRead s p pasid va pts).1 := schedRead_ok hm
  rw [e] at h2; exact h2

theorem notifyAdd_ok {s : State} {p pasid va pts x : Nat} (hm : MemOk s) : MemOk (notifyAdd s p pasid va pts x).1 :=
    by
  unfold notifyAdd
  try dsimp only
  repeat' first | with_reducible assumption | with_reducible apply schedXlat_ok
                | refine schedXlat_ok2 (by with_reducible assumption) ?_
                | refine homeWriteAt_ok (by with_reducible assumption) ?_ | refine MemOk.ite ?_ ?_
                | with_reducible apply MemOk.wf | simp only [MemOk.mk_eq] | intro _ | split

theorem notifyAdd_ok2 {s : State} {p pasid va pts x : Nat} {tt} {xx} (e : notifyAdd s p pasid va pts x = (tt, xx))
    (hm : MemOk s) : MemOk tt := by
  have h2 : MemOk (notifyAdd s p pasid va pts x).1 := notifyAdd_ok hm
  rw [e] at h2; exact h2

theorem setFiring_ok {s : State} {p v : Nat} {f : Firing} (hm : MemOk s) : MemOk (setFiring s p v f) := by
  unfold setFiring
  try dsimp only
  repeat' first | with_reducible assumption | with_reducible apply MemOk.updPart

theorem dropFiring_ok {s : State} {p v : Nat} (hm : MemOk s) : MemOk (dropFiring s p v) := by
  unfold dropFiring
  try dsimp only
  repeat' first | with_reducible assumption | with_reducible apply MemOk.updPart

theorem readTable_ok {p pasid n va pts : Nat} {acc : List DWord} {s : State} (h : MemOk s) :
    MemOk (readTable p pasid n va pts acc s).1 := by
  induction n generalizing s va acc with
  | zero => exact h
  | succ n ih =>
    unfold readTable
    split <;> rename_i e <;> have h1 := schedRead_ok2 e h
    · exact h1
    · exact h1
    · simp only [State.free_eq]
      exact ih (MemOk.afterFree h1)
    · exact ih h1
theorem readTable_ok2 {p pasid n va pts : Nat} {acc : List DWord} {s : State} {t x}
    (e : readTable p pasid n va pts acc s = (t, x)) (h : MemOk s) : MemOk t := by
  have h2 := readTable_ok (p := p) (pasid := pasid) (n := n) (va := va) (pts := pts) (acc := acc) h
  rw [e] at h2; exact h2

theorem lastCheck_ok {s : State} {p r : Nat} {g : Grid} (hm : MemOk s) : MemOk (lastCheck s p r g).1 := by
  unfold lastCheck
  try dsimp only
  repeat' first | with_reducible assumption | with_reducible apply schedXlat_ok
                | refine schedXlat_ok2 (by with_reducible assumption) ?_ | refine MemOk.ite ?_ ?_
                | with_reducible apply MemOk.wf | simp only [MemOk.mk_eq] | intro _ | split

theorem lastCheck_ok2 {s : State} {p r : Nat} {g : Grid} {tt} {xx} (e : lastCheck s p r g = (tt, xx)) (hm : MemOk s) :
    MemOk tt := by
  have h2 : MemOk (lastCheck s p r g).1 := lastCheck_ok hm
  rw [e] at h2; exact h2

theorem fireCheck_ok {s : State} {p v t : Nat} (hm : MemOk s) : MemOk (fireCheck s p v t).1 := by
  unfold fireCheck
  try dsimp only
  repeat' first | with_reducible assumption | with_reducible apply pasidRoot_ok | with_reducible apply readTable_ok
                | with_reducible apply lastCheck_ok | refine pasidRoot_ok2 (by with_reducible assumption) ?_
                | refine readTable_ok2 (by with_reducible assumption) ?_
                | refine lastCheck_ok2 (by with_reducible assumption) ?_ | refine MemOk.ite ?_ ?_
                | with_reducible apply MemOk.wf | simp only [MemOk.mk_eq] | intro _ | split

theorem fireCheck_ok2 {s : State} {p v t : Nat} {tt} {xx} (e : fireCheck s p v t = (tt, xx)) (hm : MemOk s) : MemOk tt
    := by
  have h2 : MemOk (fireCheck s p v t).1 := fireCheck_ok hm
  rw [e] at h2; exact h2

theorem notifyStep_ok {s : State} {p v tc : Nat} {f : Firing} {tt} {xx} (e : notifyStep s p v tc f = some (tt, xx))
    (hm : MemOk s) : MemOk tt := by
  unfold notifyStep at e
  try dsimp only at e
  repeat' first | (simp only [reduceCtorEq] at e; done)
                | (simp only [Except.ok.injEq, Option.some.injEq, Prod.mk.injEq] at e; obtain ⟨rfl, -⟩ := e)
                | split at e
  all_goals repeat' first | with_reducible assumption | with_reducible apply notifyAdd_ok
                          | with_reducible apply xdSend_ok | with_reducible apply setFiring_ok
                          | refine recWrite_ok (by with_reducible assumption) ?_
                          | refine notifyAdd_ok2 (by with_reducible assumption) ?_

theorem walkStep_ok {s : State} {p v tc : Nat} {f : Firing} {tt} (e : walkStep s p v tc f = some tt) (hm : MemOk s) :
    MemOk tt := by
  unfold walkStep at e
  try dsimp only at e
  repeat' first | (simp only [reduceCtorEq] at e; done)
                | (simp only [Except.ok.injEq, Option.some.injEq, Prod.mk.injEq] at e; obtain rfl := e) | split at e
  all_goals repeat' first | with_reducible assumption | with_reducible apply MemOk.updPart

theorem stateStep_ok {fire : Nat → State → Option State} {s : State} {p v tc : Nat} {tt}
    (e : stateStep fire s p v tc = some tt) (hm : MemOk s)
    (hf : ∀ n s t, fire n s = some t → MemOk s → MemOk t) : MemOk tt := by
  unfold stateStep at e
  dsimp only at e
  have h1 := dropFiring_ok (p := p) (v := v) hm
  split at e
  · split at e
    · cases e
    · rename_i e1; exact hf _ _ _ e (recWrite_ok e1 h1)
  · exact recWrite_ok e h1

theorem reject_ok {s : State} {p v t code : Nat} {tt} (e : reject s p v t code = some tt) (hm : MemOk s) : MemOk tt :=
    by
  unfold reject at e
  try dsimp only at e
  repeat' first | (simp only [reduceCtorEq] at e; done)
                | (simp only [Except.ok.injEq, Option.some.injEq, Prod.mk.injEq] at e; obtain rfl := e) | split at e
  all_goals repeat' first | with_reducible assumption | with_reducible apply notifyAdd_ok
                          | with_reducible apply xdSend_ok | refine recWrite_ok (by with_reducible assumption) ?_
                          | refine notifyAdd_ok2 (by with_reducible assumption) ?_

theorem fireNode_ok {p v n : Nat} {owed : Bool} {t : Nat} {s : State} {tt} (e : fireNode p v n owed t s = some tt)
    (hm : MemOk s) : MemOk tt := by
  induction n generalizing owed t s tt with
  | zero => cases e
  | succ n ih =>
    unfold fireNode at e
    split at e
    · cases e
    · rename_i e1
      have h1 := fireCheck_ok2 e1 hm
      dsimp only at e
      split at e
      · exact reject_ok e h1
      · split at e
        · cases e
        · rename_i e2
          have h2 := by
            split at e2
            · exact recWrite_ok e2 h1
            · obtain rfl := Option.some.inj e2; exact h1
          split at e
          · split at e
            · cases e
            · rename_i e3
              cases e
              exact enqueue_ok (setFiring_ok (MemOk.setGrid (recWrite_ok e3 h2)))
          · split at e
            · cases e
            · rename_i e3; cases e; exact notifyStep_ok e3 h2
            · rename_i e3
              split at e
              · cases e
              · rename_i e4
                exact stateStep_ok e (walkStep_ok e4 (notifyStep_ok e3 h2)) fun _ _ _ h hs => ih h hs
          · split at e
            · cases e
            · rename_i e3; cases e; exact setFiring_ok (recWrite_ok e3 h2)

theorem fire_ok {s : State} {p v t : Nat} {tt} (e : fire s p v t = some tt) (hm : MemOk s) : MemOk tt := by
  unfold fire at e
  repeat' first | (simp only [reduceCtorEq] at e; done)
                | (simp only [Except.ok.injEq, Option.some.injEq, Prod.mk.injEq] at e; obtain rfl := e) | split at e
  all_goals repeat' first | with_reducible assumption | refine fireNode_ok (by with_reducible assumption) ?_

theorem walkOn_ok {s : State} {p v tc : Nat} {f : Firing} {tt} (e : walkOn s p v tc f = some tt) (hm : MemOk s) :
    MemOk tt := by
  unfold walkOn at e
  split at e
  · cases e
  · rename_i e1
    exact stateStep_ok e (walkStep_ok e1 hm) fun _ _ _ h hs => fireNode_ok h hs

theorem complete_ok {s : State} {p v tc : Nat} {f : Firing} {tt} (e : complete s p v tc f = some tt) (hm : MemOk s) :
    MemOk tt := by
  unfold complete at e
  repeat' first | (simp only [reduceCtorEq] at e; done)
                | (simp only [Except.ok.injEq, Option.some.injEq, Prod.mk.injEq] at e; obtain rfl := e) | split at e
  all_goals repeat' first | with_reducible assumption | refine notifyStep_ok (by with_reducible assumption) ?_
                          | refine walkOn_ok (by with_reducible assumption) ?_

theorem arrive_ok {s : State} {p v tw : Nat} {tt} (e : arrive s p v tw = some tt) (hm : MemOk s) : MemOk tt := by
  unfold arrive at e
  try dsimp only at e
  repeat' first | (simp only [reduceCtorEq] at e; done)
                | (simp only [Except.ok.injEq, Option.some.injEq, Prod.mk.injEq] at e; obtain rfl := e) | split at e
  all_goals repeat' first | with_reducible assumption | refine recWrite_ok (by with_reducible assumption) ?_
                          | refine fire_ok (by with_reducible assumption) ?_

theorem execNodeArrival_ok {part vertex : Nat} {s : State} (hm : MemOk s) : OutOk (execNodeArrival part vertex s) :=
    by
  unfold execNodeArrival
  try dsimp only
  repeat' first | with_reducible assumption | with_reducible apply OutOk.next | with_reducible apply MemOk.updPart
                | refine arrive_ok (by with_reducible assumption) ?_ | refine OutOk.ite ?_ ?_ | refine MemOk.ite ?_ ?_
                | with_reducible apply MemOk.wf | simp only [MemOk.mk_eq] | intro _ | split

theorem condRead_ok {s : State} {p v : Nat} {f : Firing} {tt} (e : condRead s p v f = some tt) (hm : MemOk s) : MemOk
    tt := by
  unfold condRead at e
  try dsimp only at e
  repeat' first | (simp only [reduceCtorEq] at e; done)
                | (simp only [Except.ok.injEq, Option.some.injEq, Prod.mk.injEq] at e; obtain rfl := e) | split at e
  all_goals repeat' first | with_reducible assumption | with_reducible apply schedRead_ok
                          | with_reducible apply xdSend_ok | with_reducible apply setFiring_ok
                          | refine schedRead_ok2 (by with_reducible assumption) ?_
                          | refine complete_ok (by with_reducible assumption) ?_

theorem gridNode_ok {s : State} {p v : Nat} {f : Firing} {tt} (e : gridNode s p v f = some tt) (hm : MemOk s) : MemOk
    tt := by
  unfold gridNode at e
  try dsimp only at e
  repeat' first | (simp only [reduceCtorEq] at e; done)
                | (simp only [Except.ok.injEq, Option.some.injEq, Prod.mk.injEq] at e; obtain rfl := e) | split at e
  all_goals repeat' first | with_reducible assumption | refine complete_ok (by with_reducible assumption) ?_
                          | refine MemOk.ite ?_ ?_ | with_reducible apply MemOk.wf | simp only [MemOk.mk_eq]

theorem notified_ok {s : State} {p v : Nat} {f : Firing} {refused : Bool} {tt}
    (e : notified s p v f refused = some tt)
    (hm : MemOk s) : MemOk tt := by
  unfold notified at e
  split at e
  · cases e
  · rename_i e1
    split at e1
    · exact walkOn_ok e (recWrite_ok e1 hm)
    · obtain rfl := Option.some.inj e1; exact walkOn_ok e hm

theorem nodeStep_ok {s : State} {p v : Nat} {f : Firing} {tt} (e : nodeStep s p v f = some tt) (hm : MemOk s) : MemOk
    tt := by
  unfold nodeStep at e
  repeat' first | (simp only [reduceCtorEq] at e; done)
                | (simp only [Except.ok.injEq, Option.some.injEq, Prod.mk.injEq] at e; obtain rfl := e) | split at e
  all_goals repeat' first | with_reducible assumption | refine gridNode_ok (by with_reducible assumption) ?_
                          | refine condRead_ok (by with_reducible assumption) ?_
                          | refine complete_ok (by with_reducible assumption) ?_
                          | refine notified_ok (by with_reducible assumption) ?_

theorem execNodeCompletion_ok {part vertex : Nat} {s : State} (hm : MemOk s) : OutOk
    (execNodeCompletion part vertex s) := by
  unfold execNodeCompletion
  try dsimp only
  repeat' first | with_reducible assumption | with_reducible apply OutOk.next
                | refine nodeStep_ok (by with_reducible assumption) ?_ | refine OutOk.ite ?_ ?_
                | refine MemOk.ite ?_ ?_ | with_reducible apply MemOk.wf | simp only [MemOk.mk_eq] | intro _ | split

/-! ## Machine/Lath.lean -/

theorem graphOp_ok {s : State} {hd : Hdr} {u : Use} {pd : Pred} {d : DReg} {k : Nat} {cur : Option (BitVec 2)}
    {gid : Wave → Nat} {op : Wave → Nat → GOp} (hm : MemOk s) : MemOk (graphOp s hd u pd d k cur gid op) := by
  unfold graphOp
  try dsimp only
  repeat' first | with_reducible assumption | with_reducible apply issue_ok | with_reducible apply finishNext_ok
                | with_reducible apply startFlight_ok | with_reducible apply sendReq_ok
                | with_reducible apply MemOk.setWave | with_reducible apply MemOk.foldl
                | with_reducible apply MemOk.foldl_fst | with_reducible apply MemOk.foldl_snd
                | refine startFlight_ok2 (by with_reducible assumption) ?_ | refine MemOk.ite ?_ ?_
                | with_reducible apply MemOk.wf | simp only [MemOk.mk_eq] | intro _

theorem execGnewv_ok {hd : Hdr} {pd : Pred} {d : DReg} {g : GidSrc} {a : Src} {s : State} (hm : MemOk s) : OutOk
    (execGnewv hd pd d g a s) := by
  unfold execGnewv
  try dsimp only
  repeat' first | with_reducible assumption | with_reducible apply OutOk.next | with_reducible apply graphOp_ok

theorem execGfreev_ok {hd : Hdr} {pd : Pred} {d : DReg} {g : GidSrc} {a : Src} {s : State} (hm : MemOk s) : OutOk
    (execGfreev hd pd d g a s) := by
  unfold execGfreev
  try dsimp only
  repeat' first | with_reducible assumption | with_reducible apply OutOk.next | with_reducible apply graphOp_ok

theorem execGadd_ok {hd : Hdr} {pd : Pred} {d : DReg} {g : GidSrc} {a b : Src} {c : Option Src} {s : State}
    (hm : MemOk s) : OutOk (execGadd hd pd d g a b c s) := by
  unfold execGadd
  try dsimp only
  repeat' first | with_reducible assumption | with_reducible apply OutOk.next | with_reducible apply graphOp_ok

theorem execGdel_ok {hd : Hdr} {pd : Pred} {d : DReg} {g : GidSrc} {a b : Src} {dir : Dir} {byEnd : Bool} {s : State}
    (hm : MemOk s) : OutOk (execGdel hd pd d g a b dir byEnd s) := by
  unfold execGdel
  try dsimp only
  repeat' first | with_reducible assumption | with_reducible apply OutOk.next | with_reducible apply graphOp_ok

theorem execGswap_ok {hd : Hdr} {pd : Pred} {d : DReg} {g : GidSrc} {a b c : Src} {dir : Dir} {s : State}
    (hm : MemOk s) : OutOk (execGswap hd pd d g a b c dir s) := by
  unfold execGswap
  try dsimp only
  repeat' first | with_reducible assumption | with_reducible apply OutOk.next | with_reducible apply graphOp_ok

theorem execGswapShared_ok {hd : Hdr} {pd : Pred} {d : DReg} {g : GidSrc} {a b c : Src} {dir : Dir} {s : State}
    (hm : MemOk s) : OutOk (execGswapShared hd pd d g a b c dir s) := by
  unfold execGswapShared
  try dsimp only
  repeat' first | with_reducible assumption | with_reducible apply OutOk.next | with_reducible apply graphOp_ok

theorem execGlde_ok {hd : Hdr} {pd : Pred} {d : DReg} {g : GidSrc} {a b : Src} {dir : Dir} {s : State} (hm : MemOk s)
    : OutOk (execGlde hd pd d g a b dir s) := by
  unfold execGlde
  try dsimp only
  repeat' first | with_reducible assumption | with_reducible apply OutOk.next | with_reducible apply graphOp_ok

theorem execGdeg_ok {hd : Hdr} {pd : Pred} {d : DReg} {g : GidSrc} {a : Src} {dir : Dir} {s : State} (hm : MemOk s) :
    OutOk (execGdeg hd pd d g a dir s) := by
  unfold execGdeg
  try dsimp only
  repeat' first | with_reducible assumption | with_reducible apply OutOk.next | with_reducible apply graphOp_ok

theorem execGldv_ok {hd : Hdr} {pd : Pred} {d : DReg} {g : GidSrc} {a : Src} {sz : Bool} {off : BitVec 5} {s : State}
    (hm : MemOk s) : OutOk (execGldv hd pd d g a sz off s) := by
  unfold execGldv
  try dsimp only
  repeat' first | with_reducible assumption | with_reducible apply OutOk.next | with_reducible apply graphOp_ok

theorem execGstv_ok {hd : Hdr} {pd : Pred} {d : DReg} {g : GidSrc} {a b : Src} {sz : Bool} {off : BitVec 5}
    {s : State} (hm : MemOk s) : OutOk (execGstv hd pd d g a b sz off s) := by
  unfold execGstv
  try dsimp only
  repeat' first | with_reducible assumption | with_reducible apply OutOk.next | with_reducible apply graphOp_ok

theorem execGopen_ok {hd : Hdr} {pd : Pred} {d : DReg} {g : GidSrc} {a : Src} {dir : Dir} {cur : BitVec 2} {s : State}
    (hm : MemOk s) : OutOk (execGopen hd pd d g a dir cur s) := by
  unfold execGopen
  try dsimp only
  repeat' first | with_reducible assumption | with_reducible apply OutOk.next | with_reducible apply graphOp_ok

theorem execGnext_ok {hd : Hdr} {pd : Pred} {d : DReg} {cur : BitVec 2} {s : State} (hm : MemOk s) : OutOk
    (execGnext hd pd d cur s) := by
  unfold execGnext
  try dsimp only
  repeat' first | with_reducible assumption | with_reducible apply OutOk.next | with_reducible apply graphOp_ok

theorem execGseek_ok {hd : Hdr} {pd : Pred} {d : DReg} {b : Src} {cur : BitVec 2} {s : State} (hm : MemOk s) : OutOk
    (execGseek hd pd d b cur s) := by
  unfold execGseek
  try dsimp only
  repeat' first | with_reducible assumption | with_reducible apply OutOk.next | with_reducible apply graphOp_ok

theorem closeLane_ok {c : Ctx} {fid cur : Nat} {s : State} {l : Nat} (hm : MemOk s) : MemOk (closeLane c fid cur s l)
    := by
  unfold closeLane
  try dsimp only
  repeat' first | with_reducible assumption | with_reducible apply answerAt_ok | with_reducible apply closeCursor_ok
                | with_reducible apply MemOk.wf | simp only [MemOk.mk_eq] | intro _ | split

theorem execGclose_ok {hd : Hdr} {pd : Pred} {d : DReg} {cur : BitVec 2} {s : State} (hm : MemOk s) : OutOk
    (execGclose hd pd d cur s) := by
  unfold execGclose
  try dsimp only
  repeat' first | with_reducible assumption | with_reducible apply OutOk.next | with_reducible apply issue_ok
                | with_reducible apply finishNext_ok | with_reducible apply startFlight_ok
                | with_reducible apply closeLane_ok | with_reducible apply MemOk.setWave
                | with_reducible apply MemOk.foldl | with_reducible apply MemOk.foldl_fst
                | with_reducible apply MemOk.foldl_snd | refine startFlight_ok2 (by with_reducible assumption) ?_
                | refine OutOk.ite ?_ ?_ | refine MemOk.ite ?_ ?_ | with_reducible apply MemOk.wf
                | simp only [MemOk.mk_eq] | intro _

theorem gtabRead_ok {s : State} {part gid t : Nat} (hm : MemOk s) : MemOk (gtabRead s part gid t) := by
  unfold gtabRead
  try dsimp only
  repeat' first | with_reducible assumption | with_reducible apply MemOk.updPart

theorem execGwaitlow_ok {hd : Hdr} {pd : Pred} {d : DReg} {g : GidSrc} {a : Src} {s : State} (hm : MemOk s) : OutOk
    (execGwaitlow hd pd d g a s) := by
  unfold execGwaitlow
  try dsimp only
  repeat' first | with_reducible assumption | with_reducible apply OutOk.next | with_reducible apply issue_ok
                | with_reducible apply finishNext_ok | with_reducible apply startFlight_ok
                | with_reducible apply passBlock_ok | with_reducible apply setKept_ok
                | with_reducible apply gtabRead_ok | with_reducible apply block_ok | with_reducible apply MemOk.foldl
                | with_reducible apply MemOk.foldl_fst | with_reducible apply MemOk.foldl_snd
                | refine startFlight_ok2 (by with_reducible assumption) ?_ | refine OutOk.ite ?_ ?_
                | refine MemOk.ite ?_ ?_ | with_reducible apply MemOk.wf | simp only [MemOk.mk_eq] | intro _

theorem regionSegs_ok {part pasid base n off : Nat} {acc : List RegSeg} {s : State} (h : MemOk s) :
    MemOk (regionSegs part pasid base n off acc s).1 := by
  induction n generalizing off acc s with
  | zero => exact h
  | succ n ih =>
    unfold regionSegs
    split <;> rename_i e <;> have h1 := walk_ok2 e h
    · exact h1
    · split
      · dsimp only
        split
        · split <;> exact ih h1
        · exact ih h1
      · exact h1
theorem regionSegs_ok2 {part pasid base n off : Nat} {acc : List RegSeg} {s : State} {t x}
    (e : regionSegs part pasid base n off acc s = (t, x)) (h : MemOk s) : MemOk t := by
  have h2 := regionSegs_ok (part := part) (pasid := pasid) (base := base) (n := n) (off := off) (acc := acc) h
  rw [e] at h2; exact h2

theorem newGraph_ok {s : State} {part pasid pts x : Nat} (hm : MemOk s) : MemOk (newGraph s part pasid pts x).1 := by
  unfold newGraph
  try dsimp only
  repeat' first | with_reducible assumption | with_reducible apply gtabRead_ok | with_reducible apply regionSegs_ok
                | with_reducible apply MemOk.updPart | refine regionSegs_ok2 (by with_reducible assumption) ?_
                | refine MemOk.ite ?_ ?_ | with_reducible apply MemOk.wf | simp only [MemOk.mk_eq] | intro _ | split

theorem newGraph_ok2 {s : State} {part pasid pts x : Nat} {tt} {xx} (e : newGraph s part pasid pts x = (tt, xx))
    (hm : MemOk s) : MemOk tt := by
  have h2 : MemOk (newGraph s part pasid pts x).1 := newGraph_ok hm
  rw [e] at h2; exact h2

theorem execGnewg_ok {hd : Hdr} {pd : Pred} {d : DReg} {a : Src} {s : State} (hm : MemOk s) : OutOk
    (execGnewg hd pd d a s) := by
  unfold execGnewg
  try dsimp only
  repeat' first | with_reducible assumption | with_reducible apply OutOk.next | with_reducible apply issue_ok
                | with_reducible apply trapCtx_ok | with_reducible apply withXlat_ok
                | with_reducible apply finishNext_ok | with_reducible apply startFlight_ok
                | with_reducible apply sendLanes_ok | with_reducible apply loadLane_ok
                | with_reducible apply MemOk.setWave | with_reducible apply sendReq_ok
                | with_reducible apply MemOk.foldl | with_reducible apply MemOk.foldl_fst
                | with_reducible apply MemOk.foldl_snd | refine startFlight_ok2 (by with_reducible assumption) ?_
                | refine sendLanes_ok2 (by with_reducible assumption) ?_
                | refine loadLane_ok2 (by with_reducible assumption) ?_ | refine OutOk.ite ?_ ?_
                | refine MemOk.ite ?_ ?_ | with_reducible apply MemOk.wf | simp only [MemOk.mk_eq] | intro _ | split

theorem setGraph_ok {s : State} {part gid : Nat} {g : Graph} (hm : MemOk s) : MemOk (setGraph s part gid g) := by
  unfold setGraph
  try dsimp only
  repeat' first | with_reducible assumption | with_reducible apply MemOk.updPart

theorem graphReply_ok {s : State} {id : Nat} {r : Req} {words : List Word} {t : Nat} (hm : MemOk s) : MemOk
    (graphReply s id r words t) := by
  unfold graphReply
  try dsimp only
  repeat' first | with_reducible assumption | with_reducible apply sendReply_ok | with_reducible apply keepToken_ok

theorem noGraph_ok {s : State} {id : Nat} {r : Req} {gid pts : Nat} {op : GOp} (hm : MemOk s) : MemOk
    (noGraph s id r gid pts op) := by
  unfold noGraph
  try dsimp only
  repeat' first | with_reducible assumption | with_reducible apply graphReply_ok | with_reducible apply gtabRead_ok
                | refine MemOk.ite ?_ ?_

theorem openDo_ok {s : State} {id : Nat} {r : Req} {gid v : Nat} {d : Dir} {cur pts : Nat} (hm : MemOk s) : MemOk
    (openDo s id r gid v d cur pts) := by
  unfold openDo
  try dsimp only
  repeat' first | with_reducible assumption | with_reducible apply closeCursor_ok | with_reducible apply noGraph_ok
                | with_reducible apply graphReply_ok | with_reducible apply MemOk.updPart | refine MemOk.ite ?_ ?_
                | with_reducible apply MemOk.wf | simp only [MemOk.mk_eq] | intro _ | split

theorem cursorRead_ok {s : State} {id : Nat} {r : Req} {cur : Nat} {rank : Cursor → Nat} {op : GOp} (hm : MemOk s) :
    MemOk (cursorRead s id r cur rank op) := by
  unfold cursorRead
  try dsimp only
  repeat' first | with_reducible assumption | with_reducible apply graphReply_ok | refine MemOk.ite ?_ ?_
                | with_reducible apply MemOk.wf | simp only [MemOk.mk_eq] | intro _ | split

theorem newgDo_ok {s : State} {id : Nat} {r : Req} {pasid pts : Nat} (hm : MemOk s) : MemOk (newgDo s id r pasid pts)
    := by
  unfold newgDo
  try dsimp only
  repeat' first | with_reducible assumption | with_reducible apply withdraw_ok | with_reducible apply newGraph_ok
                | with_reducible apply holdReq_ok | with_reducible apply graphReply_ok
                | refine newGraph_ok2 (by with_reducible assumption) ?_ | refine MemOk.ite ?_ ?_
                | with_reducible apply MemOk.wf | simp only [MemOk.mk_eq] | intro _ | split

theorem graphPerform_ok {s : State} {id : Nat} {r : Req} {gid : Nat} {op : GOp} (hm : MemOk s) : MemOk
    (graphPerform s id r gid op) := by
  unfold graphPerform
  try dsimp only
  repeat' first | with_reducible assumption | with_reducible apply newgDo_ok | with_reducible apply openDo_ok
                | with_reducible apply cursorRead_ok | with_reducible apply noGraph_ok
                | with_reducible apply holdReq_ok | with_reducible apply graphReply_ok
                | with_reducible apply setGraph_ok | refine tokenAnswer_ok (by with_reducible assumption) ?_
                | refine fire_ok (by with_reducible assumption) ?_ | refine MemOk.ite ?_ ?_
                | with_reducible apply MemOk.wf | simp only [MemOk.mk_eq] | intro _ | split

theorem lathEvent_ok {s : State} {id : Nat} {mutates : Bool} (hm : MemOk s) : MemOk (lathEvent s id mutates) := by
  unfold lathEvent
  try dsimp only
  repeat' first | with_reducible assumption | with_reducible apply graphPerform_ok | refine MemOk.ite ?_ ?_
                | with_reducible apply MemOk.wf | simp only [MemOk.mk_eq] | intro _ | split

theorem execLathMutation_ok {req : Nat} {s : State} (hm : MemOk s) : OutOk (execLathMutation req s) := by
  unfold execLathMutation
  try dsimp only
  repeat' first | with_reducible assumption | with_reducible apply OutOk.next | with_reducible apply lathEvent_ok

theorem execLathRead_ok {req : Nat} {s : State} (hm : MemOk s) : OutOk (execLathRead req s) := by
  unfold execLathRead
  try dsimp only
  repeat' first | with_reducible assumption | with_reducible apply OutOk.next | with_reducible apply lathEvent_ok

theorem takeGraph_ok {s : State} {f : Flight} {x : Reply} {gid : Nat} {op : GOp} (hm : MemOk s) : MemOk
    (takeGraph s f x gid op) := by
  unfold takeGraph
  try dsimp only
  repeat' first | with_reducible assumption | with_reducible apply consumeToken_ok | with_reducible apply raisePts_ok
                | with_reducible apply MemOk.updWave | with_reducible apply closeCursor_ok | refine MemOk.ite ?_ ?_
                | with_reducible apply MemOk.wf | simp only [MemOk.mk_eq] | intro _ | split

theorem execLathReply_ok {rep : Nat} {s : State} (hm : MemOk s) : OutOk (execLathReply rep s) := by
  unfold execLathReply
  try dsimp only
  repeat' first | with_reducible assumption | with_reducible apply OutOk.next | with_reducible apply deliverKept_ok
                | with_reducible apply consumeToken_ok | with_reducible apply raisePts_ok
                | with_reducible apply laneDone_ok | with_reducible apply takeGraph_ok
                | with_reducible apply staleReply_ok | refine OutOk.ite ?_ ?_ | refine MemOk.ite ?_ ?_
                | with_reducible apply MemOk.wf | simp only [MemOk.mk_eq] | intro _ | split

theorem execGnewgComplete_ok {seq : Nat} {s : State} (hm : MemOk s) : OutOk (execGnewgComplete seq s) := by
  unfold execGnewgComplete
  try dsimp only
  repeat' first | with_reducible assumption | with_reducible apply OutOk.next | with_reducible apply takeGraph_ok
                | with_reducible apply endFlight_ok | with_reducible apply MemOk.foldl
                | with_reducible apply MemOk.foldl_fst | with_reducible apply MemOk.foldl_snd | refine OutOk.ite ?_ ?_
                | refine MemOk.ite ?_ ?_ | with_reducible apply MemOk.wf | simp only [MemOk.mk_eq] | intro _ | split

theorem execReclamation_ok {part gid vertex : Nat} {dir : Dir} {s : State} (hm : MemOk s) : OutOk
    (execReclamation part gid vertex dir s) := by
  unfold execReclamation
  try dsimp only
  repeat' first | with_reducible assumption | with_reducible apply OutOk.next | with_reducible apply setGraph_ok
                | refine OutOk.ite ?_ ?_ | refine MemOk.ite ?_ ?_ | with_reducible apply MemOk.wf
                | simp only [MemOk.mk_eq] | intro _ | split

/-! ## Machine/Port.lean -/

theorem slotAnswer_ok {s : State} {p slot : Nat} {words : List Word} {data : Option (BitVec 128)} (hm : MemOk s) :
    MemOk (slotAnswer s p slot words data) := by
  unfold slotAnswer
  simp only [State.free_eq]
  repeat' first | with_reducible assumption | with_reducible apply MemOk.updPart
                | with_reducible apply MemOk.afterFree | with_reducible apply MemOk.wf | simp only [MemOk.mk_eq]
                | intro _ | split

theorem portDo_ok {s : State} {p slot gid : Nat} {mk : Bool → GOp} {tt} (e : portDo s p slot gid mk = some tt)
    (hm : MemOk s) : MemOk tt := by
  have h1 : MemOk (if gid < 65536 then gtabRead s p gid s.xts else s) := MemOk.ite (gtabRead_ok hm) hm
  unfold portDo at e
  dsimp only at e
  split at e
  · cases e; exact slotAnswer_ok hm
  · split at e
    · cases e; exact slotAnswer_ok h1
    · split at e
      · cases e; exact slotAnswer_ok h1
      · split at e
        · cases e
        · split at e
          · cases e
          · split at e
            · split at e
              · exact fire_ok e (slotAnswer_ok (setGraph_ok (MemOk.wf hm)))
              · cases e; exact slotAnswer_ok (setGraph_ok (MemOk.wf hm))
            · cases e; exact slotAnswer_ok (setGraph_ok (MemOk.wf hm))

theorem portRun_ok {s : State} {i : Instr} {tt} (e : portRun s i = some tt) (hm : MemOk s) : MemOk tt := by
  unfold portRun at e
  split at e <;> first | exact portDo_ok e hm | (cases e; first | exact slotAnswer_ok hm | exact hm)

theorem setPortQ_ok {s : State} {p slot : Nat} {q : List Instr} (hm : MemOk s) : MemOk (setPortQ s p slot q) :=
  MemOk.updPart hm

theorem portArrive_ok {s : State} {p slot : Nat} {i : Instr} (hm : MemOk s) : MemOk (portArrive s p slot i) := by
  unfold portArrive
  dsimp only
  have h := MemOk.stir (p := p) hm
  exact MemOk.ite hm (MemOk.ite (setPortQ_ok h) (MemOk.getD (setPortQ_ok h) fun _ e => portRun_ok e h))

theorem drainPort_ok {s : State} {p slot : Nat} (hm : MemOk s) : MemOk (drainPort s p slot) := by
  unfold drainPort
  split
  · exact hm
  · split
    · exact hm
    · rename_i e; exact setPortQ_ok (portRun_ok e hm)

theorem drainPorts_ok {s : State} {p : Nat} (hm : MemOk s) : MemOk (drainPorts s p) :=
  MemOk.foldl hm fun _ _ h => drainPort_ok h

theorem execPortGnewv_ok {part slot gid h : Nat} {s : State} (hm : MemOk s) :
    OutOk (execPortGnewv part slot gid h s) := portArrive_ok hm

theorem execPortGadd_ok {part slot gid u v : Nat} {pay : DWord} {s : State} (hm : MemOk s) :
    OutOk (execPortGadd part slot gid u v pay s) := portArrive_ok hm

theorem execPortGdel_ok {part slot gid u rank : Nat} {s : State} (hm : MemOk s) :
    OutOk (execPortGdel part slot gid u rank s) := portArrive_ok hm

theorem execPortGstv_ok {part slot gid u off : Nat} {data : BitVec 128} {s : State} (hm : MemOk s) :
    OutOk (execPortGstv part slot gid u off data s) := portArrive_ok hm

theorem execPortGldv_ok {part slot gid u off : Nat} {s : State} (hm : MemOk s) :
    OutOk (execPortGldv part slot gid u off s) := portArrive_ok hm

theorem execPortGdeg_ok {part slot gid u : Nat} {s : State} (hm : MemOk s) :
    OutOk (execPortGdeg part slot gid u s) := portArrive_ok hm

theorem execGraphPortInvalidRecord_ok {part slot : Nat} {s : State} (hm : MemOk s) :
    OutOk (execGraphPortInvalidRecord part slot s) := portArrive_ok hm

/-! ## Machine/Hod.lean -/

theorem fillHandle_ok {s : State} {team : Nat} {h : Option Nat} {readers op : Nat} (hm : MemOk s) : MemOk
    (fillHandle s team h readers op) := by
  unfold fillHandle
  try dsimp only
  repeat' first | with_reducible assumption | with_reducible apply MemOk.updTeam | with_reducible apply MemOk.wf
                | simp only [MemOk.mk_eq] | intro _ | split

theorem hodEnd_ok {s : State} {op : Nat} {o : HodOp} (hm : MemOk s) : MemOk (hodEnd s op o) := by
  unfold hodEnd
  try dsimp only
  repeat' first | with_reducible assumption | with_reducible apply snapDrop_ok | with_reducible apply MemOk.updTeam
                | with_reducible apply recheckHandles_ok | with_reducible apply completeOp_ok
                | with_reducible apply MemOk.wf | simp only [MemOk.mk_eq] | intro _ | split

theorem hodNone_ok {s : State} {op : Nat} (hm : MemOk s) : MemOk (hodNone s op) := by
  unfold hodNone
  try dsimp only
  repeat' first | with_reducible assumption | with_reducible apply hodEnd_ok | refine MemOk.ite ?_ ?_
                | with_reducible apply MemOk.wf | simp only [MemOk.mk_eq] | intro _ | split

theorem hodStart_ok {s : State} {op : Nat} (hm : MemOk s) : MemOk (hodStart s op) := by
  unfold hodStart
  try dsimp only
  repeat' first | with_reducible assumption | with_reducible apply hodNone_ok | refine MemOk.ite ?_ ?_
                | with_reducible apply MemOk.wf | simp only [MemOk.mk_eq] | intro _ | split

theorem hodLeave_ok {s : State} {wave : Nat} (hm : MemOk s) : MemOk (hodLeave s wave) := by
  unfold hodLeave
  try dsimp only
  repeat' first | with_reducible assumption | with_reducible apply hodStart_ok | with_reducible apply MemOk.foldl
                | with_reducible apply MemOk.foldl_fst | with_reducible apply MemOk.foldl_snd
                | with_reducible apply MemOk.wf | simp only [MemOk.mk_eq] | intro _

theorem cpySupply_ok {s : State} {c : Ctx} {dir : CpyDir} {len : Nat} {h : Option Nat} {readers : Nat} {g : Grp}
    {segs : List Seg} (hm : MemOk s) : MemOk (cpySupply s c dir len h readers g segs).2 := by
  unfold cpySupply
  simp only [State.newId_eq]
  repeat' first | with_reducible assumption | with_reducible apply MemOk.updTeam | with_reducible apply fillHandle_ok
                | with_reducible apply MemOk.afterId | with_reducible apply MemOk.foldl
                | with_reducible apply MemOk.foldl_fst | with_reducible apply MemOk.foldl_snd
                | with_reducible apply MemOk.wf | simp only [MemOk.mk_eq] | intro _ | split

theorem cpySupply_ok2 {s : State} {c : Ctx} {dir : CpyDir} {len : Nat} {h : Option Nat} {readers : Nat} {g : Grp}
    {segs : List Seg} {tt} {xx} (e : cpySupply s c dir len h readers g segs = (xx, tt)) (hm : MemOk s) : MemOk tt :=
    by
  have h2 : MemOk (cpySupply s c dir len h readers g segs).2 := cpySupply_ok hm
  rw [e] at h2; exact h2

theorem execCpy_ok {hd : Hdr} {a b : Src} {len : BitVec 8} {hnd : BitVec 6} {hen : Bool} {rcnt : BitVec 5}
    {dir : CpyDir} {grp : Grp} {s : State} (hm : MemOk s) : OutOk (execCpy hd a b len hnd hen rcnt dir grp s) := by
  unfold execCpy
  try dsimp only
  repeat' first | with_reducible assumption | with_reducible apply OutOk.next | with_reducible apply issueWide_ok
                | with_reducible apply trapCtx_ok | with_reducible apply cpySupply_ok
                | with_reducible apply hodStart_ok | with_reducible apply finishNext_ok
                | refine cpySupply_ok2 (by with_reducible assumption) ?_ | refine OutOk.ite ?_ ?_
                | refine MemOk.ite ?_ ?_ | with_reducible apply MemOk.wf | simp only [MemOk.mk_eq] | intro _ | split

theorem gatherSnap_ok {s : State} {part gid pts : Nat} {g : Graph} {tt} {xx} {yy}
    (e : gatherSnap s part gid pts g = some (xx, yy, tt)) (hm : MemOk s) : MemOk tt := by
  unfold gatherSnap at e
  try dsimp only at e
  repeat' first | (simp only [reduceCtorEq] at e; done)
                | (simp only [Except.ok.injEq, Option.some.injEq, Prod.mk.injEq] at e; obtain ⟨-, -, rfl⟩ := e)
                | split at e
  all_goals repeat' first | with_reducible assumption | with_reducible apply MemOk.updPart

theorem execGgath_ok {hd : Hdr} {d : BitVec 7} {g : GidSrc} {a b c : Src} {mode : GMode} {loc : Bool} {dir : Dir}
    {s : State} (hm : MemOk s) : OutOk (execGgath hd d g a b c mode loc dir s) := by
  unfold execGgath
  simp only [State.newId_eq]
  repeat' first | with_reducible assumption | with_reducible apply OutOk.next | with_reducible apply issue_ok
                | with_reducible apply finishNext_ok | with_reducible apply trapCtx_ok
                | with_reducible apply hodNone_ok | with_reducible apply fillHandle_ok
                | with_reducible apply gtabRead_ok | with_reducible apply MemOk.afterId
                | with_reducible apply MemOk.foldl | with_reducible apply MemOk.foldl_fst
                | with_reducible apply MemOk.foldl_snd | refine gatherSnap_ok (by with_reducible assumption) ?_
                | refine OutOk.ite ?_ ?_ | refine MemOk.ite ?_ ?_ | with_reducible apply MemOk.wf
                | simp only [MemOk.mk_eq] | intro _ | split

theorem hodRecord_ok {s : State} {op : Nat} {o : HodOp} {wave key : Nat} {word : DWord} (hm : MemOk s) : MemOk
    (hodRecord s op o wave key word) := by
  unfold hodRecord
  try dsimp only
  repeat' first | with_reducible assumption | with_reducible apply recordFault_ok | refine MemOk.ite ?_ ?_

theorem hodFault_ok {s : State} {op idx : Nat} {o : HodOp} {p : HPart} {va : Nat} {word : DWord} (hm : MemOk s) :
    MemOk (hodFault s op idx o p va word) := by
  unfold hodFault
  try dsimp only
  repeat' first | with_reducible assumption | with_reducible apply hodRecord_ok | with_reducible apply MemOk.wf
                | simp only [MemOk.mk_eq]

theorem laneFault_ok {s : State} {op : Nat} {o : HodOp} {k : GatherSt} {l : GLane} {va code : Nat} (hm : MemOk s) :
    MemOk (laneFault s op o k l va code) := by
  unfold laneFault
  try dsimp only
  repeat' first | with_reducible assumption | with_reducible apply hodRecord_ok | refine MemOk.ite ?_ ?_
                | with_reducible apply MemOk.wf | simp only [MemOk.mk_eq]

theorem hodRelease_ok {s : State} {op : Nat} {words : List DWord} (hm : MemOk s) : MemOk (hodRelease s op words) := by
  unfold hodRelease
  try dsimp only
  repeat' first | with_reducible assumption | with_reducible apply MemOk.wf | simp only [MemOk.mk_eq]

theorem execGatherRankResolve_ok {op ln : Nat} {s : State} (hm : MemOk s) : OutOk (execGatherRankResolve op ln s) :=
    by
  unfold execGatherRankResolve
  try dsimp only
  repeat' first | with_reducible assumption | with_reducible apply OutOk.next | with_reducible apply laneFault_ok
                | with_reducible apply setGraph_ok | refine OutOk.ite ?_ ?_ | refine MemOk.ite ?_ ?_
                | with_reducible apply MemOk.wf | simp only [MemOk.mk_eq] | intro _ | split

theorem hodXlat_ok {s : State} {op idx : Nat} {o : HodOp} {va : Nat} {a : Access} (hm : MemOk s) : MemOk
    (hodXlat s op idx o va a).1 := by
  unfold hodXlat
  try dsimp only
  repeat' first | with_reducible assumption | with_reducible apply queueMiss_ok | with_reducible apply fillOuter_ok
                | with_reducible apply dropEnt_ok | refine MemOk.ite ?_ ?_ | with_reducible apply MemOk.wf
                | simp only [MemOk.mk_eq] | intro _ | split

theorem hodXlat_ok2 {s : State} {op idx : Nat} {o : HodOp} {va : Nat} {a : Access} {tt} {xx}
    (e : hodXlat s op idx o va a = (tt, xx)) (hm : MemOk s) : MemOk tt := by
  have h2 : MemOk (hodXlat s op idx o va a).1 := hodXlat_ok hm
  rw [e] at h2; exact h2

theorem hodLocal_ok {s : State} {gang o pts : Nat} (hm : MemOk s) : MemOk (hodLocal s gang o pts).1 := by
  unfold hodLocal
  try dsimp only
  repeat' first | with_reducible assumption | with_reducible apply MemOk.setGang

theorem hodLocal_ok2 {s : State} {gang o pts : Nat} {tt} {xx} (e : hodLocal s gang o pts = (tt, xx)) (hm : MemOk s) :
    MemOk tt := by
  have h2 : MemOk (hodLocal s gang o pts).1 := hodLocal_ok hm
  rw [e] at h2; exact h2

theorem partDone_ok {s : State} {op idx t : Nat} (hm : MemOk s) : MemOk (partDone s op idx t) := by
  unfold partDone
  try dsimp only
  repeat' first | with_reducible assumption | with_reducible apply MemOk.updHop | with_reducible apply MemOk.stir

theorem hodWrite_ok {s : State} {op idx : Nat} {o : HodOp} {p : HPart} {dst : Option (Nat × TlbEnt)} {bs : List Byte}
    {t : Nat} {tt} (e : hodWrite s op idx o p dst bs t = some tt) (hm : MemOk s) : MemOk tt := by
  unfold hodWrite at e
  try dsimp only at e
  repeat' first | (simp only [reduceCtorEq] at e; done)
                | (simp only [Except.ok.injEq, Option.some.injEq, Prod.mk.injEq] at e; obtain rfl := e) | split at e
  all_goals repeat' first | with_reducible assumption | with_reducible apply hodLocal_ok
                          | with_reducible apply partDone_ok | with_reducible apply MemOk.setGang
                          | refine hodLocal_ok2 (by with_reducible assumption) ?_
                          | refine homeWriteAt_ok (by with_reducible assumption) ?_

theorem hodPeer_ok {s : State} {op idx : Nat} {o : HodOp} {kind : ReqKind} {pa va : Nat} (hm : MemOk s) : MemOk
    (hodPeer s op idx o kind pa va) := by
  unfold hodPeer
  try dsimp only
  repeat' first | with_reducible assumption | with_reducible apply sendReq_ok | refine MemOk.ite ?_ ?_

theorem hodToPeer_ok {s : State} {op idx : Nat} {o : HodOp} {p : HPart} {dst : Option (Nat × TlbEnt)} {bs : List Byte}
    {t : Nat} {tt} (e : hodToPeer s op idx o p dst bs t = some tt) (hm : MemOk s) : MemOk tt := by
  unfold hodToPeer at e
  repeat' first | (simp only [reduceCtorEq] at e; done)
                | (simp only [Except.ok.injEq, Option.some.injEq, Prod.mk.injEq] at e; obtain rfl := e) | split at e
  all_goals repeat' first | with_reducible assumption | with_reducible apply hodPeer_ok
                          | with_reducible apply MemOk.updHop

theorem hodRead_ok {s : State} {o : HodOp} {pa : Nat} {e : TlbEnt} {t : State} {bs : List Byte} {n : Nat}
    (e1 : hodRead s o pa e = .ok t bs n) (h : MemOk s) : MemOk t := by
  unfold hodRead at e1
  split at e1
  · cases e1
  · rename_i e2
    have h2 := homeReadAt_ok e2 h
    split at e1
    · cases e1
    · split at e1
      · simp only [State.free_eq] at e1
        cases e1; exact h2
      · cases e1; exact h2

theorem hodPut_ok {s0 s : State} {op idx : Nat} {o : HodOp} {p : HPart} {dst : Option (Nat × TlbEnt)} {bs : List Byte}
    {t : Nat} (h0 : MemOk s0) (h : MemOk s) : MemOk (hodPut s0 s op idx o p dst bs t) := by
  unfold hodPut
  split
  · rename_i e; exact hodToPeer_ok e h
  · split
    · rename_i e; exact hodWrite_ok e h
    · exact h0

theorem hodMove_ok {s : State} {op idx : Nat} {o : HodOp} {p : HPart} {src dst : Option (Nat × TlbEnt)} (hm : MemOk s)
    : MemOk (hodMove s op idx o p src dst) := by
  unfold hodMove
  try dsimp only
  repeat' first | with_reducible assumption | with_reducible apply hodPut_ok | with_reducible apply coreTrap_ok
                | with_reducible apply hodLocal_ok | with_reducible apply hodPeer_ok
                | with_reducible apply storageTrap_ok | refine hodLocal_ok2 (by with_reducible assumption) ?_
                | refine hodRead_ok (by with_reducible assumption) ?_ | refine MemOk.ite ?_ ?_
                | with_reducible apply MemOk.wf | simp only [MemOk.mk_eq] | intro _ | split

theorem execHodPart_ok {op idx : Nat} {s : State} (hm : MemOk s) : OutOk (execHodPart op idx s) := by
  unfold execHodPart
  try dsimp only
  repeat' first | with_reducible assumption | with_reducible apply OutOk.next | with_reducible apply hodXlat_ok
                | with_reducible apply hodFault_ok | with_reducible apply hodMove_ok
                | refine hodXlat_ok2 (by with_reducible assumption) ?_ | refine OutOk.ite ?_ ?_
                | refine MemOk.ite ?_ ?_ | with_reducible apply MemOk.wf | simp only [MemOk.mk_eq] | intro _ | split

theorem execHodOperationComplete_ok {op : Nat} {s : State} (hm : MemOk s) : OutOk (execHodOperationComplete op s) :=
    by
  unfold execHodOperationComplete
  try dsimp only
  repeat' first | with_reducible assumption | with_reducible apply OutOk.next | with_reducible apply hodEnd_ok
                | refine OutOk.ite ?_ ?_ | refine MemOk.ite ?_ ?_ | with_reducible apply MemOk.wf
                | simp only [MemOk.mk_eq] | intro _ | split

/-! ## Machine/Walks.lean -/

theorem noteWord_ok {s : State} {id va : Nat} {word : DWord} (hm : MemOk s) : MemOk (noteWord s id va word) := by
  unfold noteWord
  try dsimp only
  repeat' first | with_reducible assumption | with_reducible apply MemOk.updWave

theorem walkWave_ok {r : Walk} {va : Nat} {s : State} {id : Nat} {a : Access} (hm : MemOk s) : MemOk
    (walkWave r va s id a) := by
  unfold walkWave
  try dsimp only
  repeat' first | with_reducible assumption | with_reducible apply fillTlbs_ok | with_reducible apply noteWord_ok
                | refine MemOk.ite ?_ ?_ | with_reducible apply MemOk.wf | simp only [MemOk.mk_eq] | intro _ | split

theorem walkWaiter_ok {r : Walk} {va : Nat} {s : State} {x : Waiter × Access} (hm : MemOk s) : MemOk
    (walkWaiter r va s x) := by
  unfold walkWaiter
  try dsimp only
  repeat' first | with_reducible assumption | with_reducible apply walkWave_ok | with_reducible apply fillOuter_ok
                | with_reducible apply hodFault_ok | with_reducible apply MemOk.wf | simp only [MemOk.mk_eq] | intro _
                | split

theorem walkFaults_ok {xs : List (Waiter × Access)} {s : State} (hm : MemOk s) : MemOk (walkFaults xs s) := by
  unfold walkFaults
  try dsimp only
  repeat' first | with_reducible assumption | with_reducible apply faultIfDone_ok | with_reducible apply MemOk.foldl
                | with_reducible apply MemOk.foldl_fst | with_reducible apply MemOk.foldl_snd | refine MemOk.ite ?_ ?_
                | with_reducible apply MemOk.wf | simp only [MemOk.mk_eq] | intro _ | split

theorem execPageWalk_ok {die idx : Nat} {s : State} (hm : MemOk s) : OutOk (execPageWalk die idx s) := by
  unfold execPageWalk
  try dsimp only
  repeat' first | with_reducible assumption | with_reducible apply OutOk.next | with_reducible apply walk_ok
                | with_reducible apply MemOk.updDie | with_reducible apply walkFaults_ok
                | with_reducible apply walkWaiter_ok | with_reducible apply MemOk.foldl
                | with_reducible apply MemOk.foldl_fst | with_reducible apply MemOk.foldl_snd
                | refine walk_ok2 (by with_reducible assumption) ?_ | refine OutOk.ite ?_ ?_ | refine MemOk.ite ?_ ?_
                | with_reducible apply MemOk.wf | simp only [MemOk.mk_eq] | intro _ | split

theorem tlbInv_ok {s : State} {part scope pasid vpn : Nat} (hm : MemOk s) : MemOk (tlbInv s part scope pasid vpn) :=
    by
  unfold tlbInv
  try dsimp only
  repeat' first | with_reducible assumption | with_reducible apply MemOk.setPart | refine MemOk.ite ?_ ?_

theorem execTlbInvPage_ok {part : Nat} {pasid : BitVec 20} {vpn : BitVec 40} {s : State} (hm : MemOk s) : OutOk
    (execTlbInvPage part pasid vpn s) := by
  unfold execTlbInvPage
  try dsimp only
  repeat' first | with_reducible assumption | with_reducible apply OutOk.next | with_reducible apply tlbInv_ok
                | with_reducible apply MemOk.stir

theorem execTlbInvPasid_ok {part : Nat} {pasid : BitVec 20} {s : State} (hm : MemOk s) : OutOk
    (execTlbInvPasid part pasid s) := by
  unfold execTlbInvPasid
  try dsimp only
  repeat' first | with_reducible assumption | with_reducible apply OutOk.next | with_reducible apply tlbInv_ok
                | with_reducible apply MemOk.stir

theorem execTlbInvPartition_ok {part : Nat} {s : State} (hm : MemOk s) : OutOk (execTlbInvPartition part s) := by
  unfold execTlbInvPartition
  try dsimp only
  repeat' first | with_reducible assumption | with_reducible apply OutOk.next | with_reducible apply tlbInv_ok
                | with_reducible apply MemOk.stir

theorem execTlbInvComplete_ok {part : Nat} {s : State} (hm : MemOk s) : OutOk (execTlbInvComplete part s) := by
  unfold execTlbInvComplete
  try dsimp only
  repeat' first | with_reducible assumption | with_reducible apply OutOk.next | with_reducible apply invalidate_ok
                | with_reducible apply MemOk.updPart | refine OutOk.ite ?_ ?_ | refine MemOk.ite ?_ ?_
                | with_reducible apply MemOk.wf | simp only [MemOk.mk_eq] | intro _ | split

theorem faultPtrs_ok {s : State} {part : Nat} {value : DWord} (hm : MemOk s) : MemOk (faultPtrs s part value) := by
  unfold faultPtrs
  try dsimp only
  repeat' first | with_reducible assumption | with_reducible apply MemOk.updPart | with_reducible apply drainHeld_ok
                | refine MemOk.ite ?_ ?_

/-! ## Machine/Roller.lean -/

theorem nextStream_ok {s : State} {t : Nat} (hm : MemOk s) : MemOk (nextStream s t) := by
  unfold nextStream
  try dsimp only
  repeat' first | with_reducible assumption | with_reducible apply MemOk.updTeam | with_reducible apply MemOk.updWave
                | with_reducible apply MemOk.wf | simp only [MemOk.mk_eq] | intro _ | split

theorem endStream_ok {s : State} {t : Nat} (hm : MemOk s) : MemOk (endStream s t) := by
  unfold endStream
  try dsimp only
  repeat' first | with_reducible assumption | with_reducible apply nextStream_ok | with_reducible apply recheckBars_ok
                | with_reducible apply MemOk.updTeam

theorem execMstart_ok {hd : Hdr} {a b : Src} {count : BitVec 8} {mask : BitVec 16} {s : State} (hm : MemOk s) : OutOk
    (execMstart hd a b count mask s) := by
  unfold execMstart
  try dsimp only
  repeat' first | with_reducible assumption | with_reducible apply OutOk.next | with_reducible apply issue_ok
                | with_reducible apply finishNext_ok | with_reducible apply trapCtx_ok | with_reducible apply block_ok
                | with_reducible apply nextStream_ok | with_reducible apply MemOk.updTeam | refine OutOk.ite ?_ ?_
                | refine MemOk.ite ?_ ?_ | with_reducible apply MemOk.wf | simp only [MemOk.mk_eq] | intro _

theorem execMstop_ok {hd : Hdr} {s : State} (hm : MemOk s) : OutOk (execMstop hd s) := by
  unfold execMstop
  try dsimp only
  repeat' first | with_reducible assumption | with_reducible apply OutOk.next | with_reducible apply issue_ok
                | with_reducible apply finishNext_ok | with_reducible apply trapCtx_ok
                | with_reducible apply raisePts_ok | with_reducible apply endStream_ok | refine OutOk.ite ?_ ?_
                | refine MemOk.ite ?_ ?_ | with_reducible apply MemOk.wf | simp only [MemOk.mk_eq] | intro _ | split

theorem fetchLine_ok {s : State} {core wave part pa n : Nat} {ms : Bool} (hm : MemOk s) : MemOk
    (fetchLine s core wave part pa n ms).1 := by
  unfold fetchLine
  simp only [State.newId_eq]
  repeat' first | with_reducible assumption | with_reducible apply MemOk.updCore | with_reducible apply victimHit_ok
                | with_reducible apply l1Fill_ok | with_reducible apply MemOk.afterId
                | with_reducible apply MemOk.afterFree | refine homeReadAt_ok (by with_reducible assumption) ?_
                | refine MemOk.ite ?_ ?_ | with_reducible apply MemOk.wf | simp only [MemOk.mk_eq] | intro _ | split

theorem fetchLine_ok2 {s : State} {core wave part pa n : Nat} {ms : Bool} {tt} {xx}
    (e : fetchLine s core wave part pa n ms = (tt, xx)) (hm : MemOk s) : MemOk tt := by
  have h2 : MemOk (fetchLine s core wave part pa n ms).1 := fetchLine_ok hm
  rw [e] at h2; exact h2

theorem fetchRun_ok {core wave part : Nat} {ms : Bool} {n pa k : Nat} {s : State} (h : MemOk s) :
    MemOk (fetchRun core wave part ms n pa k s).1 := by
  induction n generalizing pa k s with
  | zero => exact h
  | succ n ih =>
    unfold fetchRun
    dsimp only
    split <;> rename_i e <;> have h1 := fetchLine_ok2 e h
    · exact h1
    · split
      · exact h1
      · have h2 := ih (pa := pa + min k (128 - pa % 128)) (k := k - min k (128 - pa % 128)) h1
        split
        · rename_i e2; rw [e2] at h2; exact h2
        · exact h2
theorem fetchRun_ok2 {core wave part : Nat} {ms : Bool} {n pa k : Nat} {s : State} {t x}
    (e : fetchRun core wave part ms n pa k s = (t, x)) (h : MemOk s) : MemOk t := by
  have h2 := fetchRun_ok (core := core) (wave := wave) (part := part) (ms := ms) (n := n) (pa := pa) (k := k) h
  rw [e] at h2; exact h2

theorem fetchRuns_ok {core wave part : Nat} {l : List FRun} {s : State} (h : MemOk s) :
    MemOk (fetchRuns core wave part l s).1 := by
  induction l generalizing s with
  | nil => exact h
  | cons x l ih =>
    unfold fetchRuns
    split <;> rename_i e <;> have h1 := fetchRun_ok2 e h
    · exact h1
    · have h2 := ih h1
      split
      · rename_i e2; rw [e2] at h2; exact h2
      · exact h2
theorem fetchRuns_ok2 {core wave part : Nat} {l : List FRun} {s : State} {t x}
    (e : fetchRuns core wave part l s = (t, x)) (h : MemOk s) : MemOk t := by
  have h2 := fetchRuns_ok (core := core) (wave := wave) (part := part) (l := l) h
  rw [e] at h2; exact h2

theorem noFetch_ok {s0 s : State} {id : Nat} {w : Wave} {pc : DWord} {xs : List FRun} {x : NoFetch} (h0 : MemOk s0)
    (h : MemOk s) : MemOk (noFetch s0 s id w pc xs x) := by
  cases x
  · exact h0
  · exact faultWave_ok h0
  · exact coreTrap_ok h
  · exact storageTrap_ok h

theorem startStream_ok {s : State} {t : Nat} {f : MFetch} {bs : List Byte} (hm : MemOk s) : MemOk
    (startStream s t f bs) := by
  unfold startStream
  try dsimp only
  repeat' first | with_reducible assumption | with_reducible apply MemOk.updWave | with_reducible apply wake_ok
                | with_reducible apply MemOk.updTeam

theorem execRollerStreamFetched_ok {core : Nat} {s : State} (h : MemOk s) : OutOk (execRollerStreamFetched core s) :=
    by
  refine OutOk.next ?_
  dsimp only
  split
  · exact h
  · split
    · exact h
    · have h1 : ∀ {wt w l}, MemOk (xlatAll wt w l s).1 := fun {_ _ _} => xlatAll_ok h
      refine MemOk.ite (noteXlat_ok h1) (MemOk.ite (faultWave_ok h1) ?_)
      split
      · rename_i e; exact noFetch_ok h1 (fetchRuns_ok2 e h1)
      · rename_i e; exact startStream_ok (fetchRuns_ok2 e h1)

theorem rollTrap_ok {s : State} {t : Nat} {st : Stream} {code : Nat} {info : DWord} (hm : MemOk s) : MemOk
    (rollTrap s t st code info) := by
  unfold rollTrap
  try dsimp only
  repeat' first | with_reducible assumption | with_reducible apply teamTrapRec_ok

theorem rollDesc_ok {s : State} {t : Nat} {st : Stream} {i : Nat} (hm : MemOk s) : MemOk (rollDesc s t st i) := by
  unfold rollDesc
  try dsimp only
  repeat' first | with_reducible assumption | with_reducible apply rollTrap_ok

theorem rollStorage_ok {s : State} {t : Nat} {st : Stream} {unit : Nat} (hm : MemOk s) : MemOk
    (rollStorage s t st unit) := by
  unfold rollStorage
  try dsimp only
  repeat' first | with_reducible assumption | with_reducible apply rollTrap_ok

theorem rollGo_ok {s : State} {t : Nat} {st : Stream} (hm : MemOk s) : MemOk (rollGo s t st) := by
  unfold rollGo
  try dsimp only
  repeat' first | with_reducible assumption | with_reducible apply MemOk.updTeam

theorem rollOp_ok {s : State} {f : Nat → Stream → State} (hm : MemOk s) (hf : ∀ y0 y1, MemOk (f y0 y1)) : MemOk
    (rollOp s f) := by
  unfold rollOp
  try dsimp only
  repeat' first | with_reducible assumption | with_reducible apply hf | with_reducible apply MemOk.wf
                | simp only [MemOk.mk_eq] | intro _ | split

theorem execRollerUnassignedWord_ok {raw : Raw} {s : State} (hm : MemOk s) : OutOk (execRollerUnassignedWord raw s) :=
    by
  unfold execRollerUnassignedWord
  try dsimp only
  repeat' first | with_reducible assumption | with_reducible apply OutOk.next | with_reducible apply rollOp_ok
                | with_reducible apply rollTrap_ok | intro _

theorem readDescr_ok {s : State} {t i : Nat} {st : Stream} {ty : RTy} {good : Team → Desc → Bool} (hm : MemOk s) :
    MemOk (readDescr s t i st ty good).1 := by
  unfold readDescr
  try dsimp only
  repeat' first | with_reducible assumption | with_reducible apply rollDesc_ok | with_reducible apply rollStorage_ok
                | with_reducible apply localTouch_ok | refine localTouch_ok2 (by with_reducible assumption) ?_
                | refine MemOk.ite ?_ ?_ | intro _ | split

theorem readDescr_ok2 {s : State} {t i : Nat} {st : Stream} {ty : RTy} {good : Team → Desc → Bool} {tt} {xx}
    (e : readDescr s t i st ty good = (tt, xx)) (hm : MemOk s) : MemOk tt := by
  have h2 : MemOk (readDescr s t i st ty good).1 := readDescr_ok hm
  rw [e] at h2; exact h2

theorem putTile_ok {s : State} {t a : Nat} {v : Tbl Word} (hm : MemOk s) : MemOk (putTile s t a v) := by
  unfold putTile
  try dsimp only
  repeat' first | with_reducible assumption | with_reducible apply MemOk.updTeam

theorem readParts_ok {s : State} {gang core o n : Nat} (hm : MemOk s) : MemOk (readParts s gang core o n) := by
  unfold readParts
  try dsimp only
  repeat' first | with_reducible assumption | with_reducible apply localTouch_ok | with_reducible apply MemOk.foldl
                | with_reducible apply MemOk.foldl_fst | with_reducible apply MemOk.foldl_snd
                | refine localTouch_ok2 (by with_reducible assumption) ?_ | intro _

theorem readLines_ok {s : State} {t : Nat} {d : Desc} {lines len : Nat} (hm : MemOk s) : MemOk
    (readLines s t d lines len).1 := by
  unfold readLines
  try dsimp only
  repeat' first | with_reducible assumption | with_reducible apply readParts_ok | with_reducible apply MemOk.foldl
                | with_reducible apply MemOk.foldl_fst | with_reducible apply MemOk.foldl_snd | intro _

theorem readLines_ok2 {s : State} {t : Nat} {d : Desc} {lines len : Nat} {tt} {xx}
    (e : readLines s t d lines len = (tt, xx)) (hm : MemOk s) : MemOk tt := by
  have h2 : MemOk (readLines s t d lines len).1 := readLines_ok hm
  rw [e] at h2; exact h2

theorem readOperand_ok {s : State} {t : Nat} {d : Desc} {ty : RTy} {m k : Nat} (hm : MemOk s) : MemOk
    (readOperand s t d ty m k).1 := by
  unfold readOperand
  try dsimp only
  repeat' first | with_reducible assumption | with_reducible apply readLines_ok | with_reducible apply readParts_ok
                | refine readLines_ok2 (by with_reducible assumption) ?_ | refine MemOk.ite ?_ ?_

theorem readOperand_ok2 {s : State} {t : Nat} {d : Desc} {ty : RTy} {m k : Nat} {tt} {xx}
    (e : readOperand s t d ty m k = (tt, xx)) (hm : MemOk s) : MemOk tt := by
  have h2 : MemOk (readOperand s t d ty m k).1 := readOperand_ok hm
  rw [e] at h2; exact h2

theorem withTile_ok {s : State} {t : Nat} {st : Stream} {a : Nat} {k : State → State} (hm : MemOk s)
    (hk : ∀ y0, MemOk y0 → MemOk (k y0)) : MemOk (withTile s t st a k) := by
  unfold withTile
  try dsimp only
  repeat' first | with_reducible assumption | with_reducible apply rollStorage_ok | with_reducible apply hk
                | refine MemOk.ite ?_ ?_

theorem execMma_ok {tile : BitVec 4} {dA dB : BitVec 8} {kn : Bool} {ty : RTy} {s : State} (hm : MemOk s) : OutOk
    (execMma tile dA dB kn ty s) := by
  unfold execMma
  try dsimp only
  repeat' first | with_reducible assumption | with_reducible apply OutOk.next | with_reducible apply rollOp_ok
                | with_reducible apply rollDesc_ok | with_reducible apply readDescr_ok
                | with_reducible apply rollStorage_ok | with_reducible apply withTile_ok
                | with_reducible apply readOperand_ok | with_reducible apply rollGo_ok
                | with_reducible apply putTile_ok | refine readDescr_ok2 (by with_reducible assumption) ?_
                | refine readOperand_ok2 (by with_reducible assumption) ?_ | refine OutOk.ite ?_ ?_
                | refine MemOk.ite ?_ ?_ | with_reducible apply MemOk.wf | simp only [MemOk.mk_eq] | intro _ | split

theorem execMzero_ok {tile : BitVec 4} {s : State} (hm : MemOk s) : OutOk (execMzero tile s) := by
  unfold execMzero
  try dsimp only
  repeat' first | with_reducible assumption | with_reducible apply OutOk.next | with_reducible apply rollOp_ok
                | with_reducible apply rollGo_ok | with_reducible apply putTile_ok | intro _

theorem execMscale_ok {tile : BitVec 4} {f64t : Bool} {imm : Word} {s : State} (hm : MemOk s) : OutOk
    (execMscale tile f64t imm s) := by
  unfold execMscale
  try dsimp only
  repeat' first | with_reducible assumption | with_reducible apply OutOk.next | with_reducible apply rollOp_ok
                | with_reducible apply withTile_ok | with_reducible apply rollGo_ok | with_reducible apply putTile_ok
                | refine OutOk.ite ?_ ?_ | refine MemOk.ite ?_ ?_ | with_reducible apply MemOk.wf
                | simp only [MemOk.mk_eq] | intro _

theorem storeParts_ok {gang core n o : Nat} {bs : List Byte} {s : State} {m : Nat} (h : MemOk s) :
    MemOk (storeParts gang core n o bs s m).1 := by
  induction n generalizing s o bs m with
  | zero => exact h
  | succ n ih => exact ih (localStore_ok h)
theorem storeParts_ok2 {gang core n o : Nat} {bs : List Byte} {s : State} {m : Nat} {t x}
    (e : storeParts gang core n o bs s m = (t, x)) (h : MemOk s) : MemOk t := by
  have h2 := storeParts_ok (gang := gang) (core := core) (n := n) (o := o) (bs := bs) (m := m) h
  rw [e] at h2; exact h2

theorem execMstore_ok {dA : BitVec 8} {tile : BitVec 4} {rm : Rm} {ty : RTy} {s : State} (hm : MemOk s) : OutOk
    (execMstore dA tile rm ty s) := by
  unfold execMstore
  try dsimp only
  repeat' first | with_reducible assumption | with_reducible apply OutOk.next | with_reducible apply rollOp_ok
                | with_reducible apply readDescr_ok | with_reducible apply withTile_ok
                | with_reducible apply storeParts_ok | with_reducible apply rollGo_ok
                | with_reducible apply MemOk.foldl | with_reducible apply MemOk.foldl_fst
                | with_reducible apply MemOk.foldl_snd | refine readDescr_ok2 (by with_reducible assumption) ?_
                | refine storeParts_ok2 (by with_reducible assumption) ?_ | refine OutOk.ite ?_ ?_
                | refine MemOk.ite ?_ ?_ | with_reducible apply MemOk.wf | simp only [MemOk.mk_eq] | intro _ | split

theorem execMbar_ok {bn : BitVec 4} {s : State} (hm : MemOk s) : OutOk (execMbar bn s) := by
  unfold execMbar
  try dsimp only
  repeat' first | with_reducible assumption | with_reducible apply OutOk.next | with_reducible apply rollOp_ok
                | with_reducible apply rollTrap_ok | with_reducible apply setPhase_ok
                | with_reducible apply MemOk.updWave | with_reducible apply releaseBar_ok
                | with_reducible apply MemOk.updTeam | with_reducible apply MemOk.foldl
                | with_reducible apply MemOk.foldl_fst | with_reducible apply MemOk.foldl_snd | refine OutOk.ite ?_ ?_
                | refine MemOk.ite ?_ ?_ | with_reducible apply MemOk.wf | simp only [MemOk.mk_eq] | intro _

theorem execMloop_ok {step : BitVec 8} {body : BitVec 8} {count : BitVec 16} {s : State} (hm : MemOk s) : OutOk
    (execMloop step body count s) := by
  unfold execMloop
  try dsimp only
  repeat' first | with_reducible assumption | with_reducible apply OutOk.next | with_reducible apply rollOp_ok
                | with_reducible apply rollTrap_ok | with_reducible apply MemOk.updTeam | refine OutOk.ite ?_ ?_
                | refine MemOk.ite ?_ ?_ | with_reducible apply MemOk.wf | simp only [MemOk.mk_eq] | intro _

theorem execMend_ok {s : State} (hm : MemOk s) : OutOk (execMend s) := by
  unfold execMend
  try dsimp only
  repeat' first | with_reducible assumption | with_reducible apply OutOk.next | with_reducible apply rollOp_ok
                | with_reducible apply endStream_ok | intro _

theorem execMfmt_ok {freg : BitVec 3} {imm : BitVec 26} {s : State} (hm : MemOk s) : OutOk (execMfmt freg imm s) := by
  unfold execMfmt
  simp only [State.newId_eq]
  repeat' first | with_reducible assumption | with_reducible apply OutOk.next | with_reducible apply rollOp_ok
                | with_reducible apply rollGo_ok | with_reducible apply MemOk.updTeam
                | with_reducible apply MemOk.afterId | with_reducible apply MemOk.wf | simp only [MemOk.mk_eq]
                | intro _

/-! ## Machine/Halts.lean -/

theorem markWords_ok {s : State} {part : Nat} {cls : List Nat} {m : Nat × Nat} (hm : MemOk s) : MemOk
    (markWords s part cls m) := by
  unfold markWords
  try dsimp only
  repeat' first | with_reducible assumption | refine MemOk.ite ?_ ?_ | with_reducible apply MemOk.wf
                | simp only [MemOk.mk_eq]

theorem gridEnd_ok {s : State} {p v : Nat} (hm : MemOk s) : MemOk (gridEnd s p v) := by
  unfold gridEnd
  simp only [State.newId_eq]
  repeat' first | with_reducible assumption | with_reducible apply MemOk.setGrid | with_reducible apply dueResid_ok
                | with_reducible apply markWords_ok | with_reducible apply MemOk.afterId
                | with_reducible apply MemOk.foldl | with_reducible apply MemOk.foldl_fst
                | with_reducible apply MemOk.foldl_snd | refine MemOk.ite ?_ ?_ | with_reducible apply MemOk.wf
                | simp only [MemOk.mk_eq] | intro _ | split

theorem execGridCompletion_ok {part vertex : Nat} {s : State} (hm : MemOk s) : OutOk
    (execGridCompletion part vertex s) := by
  unfold execGridCompletion
  try dsimp only
  repeat' first | with_reducible assumption | with_reducible apply OutOk.next | with_reducible apply MemOk.setGrid
                | refine OutOk.ite ?_ ?_ | refine MemOk.ite ?_ ?_ | with_reducible apply MemOk.wf
                | simp only [MemOk.mk_eq] | intro _ | split

theorem retireGang_ok {s : State} {gid : Nat} (hm : MemOk s) : MemOk (retireGang s gid) := by
  unfold retireGang
  try dsimp only
  repeat' first | with_reducible assumption | with_reducible apply MemOk.updPart | with_reducible apply MemOk.updGrid
                | with_reducible apply gridEnd_ok | with_reducible apply askDispatch_ok
                | with_reducible apply MemOk.wf | simp only [MemOk.mk_eq] | intro _ | split

theorem retireTeam_ok {s : State} {t : Nat} (hm : MemOk s) : MemOk (retireTeam s t) := by
  unfold retireTeam
  try dsimp only
  repeat' first | with_reducible assumption | with_reducible apply retireGang_ok | refine MemOk.ite ?_ ?_
                | with_reducible apply MemOk.wf | simp only [MemOk.mk_eq]

theorem raiseTop_ok {s : State} {k t : Nat} (hm : MemOk s) : MemOk (raiseTop s k t) := by
  unfold raiseTop
  try dsimp only
  repeat' first | with_reducible assumption | with_reducible apply MemOk.updGrid

theorem stirLeft_ok {s : State} {p : Nat} {ids : List Nat} (hm : MemOk s) : MemOk (stirLeft s p ids) := by
  unfold stirLeft
  try dsimp only
  repeat' first | with_reducible assumption | with_reducible apply MemOk.stir | refine MemOk.ite ?_ ?_

theorem leaveReqs_ok {s : State} {id : Nat} {w : Wave} (hm : MemOk s) : MemOk (leaveReqs s id w) := by
  unfold leaveReqs
  try dsimp only
  repeat' first | with_reducible assumption | with_reducible apply MemOk.updGrid | refine MemOk.ite ?_ ?_
                | with_reducible apply MemOk.wf | simp only [MemOk.mk_eq]

theorem execWaveRetirement_ok {wave : Nat} {s : State} (hm : MemOk s) : OutOk (execWaveRetirement wave s) := by
  unfold execWaveRetirement
  try dsimp only
  repeat' first | with_reducible assumption | with_reducible apply OutOk.next | with_reducible apply raiseTop_ok
                | with_reducible apply MemOk.stir | with_reducible apply retireTeam_ok
                | with_reducible apply hodLeave_ok | with_reducible apply leaveReqs_ok | refine OutOk.ite ?_ ?_
                | refine MemOk.ite ?_ ?_ | with_reducible apply MemOk.wf | simp only [MemOk.mk_eq] | intro _ | split

theorem dropReqs_ok {s : State} {ids : List Nat} (hm : MemOk s) : MemOk (dropReqs s ids) := by
  unfold dropReqs
  try dsimp only
  repeat' first | with_reducible assumption | refine MemOk.ite ?_ ?_ | with_reducible apply MemOk.wf
                | simp only [MemOk.mk_eq]

theorem dropHods_ok {s : State} {t : Nat} (hm : MemOk s) : MemOk (dropHods s t) := by
  unfold dropHods
  try dsimp only
  repeat' first | with_reducible assumption | with_reducible apply snapDrop_ok | with_reducible apply dropOp_ok
                | with_reducible apply MemOk.foldl | with_reducible apply MemOk.foldl_fst
                | with_reducible apply MemOk.foldl_snd | with_reducible apply MemOk.wf | simp only [MemOk.mk_eq]
                | intro _ | split

theorem dropWalks_ok {s : State} {ids : List Nat} (hm : MemOk s) : MemOk (dropWalks s ids) := by
  unfold dropWalks
  try dsimp only
  repeat' first | with_reducible assumption | with_reducible apply MemOk.wf | simp only [MemOk.mk_eq]

theorem queueAgain_ok {s : State} {gid since : Nat} (hm : MemOk s) : MemOk (queueAgain s gid since) := by
  unfold queueAgain
  try dsimp only
  repeat' first | with_reducible assumption | with_reducible apply MemOk.updGrid | with_reducible apply askDispatch_ok
                | with_reducible apply enqueue_ok | refine MemOk.ite ?_ ?_

theorem gangSaved_ok {s : State} {gid : Nat} (hm : MemOk s) : MemOk (gangSaved s gid) := by
  unfold gangSaved
  try dsimp only
  repeat' first | with_reducible assumption | with_reducible apply MemOk.setGang | with_reducible apply askDispatch_ok
                | with_reducible apply queueAgain_ok | refine MemOk.ite ?_ ?_

theorem killTeam_ok {s : State} {t : Nat} (hm : MemOk s) : MemOk (killTeam s t) := by
  unfold killTeam
  try dsimp only
  repeat' first | with_reducible assumption | with_reducible apply stirLeft_ok | with_reducible apply closeLanes_ok
                | with_reducible apply snapDrop_ok | with_reducible apply dropHods_ok | with_reducible apply dropOp_ok
                | with_reducible apply raiseTop_ok | with_reducible apply dropReqs_ok
                | with_reducible apply dropWalks_ok | with_reducible apply releaseBar_ok
                | with_reducible apply retireGang_ok | with_reducible apply gangSaved_ok
                | with_reducible apply MemOk.foldl | with_reducible apply MemOk.foldl_fst
                | with_reducible apply MemOk.foldl_snd | refine MemOk.ite ?_ ?_ | with_reducible apply MemOk.wf
                | simp only [MemOk.mk_eq] | intro _ | split

theorem killGrid_ok {s : State} {p v : Nat} (hm : MemOk s) : MemOk (killGrid s p v) := by
  unfold killGrid
  try dsimp only
  repeat' first | with_reducible assumption | with_reducible apply MemOk.setGrid | with_reducible apply dequeue_ok
                | with_reducible apply gridEnd_ok | with_reducible apply killTeam_ok
                | with_reducible apply MemOk.foldl | with_reducible apply MemOk.foldl_fst
                | with_reducible apply MemOk.foldl_snd | with_reducible apply MemOk.wf | simp only [MemOk.mk_eq]
                | intro _ | split

theorem haltGang_ok {s : State} {gid : Nat} {goal : Life} (hm : MemOk s) : MemOk (haltGang s gid goal) := by
  unfold haltGang
  try dsimp only
  repeat' first | with_reducible assumption | with_reducible apply stirLeft_ok | with_reducible apply MemOk.setGang
                | with_reducible apply MemOk.updTeam | with_reducible apply MemOk.updGrid
                | with_reducible apply dequeue_ok | with_reducible apply MemOk.foldl
                | with_reducible apply MemOk.foldl_fst | with_reducible apply MemOk.foldl_snd | refine MemOk.ite ?_ ?_
                | with_reducible apply MemOk.wf | simp only [MemOk.mk_eq] | intro _ | split

theorem orphanReqs_ok {s : State} {id : Nat} (hm : MemOk s) : MemOk (orphanReqs s id) := by
  unfold orphanReqs
  try dsimp only
  repeat' first | with_reducible assumption | refine MemOk.ite ?_ ?_ | with_reducible apply MemOk.wf
                | simp only [MemOk.mk_eq]

theorem endMwait_ok {s : State} {id : Nat} (hm : MemOk s) : MemOk (endMwait s id) := by
  unfold endMwait
  try dsimp only
  repeat' first | with_reducible assumption | with_reducible apply endFlight_ok | with_reducible apply MemOk.updWave
                | refine MemOk.ite ?_ ?_ | with_reducible apply MemOk.wf | simp only [MemOk.mk_eq] | intro _ | split

theorem endPrefs_ok {s : State} {id : Nat} (hm : MemOk s) : MemOk (endPrefs s id) := by
  unfold endPrefs
  try dsimp only
  repeat' first | with_reducible assumption | with_reducible apply endFlight_ok | with_reducible apply MemOk.foldl

theorem keptResults_ok {s : State} {id : Nat} (hm : MemOk s) : MemOk (keptResults s id) := by
  unfold keptResults
  try dsimp only
  repeat' first | with_reducible assumption | with_reducible apply deliverKept_ok | with_reducible apply MemOk.foldl

theorem haltWave_ok {s : State} {id : Nat} (hm : MemOk s) : MemOk (haltWave s id) := by
  unfold haltWave
  try dsimp only
  repeat' first | with_reducible assumption | with_reducible apply endMwait_ok | with_reducible apply endPrefs_ok
                | with_reducible apply keptResults_ok | with_reducible apply suspendWave_ok
                | with_reducible apply orphanReqs_ok | with_reducible apply dropWalks_ok
                | with_reducible apply MemOk.updWave | refine MemOk.ite ?_ ?_

theorem execTeamHalted_ok {team : Nat} {s : State} (hm : MemOk s) : OutOk (execTeamHalted team s) := by
  unfold execTeamHalted
  try dsimp only
  repeat' first | with_reducible assumption | with_reducible apply OutOk.next | with_reducible apply haltWave_ok
                | with_reducible apply MemOk.updTeam | with_reducible apply flushCluster_ok
                | with_reducible apply MemOk.foldl | with_reducible apply MemOk.foldl_fst
                | with_reducible apply MemOk.foldl_snd | refine OutOk.ite ?_ ?_ | refine MemOk.ite ?_ ?_
                | with_reducible apply MemOk.wf | simp only [MemOk.mk_eq] | intro _ | split

theorem execTeamSaved_ok {team : Nat} {s : State} (hm : MemOk s) : OutOk (execTeamSaved team s) := by
  unfold execTeamSaved
  try dsimp only
  repeat' first | with_reducible assumption | with_reducible apply OutOk.next | with_reducible apply gangSaved_ok
                | with_reducible apply MemOk.updTeam | refine OutOk.ite ?_ ?_ | refine MemOk.ite ?_ ?_
                | with_reducible apply MemOk.wf | simp only [MemOk.mk_eq] | intro _ | split

theorem takeSplit_ok {s : State} {core split : Nat} (hm : MemOk s) : MemOk (takeSplit s core split) := by
  unfold takeSplit
  try dsimp only
  repeat' first | with_reducible assumption | with_reducible apply MemOk.updCore

theorem placeTeam_ok {s : State} {g : Grid} {gang core q j : Nat} (hm : MemOk s) : MemOk (placeTeam s g gang core q j)
    := by
  unfold placeTeam
  simp only [State.newId_eq]
  repeat' first | with_reducible assumption | with_reducible apply raisePts_ok | with_reducible apply takeSplit_ok
                | with_reducible apply MemOk.setTeam | with_reducible apply MemOk.setWave
                | with_reducible apply MemOk.afterId | with_reducible apply MemOk.foldl
                | with_reducible apply MemOk.foldl_fst | with_reducible apply MemOk.foldl_snd | refine MemOk.ite ?_ ?_
                | with_reducible apply MemOk.wf | simp only [MemOk.mk_eq] | intro _

theorem placeGang_ok {s : State} {p v cluster j0 : Nat} {tt} (e : placeGang s p v cluster j0 = some tt) (hm : MemOk s)
    : MemOk tt := by
  unfold placeGang at e
  simp only [State.newId_eq] at e
  repeat' first | (simp only [reduceCtorEq] at e; done)
                | (simp only [Except.ok.injEq, Option.some.injEq, Prod.mk.injEq] at e; obtain rfl := e) | split at e
  all_goals repeat' first | with_reducible assumption | with_reducible apply placeTeam_ok
                          | with_reducible apply MemOk.setGang | with_reducible apply MemOk.updPart
                          | with_reducible apply MemOk.setGrid | with_reducible apply MemOk.afterId
                          | with_reducible apply MemOk.foldl | with_reducible apply MemOk.foldl_fst
                          | with_reducible apply MemOk.foldl_snd
                          | refine recWrite_ok (by with_reducible assumption) ?_ | refine MemOk.ite ?_ ?_
                          | with_reducible apply MemOk.wf | simp only [MemOk.mk_eq] | intro _

theorem sendPackets_ok {id : Nat} {n : List Packet} {s : State} (hm : MemOk s) : MemOk (sendPackets id n s) := by
  induction n generalizing s with
  | nil => exact hm
  | cons x n ih =>
    unfold sendPackets
    try simp only [State.free_eq]
    repeat' first | with_reducible assumption | with_reducible apply MemOk.updWave | with_reducible apply ih
                  | refine MemOk.ite ?_ ?_ | with_reducible apply MemOk.wf | simp only [MemOk.mk_eq]

theorem reissue_ok {s : State} {id : Nat} (hm : MemOk s) : MemOk (reissue s id) := by
  unfold reissue
  try dsimp only
  repeat' first | with_reducible assumption | with_reducible apply sendPackets_ok | with_reducible apply MemOk.updWave

theorem renumber_ok {l : List Packet} {s : State} (h : MemOk s) : MemOk (renumber l s).2 := by
  induction l generalizing s with
  | nil => exact h
  | cons x l ih =>
    unfold renumber
    simp only [State.newId_eq]
    exact ih (MemOk.afterId h)
theorem renumber_ok2 {l : List Packet} {s : State} {t x} (e : renumber l s = (x, t)) (h : MemOk s) : MemOk t := by
  have h2 := renumber_ok (l := l) h
  rw [e] at h2; exact h2

theorem resumeWave_ok {s : State} {id core : Nat} {at_ : Nat × Nat} (hm : MemOk s) : MemOk (resumeWave s id core at_)
    := by
  unfold resumeWave
  try dsimp only
  repeat' first | with_reducible assumption | with_reducible apply renumber_ok | with_reducible apply reissue_ok
                | with_reducible apply MemOk.setWave

theorem resumeTeam_ok {s : State} {g : Grid} {t core : Nat} (hm : MemOk s) : MemOk (resumeTeam s g t core) := by
  unfold resumeTeam
  try dsimp only
  repeat' first | with_reducible assumption | with_reducible apply raisePts_ok | with_reducible apply takeSplit_ok
                | with_reducible apply MemOk.setTeam | with_reducible apply resumeWave_ok
                | with_reducible apply MemOk.foldl | with_reducible apply MemOk.foldl_fst
                | with_reducible apply MemOk.foldl_snd | refine MemOk.ite ?_ ?_ | with_reducible apply MemOk.wf
                | simp only [MemOk.mk_eq] | intro _

theorem resumeGang_ok {s : State} {gid cluster j0 : Nat} (hm : MemOk s) : MemOk (resumeGang s gid cluster j0) := by
  unfold resumeGang
  try dsimp only
  repeat' first | with_reducible assumption | with_reducible apply resumeTeam_ok | with_reducible apply MemOk.setGang
                | with_reducible apply MemOk.setGrid | with_reducible apply MemOk.foldl
                | with_reducible apply MemOk.foldl_fst | with_reducible apply MemOk.foldl_snd | refine MemOk.ite ?_ ?_
                | with_reducible apply MemOk.wf | simp only [MemOk.mk_eq] | intro _

theorem freeWave_ok {s : State} {id : Nat} {r : FRec} (hm : MemOk s) : MemOk (freeWave s id r) := by
  unfold freeWave
  try dsimp only
  repeat' first | with_reducible assumption | with_reducible apply MemOk.setWave | with_reducible apply reissue_ok
                | refine MemOk.ite ?_ ?_

theorem freeRec_ok {s : State} {r : FRec} (hm : MemOk s) : MemOk (freeRec s r) := by
  unfold freeRec
  try dsimp only
  repeat' first | with_reducible assumption | with_reducible apply hodRelease_ok | with_reducible apply freeWave_ok
                | with_reducible apply MemOk.updTeam | with_reducible apply MemOk.foldl
                | with_reducible apply MemOk.foldl_fst | with_reducible apply MemOk.foldl_snd | refine MemOk.ite ?_ ?_
                | with_reducible apply MemOk.wf | simp only [MemOk.mk_eq] | intro _ | split

theorem resumeRec_ok {s : State} {p fid : Nat} (hm : MemOk s) : MemOk (resumeRec s p fid) := by
  unfold resumeRec
  try dsimp only
  repeat' first | with_reducible assumption | with_reducible apply freeRec_ok | with_reducible apply MemOk.updPart
                | refine MemOk.ite ?_ ?_ | with_reducible apply MemOk.wf | simp only [MemOk.mk_eq] | intro _ | split

theorem freeWritten_ok {s : State} {p : Nat} (hm : MemOk s) : MemOk (freeWritten s p) := by
  unfold freeWritten
  try dsimp only
  repeat' first | with_reducible assumption | with_reducible apply resumeRec_ok | with_reducible apply MemOk.foldl
                | with_reducible apply MemOk.foldl_fst | with_reducible apply MemOk.foldl_snd | intro _

theorem execFaultPtrsWrite_ok {part : Nat} {value : DWord} {s : State} (hm : MemOk s) : OutOk
    (execFaultPtrsWrite part value s) := by
  unfold execFaultPtrsWrite
  try dsimp only
  repeat' first | with_reducible assumption | with_reducible apply OutOk.next | with_reducible apply freeWritten_ok
                | with_reducible apply faultPtrs_ok | with_reducible apply MemOk.stir

theorem freePages_ok {s : State} {p fid : Nat} (hm : MemOk s) : MemOk (freePages s p fid) := by
  unfold freePages
  try dsimp only
  repeat' first | with_reducible assumption | with_reducible apply MemOk.setDie | with_reducible apply recordFault_ok
                | with_reducible apply MemOk.foldl | with_reducible apply MemOk.foldl_fst
                | with_reducible apply MemOk.foldl_snd | with_reducible apply MemOk.wf | simp only [MemOk.mk_eq]
                | intro _

theorem releaseGang_ok {s : State} {gid : Nat} (hm : MemOk s) : MemOk (releaseGang s gid) := by
  unfold releaseGang
  try dsimp only
  repeat' first | with_reducible assumption | with_reducible apply resumeRec_ok | with_reducible apply queueAgain_ok
                | with_reducible apply MemOk.setGang | with_reducible apply MemOk.foldl
                | with_reducible apply MemOk.foldl_fst | with_reducible apply MemOk.foldl_snd
                | with_reducible apply MemOk.wf | simp only [MemOk.mk_eq] | intro _ | split

theorem sweepFaults_ok {s : State} {p : Nat} (hm : MemOk s) : MemOk (sweepFaults s p) := by
  unfold sweepFaults
  try dsimp only
  repeat' first | with_reducible assumption | with_reducible apply freePages_ok | with_reducible apply resumeRec_ok
                | with_reducible apply MemOk.foldl | with_reducible apply MemOk.foldl_fst
                | with_reducible apply MemOk.foldl_snd | intro _

theorem faultAction_ok {s : State} {p fid : Nat} {r : FRec} {a : Action} (hm : MemOk s) : MemOk
    (faultAction s p fid r a) := by
  unfold faultAction
  try dsimp only
  repeat' first | with_reducible assumption | with_reducible apply freePages_ok | with_reducible apply resumeRec_ok
                | with_reducible apply haltGang_ok | with_reducible apply MemOk.updGang
                | with_reducible apply sweepFaults_ok | with_reducible apply killTeam_ok
                | with_reducible apply killGrid_ok | with_reducible apply escalation_ok
                | with_reducible apply MemOk.foldl | with_reducible apply MemOk.foldl_fst
                | with_reducible apply MemOk.foldl_snd | refine MemOk.ite ?_ ?_ | with_reducible apply MemOk.wf
                | simp only [MemOk.mk_eq] | intro _ | split

/-! ## Machine/Policy.lean -/

theorem setDec_ok {s : State} {p : Nat} {d : Decision} (hm : MemOk s) : MemOk (setDec s p d) := by
  unfold setDec
  try dsimp only
  repeat' first | with_reducible assumption | with_reducible apply MemOk.updPart

theorem overrun_ok {s : State} {p : Nat} {d : Decision} (hm : MemOk s) : MemOk (overrun s p d) := by
  unfold overrun
  try dsimp only
  repeat' first | with_reducible assumption | with_reducible apply setDec_ok | with_reducible apply MemOk.updPart

theorem invalidEnd_ok {s : State} {p : Nat} {d : Decision} (hm : MemOk s) : MemOk (invalidEnd s p d) := by
  unfold invalidEnd
  try dsimp only
  repeat' first | with_reducible assumption | with_reducible apply setDec_ok | with_reducible apply MemOk.updPart

theorem polGo_ok {s : State} {p : Nat} {d : Decision} {k : Nat} (hm : MemOk s) : MemOk (polGo s p d k) := by
  unfold polGo
  try dsimp only
  repeat' first | with_reducible assumption | with_reducible apply setDec_ok | with_reducible apply overrun_ok
                | refine MemOk.ite ?_ ?_ | with_reducible apply MemOk.wf | simp only [MemOk.mk_eq] | intro _ | split

theorem polWord_ok {s : State} {cost : Decision → Nat} {eff : Nat → Decision → State → State} (hm : MemOk s)
    (heff : ∀ y0 y1 y2, MemOk y2 → MemOk (eff y0 y1 y2)) : MemOk (polWord s cost eff) := by
  unfold polWord
  try dsimp only
  repeat' first | with_reducible assumption | with_reducible apply overrun_ok | with_reducible apply heff
                | refine MemOk.ite ?_ ?_ | with_reducible apply MemOk.wf | simp only [MemOk.mk_eq] | intro _ | split

theorem polSet_ok {s : State} {cost : Decision → Nat} {dst : BitVec 4} {f : Decision → Word} (hm : MemOk s) : MemOk
    (polSet s cost dst f) := by
  unfold polSet
  try dsimp only
  repeat' first | with_reducible assumption | with_reducible apply polWord_ok | with_reducible apply polGo_ok
                | intro _

theorem execPolicyLi_ok {d : BitVec 4} {i : BitVec 14} {s : State} (hm : MemOk s) : OutOk (execPolicyLi d i s) := by
  unfold execPolicyLi
  try dsimp only
  repeat' first | with_reducible assumption | with_reducible apply OutOk.next | with_reducible apply polSet_ok

theorem execPolicyLui_ok {d : BitVec 4} {i : BitVec 14} {s : State} (hm : MemOk s) : OutOk (execPolicyLui d i s) := by
  unfold execPolicyLui
  try dsimp only
  repeat' first | with_reducible assumption | with_reducible apply OutOk.next | with_reducible apply polSet_ok

theorem execPolicyAddi_ok {d a : BitVec 4} {i : BitVec 14} {s : State} (hm : MemOk s) : OutOk (execPolicyAddi d a i s)
    := by
  unfold execPolicyAddi
  try dsimp only
  repeat' first | with_reducible assumption | with_reducible apply OutOk.next | with_reducible apply polSet_ok

theorem polAlu_ok {s : State} {d a b : BitVec 4} {f : Word → Word → Word} (hm : MemOk s) : MemOk (polAlu s d a b f) :=
    by
  unfold polAlu
  try dsimp only
  repeat' first | with_reducible assumption | with_reducible apply polSet_ok

theorem execPolicyAdd_ok {d a b : BitVec 4} {s : State} (hm : MemOk s) : OutOk (execPolicyAdd d a b s) := by
  unfold execPolicyAdd
  try dsimp only
  repeat' first | with_reducible assumption | with_reducible apply OutOk.next | with_reducible apply polAlu_ok

theorem execPolicySub_ok {d a b : BitVec 4} {s : State} (hm : MemOk s) : OutOk (execPolicySub d a b s) := by
  unfold execPolicySub
  try dsimp only
  repeat' first | with_reducible assumption | with_reducible apply OutOk.next | with_reducible apply polAlu_ok

theorem execPolicyAnd_ok {d a b : BitVec 4} {s : State} (hm : MemOk s) : OutOk (execPolicyAnd d a b s) := by
  unfold execPolicyAnd
  try dsimp only
  repeat' first | with_reducible assumption | with_reducible apply OutOk.next | with_reducible apply polAlu_ok

theorem execPolicyOr_ok {d a b : BitVec 4} {s : State} (hm : MemOk s) : OutOk (execPolicyOr d a b s) := by
  unfold execPolicyOr
  try dsimp only
  repeat' first | with_reducible assumption | with_reducible apply OutOk.next | with_reducible apply polAlu_ok

theorem execPolicyXor_ok {d a b : BitVec 4} {s : State} (hm : MemOk s) : OutOk (execPolicyXor d a b s) := by
  unfold execPolicyXor
  try dsimp only
  repeat' first | with_reducible assumption | with_reducible apply OutOk.next | with_reducible apply polAlu_ok

theorem execPolicyShl_ok {d a b : BitVec 4} {s : State} (hm : MemOk s) : OutOk (execPolicyShl d a b s) := by
  unfold execPolicyShl
  try dsimp only
  repeat' first | with_reducible assumption | with_reducible apply OutOk.next | with_reducible apply polAlu_ok

theorem execPolicyShr_ok {d a b : BitVec 4} {s : State} (hm : MemOk s) : OutOk (execPolicyShr d a b s) := by
  unfold execPolicyShr
  try dsimp only
  repeat' first | with_reducible assumption | with_reducible apply OutOk.next | with_reducible apply polAlu_ok

theorem execPolicyMinu_ok {d a b : BitVec 4} {s : State} (hm : MemOk s) : OutOk (execPolicyMinu d a b s) := by
  unfold execPolicyMinu
  try dsimp only
  repeat' first | with_reducible assumption | with_reducible apply OutOk.next | with_reducible apply polAlu_ok

theorem execPolicyMaxu_ok {d a b : BitVec 4} {s : State} (hm : MemOk s) : OutOk (execPolicyMaxu d a b s) := by
  unfold execPolicyMaxu
  try dsimp only
  repeat' first | with_reducible assumption | with_reducible apply OutOk.next | with_reducible apply polAlu_ok

theorem execPolicySltu_ok {d a b : BitVec 4} {s : State} (hm : MemOk s) : OutOk (execPolicySltu d a b s) := by
  unfold execPolicySltu
  try dsimp only
  repeat' first | with_reducible assumption | with_reducible apply OutOk.next | with_reducible apply polAlu_ok

theorem execPolicyVq_ok {d a f : BitVec 4} {s : State} (hm : MemOk s) : OutOk (execPolicyVq d a f s) := by
  unfold execPolicyVq
  try dsimp only
  repeat' first | with_reducible assumption | with_reducible apply OutOk.next | with_reducible apply polSet_ok

theorem execPolicyVs_ok {d a f : BitVec 4} {s : State} (hm : MemOk s) : OutOk (execPolicyVs d a f s) := by
  unfold execPolicyVs
  try dsimp only
  repeat' first | with_reducible assumption | with_reducible apply OutOk.next | with_reducible apply polSet_ok

theorem execPolicyVp_ok {d a f : BitVec 4} {s : State} (hm : MemOk s) : OutOk (execPolicyVp d a f s) := by
  unfold execPolicyVp
  try dsimp only
  repeat' first | with_reducible assumption | with_reducible apply OutOk.next | with_reducible apply polSet_ok

theorem execPolicyVf_ok {d f : BitVec 4} {s : State} (hm : MemOk s) : OutOk (execPolicyVf d f s) := by
  unfold execPolicyVf
  try dsimp only
  repeat' first | with_reducible assumption | with_reducible apply OutOk.next | with_reducible apply polSet_ok

theorem execPolicyVg_ok {d f : BitVec 4} {s : State} (hm : MemOk s) : OutOk (execPolicyVg d f s) := by
  unfold execPolicyVg
  try dsimp only
  repeat' first | with_reducible assumption | with_reducible apply OutOk.next | with_reducible apply polSet_ok

theorem execPolicyFit_ok {d a b : BitVec 4} {s : State} (hm : MemOk s) : OutOk (execPolicyFit d a b s) := by
  unfold execPolicyFit
  try dsimp only
  repeat' first | with_reducible assumption | with_reducible apply OutOk.next | with_reducible apply polSet_ok

theorem execPolicyFind_ok {d a b : BitVec 4} {s : State} (hm : MemOk s) : OutOk (execPolicyFind d a b s) := by
  unfold execPolicyFind
  try dsimp only
  repeat' first | with_reducible assumption | with_reducible apply OutOk.next | with_reducible apply polSet_ok

theorem polBranch_ok {s : State} {i : BitVec 14} {taken : Decision → Bool} (hm : MemOk s) : MemOk
    (polBranch s i taken) := by
  unfold polBranch
  try dsimp only
  repeat' first | with_reducible assumption | with_reducible apply polWord_ok | with_reducible apply polGo_ok
                | refine MemOk.ite ?_ ?_ | intro _

theorem execPolicyBeq_ok {a b : BitVec 4} {i : BitVec 14} {s : State} (hm : MemOk s) : OutOk (execPolicyBeq a b i s)
    := by
  unfold execPolicyBeq
  try dsimp only
  repeat' first | with_reducible assumption | with_reducible apply OutOk.next | with_reducible apply polBranch_ok

theorem execPolicyBne_ok {a b : BitVec 4} {i : BitVec 14} {s : State} (hm : MemOk s) : OutOk (execPolicyBne a b i s)
    := by
  unfold execPolicyBne
  try dsimp only
  repeat' first | with_reducible assumption | with_reducible apply OutOk.next | with_reducible apply polBranch_ok

theorem execPolicyBltu_ok {a b : BitVec 4} {i : BitVec 14} {s : State} (hm : MemOk s) : OutOk (execPolicyBltu a b i s)
    := by
  unfold execPolicyBltu
  try dsimp only
  repeat' first | with_reducible assumption | with_reducible apply OutOk.next | with_reducible apply polBranch_ok

theorem execPolicyBgeu_ok {a b : BitVec 4} {i : BitVec 14} {s : State} (hm : MemOk s) : OutOk (execPolicyBgeu a b i s)
    := by
  unfold execPolicyBgeu
  try dsimp only
  repeat' first | with_reducible assumption | with_reducible apply OutOk.next | with_reducible apply polBranch_ok

theorem execPolicyBra_ok {i : BitVec 14} {s : State} (hm : MemOk s) : OutOk (execPolicyBra i s) := by
  unfold execPolicyBra
  try dsimp only
  repeat' first | with_reducible assumption | with_reducible apply OutOk.next | with_reducible apply polBranch_ok

theorem execQloop_ok {d : BitVec 4} {n : BitVec 14} {s : State} (hm : MemOk s) : OutOk (execQloop d n s) := by
  unfold execQloop
  try dsimp only
  repeat' first | with_reducible assumption | with_reducible apply OutOk.next | with_reducible apply polWord_ok
                | with_reducible apply setDec_ok | with_reducible apply MemOk.wf | simp only [MemOk.mk_eq] | intro _

theorem polEnd_ok {s : State} {act : Decision → Action} {ok : Decision → Bool} (hm : MemOk s) : MemOk
    (polEnd s act ok) := by
  unfold polEnd
  try dsimp only
  repeat' first | with_reducible assumption | with_reducible apply polWord_ok | with_reducible apply setDec_ok
                | with_reducible apply invalidEnd_ok | refine MemOk.ite ?_ ?_ | with_reducible apply MemOk.wf
                | simp only [MemOk.mk_eq] | intro _

theorem execPolicyEndNone_ok {s : State} (hm : MemOk s) : OutOk (execPolicyEndNone s) := by
  unfold execPolicyEndNone
  try dsimp only
  repeat' first | with_reducible assumption | with_reducible apply OutOk.next | with_reducible apply polEnd_ok

theorem execPolicyEndPlace_ok {a b : BitVec 4} {s : State} (hm : MemOk s) : OutOk (execPolicyEndPlace a b s) := by
  unfold execPolicyEndPlace
  try dsimp only
  repeat' first | with_reducible assumption | with_reducible apply OutOk.next | with_reducible apply polEnd_ok

theorem execPolicyEndPreempt_ok {a : BitVec 4} {s : State} (hm : MemOk s) : OutOk (execPolicyEndPreempt a s) := by
  unfold execPolicyEndPreempt
  try dsimp only
  repeat' first | with_reducible assumption | with_reducible apply OutOk.next | with_reducible apply polEnd_ok

theorem execPolicyEndResume_ok {s : State} (hm : MemOk s) : OutOk (execPolicyEndResume s) := by
  unfold execPolicyEndResume
  try dsimp only
  repeat' first | with_reducible assumption | with_reducible apply OutOk.next | with_reducible apply polEnd_ok

theorem execPolicyEndSuspend_ok {s : State} (hm : MemOk s) : OutOk (execPolicyEndSuspend s) := by
  unfold execPolicyEndSuspend
  try dsimp only
  repeat' first | with_reducible assumption | with_reducible apply OutOk.next | with_reducible apply polEnd_ok

theorem execPolicyEndKillteam_ok {s : State} (hm : MemOk s) : OutOk (execPolicyEndKillteam s) := by
  unfold execPolicyEndKillteam
  try dsimp only
  repeat' first | with_reducible assumption | with_reducible apply OutOk.next | with_reducible apply polEnd_ok

theorem execPolicyEndKillgrid_ok {s : State} (hm : MemOk s) : OutOk (execPolicyEndKillgrid s) := by
  unfold execPolicyEndKillgrid
  try dsimp only
  repeat' first | with_reducible assumption | with_reducible apply OutOk.next | with_reducible apply polEnd_ok

theorem execPolicyEndEscalate_ok {s : State} (hm : MemOk s) : OutOk (execPolicyEndEscalate s) := by
  unfold execPolicyEndEscalate
  try dsimp only
  repeat' first | with_reducible assumption | with_reducible apply OutOk.next | with_reducible apply polEnd_ok

/-! ## Machine/Trowel.lean -/

theorem startDec_ok {s : State} {p : Nat} {req : DecReq} (hm : MemOk s) : MemOk (startDec s p req) := by
  unfold startDec
  try dsimp only
  repeat' first | with_reducible assumption | with_reducible apply MemOk.updPart | with_reducible apply setDec_ok
                | with_reducible apply MemOk.afterFree | refine MemOk.ite ?_ ?_ | with_reducible apply MemOk.wf
                | simp only [MemOk.mk_eq]

theorem decideKind_ok {s : State} {p kind : Nat} (hm : MemOk s) : MemOk (decideKind s p kind) := by
  unfold decideKind
  try dsimp only
  repeat' first | with_reducible assumption | with_reducible apply startDec_ok | refine MemOk.ite ?_ ?_
                | with_reducible apply MemOk.wf | simp only [MemOk.mk_eq] | intro _ | split

theorem execDispatchDecision_ok {part : Nat} {s : State} (hm : MemOk s) : OutOk (execDispatchDecision part s) := by
  unfold execDispatchDecision
  try dsimp only
  repeat' first | with_reducible assumption | with_reducible apply OutOk.next | with_reducible apply decideKind_ok

theorem execPreemptionDecision_ok {part : Nat} {s : State} (hm : MemOk s) : OutOk (execPreemptionDecision part s) :=
    by
  unfold execPreemptionDecision
  try dsimp only
  repeat' first | with_reducible assumption | with_reducible apply OutOk.next | with_reducible apply decideKind_ok

theorem execFaultDecision_ok {part : Nat} {s : State} (hm : MemOk s) : OutOk (execFaultDecision part s) := by
  unfold execFaultDecision
  try dsimp only
  repeat' first | with_reducible assumption | with_reducible apply OutOk.next | with_reducible apply startDec_ok
                | with_reducible apply sweepFaults_ok | with_reducible apply MemOk.updPart | refine OutOk.ite ?_ ?_
                | refine MemOk.ite ?_ ?_ | with_reducible apply MemOk.wf | simp only [MemOk.mk_eq] | intro _ | split

theorem execQuantumExpiry_ok {part : Nat} {s : State} (hm : MemOk s) : OutOk (execQuantumExpiry part s) := by
  unfold execQuantumExpiry
  try dsimp only
  repeat' first | with_reducible assumption | with_reducible apply OutOk.next | with_reducible apply MemOk.updPart
                | refine OutOk.ite ?_ ?_ | refine MemOk.ite ?_ ?_

theorem placeNext_ok {s : State} {p v c : Nat} {t : State} (e : placeNext s p v c = .ok t) (hm : MemOk s) : MemOk t :=
    by
  unfold placeNext at e
  dsimp only at e
  split at e
  · cases e
  · split at e
    · cases e
    · split at e
      · cases e
      · rename_i s1 e1
        have h1 : MemOk s1 := by
          split at e1
          · obtain rfl := Option.some.inj e1; exact resumeGang_ok hm
          · exact placeGang_ok e1 hm
        cases e
        exact askDispatch_ok (MemOk.ite h1 (dequeue_ok h1))

theorem applyAction_ok {s : State} {p : Nat} {d : Decision} {a : Action} {t : State}
    (e : applyAction s p d a = .ok t) (hm : MemOk s) : MemOk t := by
  unfold applyAction at e
  repeat' split at e
  all_goals first
    | (simp only [reduceCtorEq] at e; done)
    | (simp only [Except.ok.injEq] at e; obtain rfl := e)
    | (exact placeNext_ok e hm)
  all_goals repeat' first | with_reducible assumption | with_reducible apply MemOk.updTeam
                          | with_reducible apply faultAction_ok | with_reducible apply haltGang_ok

theorem drainDec_ok {p : Nat} {n : Nat} {s : State} (hm : MemOk s) : MemOk (drainDec p n s) := by
  induction n generalizing s with
  | zero => exact hm
  | succ n ih =>
    unfold drainDec
    try simp only [State.free_eq]
    repeat' first | with_reducible assumption | with_reducible apply MemOk.updPart | with_reducible apply ih
                  | refine devWrite_ok (by with_reducible assumption) ?_ | with_reducible apply MemOk.wf
                  | simp only [MemOk.mk_eq] | intro _ | split

theorem writeDecRecord_ok {s : State} {p : Nat} {bs : List Byte} (hm : MemOk s) : MemOk (writeDecRecord s p bs) := by
  unfold writeDecRecord
  try dsimp only
  repeat' first | with_reducible assumption | with_reducible apply MemOk.updPart | with_reducible apply drainDec_ok
                | refine MemOk.ite ?_ ?_

theorem execDecisionApply_ok {part : Nat} {s : State} (hm : MemOk s) : OutOk (execDecisionApply part s) := by
  refine OutOk.next ?_
  dsimp only
  split
  · exact hm
  · split
    · exact hm
    · split
      · exact hm
      · exact writeDecRecord_ok (MemOk.updPart hm)
      · rename_i e; exact writeDecRecord_ok (MemOk.updPart (MemOk.stir (applyAction_ok e hm)))

theorem commitWrite_ok {s : State} {p : Nat} {value : DWord} (hm : MemOk s) : MemOk (commitWrite s p value) := by
  unfold commitWrite
  try dsimp only
  repeat' first | with_reducible assumption | with_reducible apply MemOk.setPart | refine MemOk.ite ?_ ?_

theorem execPolicyCommit_ok {part : Nat} {value : DWord} {s : State} (hm : MemOk s) : OutOk
    (execPolicyCommit part value s) := by
  unfold execPolicyCommit
  try dsimp only
  repeat' first | with_reducible assumption | with_reducible apply OutOk.next | with_reducible apply commitWrite_ok
                | with_reducible apply MemOk.stir

theorem execPolicyCommitChecksEnd_ok {part : Nat} {s : State} (hm : MemOk s) : OutOk
    (execPolicyCommitChecksEnd part s) := by
  unfold execPolicyCommitChecksEnd
  try dsimp only
  repeat' first | with_reducible assumption | with_reducible apply OutOk.next | with_reducible apply MemOk.updPart
                | refine OutOk.ite ?_ ?_ | refine MemOk.ite ?_ ?_ | with_reducible apply MemOk.wf
                | simp only [MemOk.mk_eq] | intro _ | split

theorem execPolicySlotExchange_ok {part : Nat} {s : State} (hm : MemOk s) : OutOk (execPolicySlotExchange part s) :=
    by
  unfold execPolicySlotExchange
  try dsimp only
  repeat' first | with_reducible assumption | with_reducible apply OutOk.next | with_reducible apply MemOk.setPart
                | refine OutOk.ite ?_ ?_ | refine MemOk.ite ?_ ?_ | with_reducible apply MemOk.wf
                | simp only [MemOk.mk_eq] | intro _ | split

/-! ## Machine/Sched.lean -/

theorem startFetch_ok {s : State} {id : Nat} {w : Wave} {pc : Nat} (hm : MemOk s) : MemOk (startFetch s id w pc) := by
  unfold startFetch
  try dsimp only
  repeat' first | with_reducible assumption | with_reducible apply xlatAll_ok | with_reducible apply noteXlat_ok
                | with_reducible apply faultWave_ok | refine xlatAll_ok2 (by with_reducible assumption) ?_
                | refine MemOk.ite ?_ ?_

theorem takeFetch_ok {s : State} {id : Nat} {w : Wave} {pc : DWord} (hm : MemOk s) : MemOk (takeFetch s id w pc).1 :=
    by
  unfold takeFetch
  try dsimp only
  repeat' first | with_reducible assumption | with_reducible apply fetchRuns_ok | with_reducible apply fillTlbs_ok
                | with_reducible apply noFetch_ok | with_reducible apply MemOk.foldl
                | with_reducible apply MemOk.foldl_fst | with_reducible apply MemOk.foldl_snd
                | refine fetchRuns_ok2 (by with_reducible assumption) ?_ | with_reducible apply MemOk.wf
                | simp only [MemOk.mk_eq] | intro _ | split

theorem takeFetch_ok2 {s : State} {id : Nat} {w : Wave} {pc : DWord} {tt} {xx} (e : takeFetch s id w pc = (tt, xx))
    (hm : MemOk s) : MemOk tt := by
  have h2 : MemOk (takeFetch s id w pc).1 := takeFetch_ok hm
  rw [e] at h2; exact h2

theorem takeSlot_ok {s : State} {core q : Nat} {cls : IssueClass} {till : Nat} (hm : MemOk s) : MemOk
    (takeSlot s core q cls till) := by
  unfold takeSlot
  try dsimp only
  repeat' first | with_reducible assumption | with_reducible apply MemOk.updCore

theorem noteRefusals_ok {s : State} {core q : Nat} (hm : MemOk s) : MemOk (noteRefusals s core q) := by
  unfold noteRefusals
  try dsimp only
  repeat' first | with_reducible assumption | with_reducible apply MemOk.updWave | with_reducible apply MemOk.foldl
                | with_reducible apply MemOk.foldl_fst | with_reducible apply MemOk.foldl_snd | refine MemOk.ite ?_ ?_
                | with_reducible apply MemOk.wf | simp only [MemOk.mk_eq] | intro _

theorem noteUses_ok {s : State} {core q : Nat} {w : Wave} {r : Raw} (hm : MemOk s) : MemOk (noteUses s core q w r) :=
    by
  unfold noteUses
  try dsimp only
  repeat' first | with_reducible assumption | with_reducible apply MemOk.updCore

theorem sendSaved_ok {s : State} {core q : Nat} (hm : MemOk s) : MemOk (sendSaved s core q) := by
  unfold sendSaved
  try dsimp only
  repeat' first | with_reducible assumption | with_reducible apply reissue_ok | with_reducible apply MemOk.foldl
                | with_reducible apply MemOk.foldl_fst | with_reducible apply MemOk.foldl_snd | intro _

theorem issueSlot_ok {s : State} {core q : Nat} {cls : IssueClass} (hm : MemOk s) :
    MemOk (issueSlot s core q cls).1 := by
  unfold issueSlot
  have h0 : MemOk (sendSaved (if cls = .other then noteRefusals s core q else s) core q) :=
    sendSaved_ok (MemOk.ite (noteRefusals_ok hm) hm)
  revert h0
  generalize sendSaved (if cls = .other then noteRefusals s core q else s) core q = s0
  intro h0
  dsimp only
  split
  · exact hm
  · split
    · exact h0
    · split
      · exact h0
      · split
        · exact startFetch_ok (MemOk.setWave h0)
        · split
          · exact takeSlot_ok (MemOk.setWave h0)
          · split
            · exact h0
            · split <;> rename_i e <;> have h1 := takeFetch_ok2 e (MemOk.setWave h0)
              · exact h1
              · simp only [MemOk.mk_eq]
                exact MemOk.wf (noteUses_ok (takeSlot_ok h1))
theorem issueSlot_ok2 {s : State} {core q : Nat} {cls : IssueClass} {t x} (e : issueSlot s core q cls = (t, x))
    (hm : MemOk s) : MemOk t := by
  have h2 := issueSlot_ok (core := core) (q := q) (cls := cls) hm
  rw [e] at h2; exact h2

theorem rollerSlot_ok {s : State} {core : Nat} (hm : MemOk s) : MemOk (rollerSlot s core).1 := by
  unfold rollerSlot
  try dsimp only
  repeat' first | with_reducible assumption | refine MemOk.ite ?_ ?_ | with_reducible apply MemOk.wf
                | simp only [MemOk.mk_eq] | intro _ | split

theorem rollerSlot_ok2 {s : State} {core : Nat} {tt} {xx} (e : rollerSlot s core = (tt, xx)) (hm : MemOk s) : MemOk tt
    := by
  have h2 : MemOk (rollerSlot s core).1 := rollerSlot_ok hm
  rw [e] at h2; exact h2

theorem trowelSlot_ok {s : State} {p : Nat} (hm : MemOk s) : MemOk (trowelSlot s p).1 := by
  unfold trowelSlot
  try dsimp only
  repeat' first | with_reducible assumption | refine MemOk.ite ?_ ?_ | with_reducible apply MemOk.wf
                | simp only [MemOk.mk_eq] | intro _ | split

theorem trowelSlot_ok2 {s : State} {p : Nat} {tt} {xx} (e : trowelSlot s p = (tt, xx)) (hm : MemOk s) : MemOk tt := by
  have h2 : MemOk (trowelSlot s p).1 := trowelSlot_ok hm
  rw [e] at h2; exact h2

theorem drainRings_ok {s : State} {p : Nat} (hm : MemOk s) : MemOk (drainRings s p) := by
  unfold drainRings
  try dsimp only
  repeat' first | with_reducible assumption | with_reducible apply drainDec_ok | with_reducible apply freeWritten_ok
                | with_reducible apply drainHeld_ok | refine MemOk.ite ?_ ?_

theorem execCeilingAdvance_ok {s : State} (hm : MemOk s) : OutOk (execCeilingAdvance s) := by
  unfold execCeilingAdvance
  dsimp only
  have h : MemOk { s with cycle := s.cycle + 1, ceil := s.ceil + 4 } := MemOk.wf hm
  exact OutOk.next (MemOk.ite h (MemOk.foldl h fun _ _ h => drainPorts_ok (drainRings_ok h)))

theorem tickDie_ok {s : State} {d : Nat} (hm : MemOk s) : MemOk (tickDie s d) := by
  unfold tickDie
  try dsimp only
  repeat' first | with_reducible assumption | with_reducible apply MemOk.updCore | with_reducible apply MemOk.foldl
                | with_reducible apply MemOk.foldl_fst | with_reducible apply MemOk.foldl_snd | refine MemOk.ite ?_ ?_
                | with_reducible apply MemOk.wf | simp only [MemOk.mk_eq] | intro _

theorem execPtsTick_ok {s : State} (hm : MemOk s) : OutOk (execPtsTick s) :=
  OutOk.next (MemOk.ite (show MemOk ((List.range 4).foldl tickDie s) from MemOk.foldl hm fun _ _ h => tickDie_ok h) hm)

theorem execThrottleScoreHalving_ok {s : State} (hm : MemOk s) : OutOk (execThrottleScoreHalving s) := by
  unfold execThrottleScoreHalving
  try dsimp only
  repeat' first | with_reducible assumption | with_reducible apply OutOk.next | refine OutOk.ite ?_ ?_
                | refine MemOk.ite ?_ ?_ | with_reducible apply MemOk.wf | simp only [MemOk.mk_eq]

theorem execThrottleRelease_ok {wave : Nat} {s : State} (hm : MemOk s) : OutOk (execThrottleRelease wave s) := by
  unfold execThrottleRelease
  try dsimp only
  repeat' first | with_reducible assumption | with_reducible apply OutOk.next | with_reducible apply MemOk.setWave
                | refine OutOk.ite ?_ ?_ | refine MemOk.ite ?_ ?_ | with_reducible apply MemOk.wf
                | simp only [MemOk.mk_eq] | intro _ | split

theorem execTrapClaimDeadlock_ok {team : Nat} {s : State} (hm : MemOk s) : OutOk (execTrapClaimDeadlock team s) := by
  unfold execTrapClaimDeadlock
  try dsimp only
  repeat' first | with_reducible assumption | with_reducible apply OutOk.next | with_reducible apply namedTrap_ok
                | refine OutOk.ite ?_ ?_ | refine MemOk.ite ?_ ?_ | with_reducible apply MemOk.wf
                | simp only [MemOk.mk_eq] | intro _ | split

theorem execWatchdogExpiry_ok {part : Nat} {s : State} (hm : MemOk s) : OutOk (execWatchdogExpiry part s) := by
  unfold execWatchdogExpiry
  try dsimp only
  repeat' first | with_reducible assumption | with_reducible apply OutOk.next | with_reducible apply MemOk.updPart
                | with_reducible apply namedTrap_ok | with_reducible apply MemOk.foldl
                | with_reducible apply MemOk.foldl_fst | with_reducible apply MemOk.foldl_snd | refine OutOk.ite ?_ ?_
                | refine MemOk.ite ?_ ?_ | with_reducible apply MemOk.wf | simp only [MemOk.mk_eq] | intro _ | split

/-! ## Machine/Errors.lean -/

theorem ctrlLog_ok {s : State} {code : Nat} (hm : MemOk s) : MemOk (ctrlLog s code) := by
  unfold ctrlLog
  try dsimp only
  repeat' first | with_reducible assumption | with_reducible apply MemOk.updMbox | with_reducible apply MemOk.wf
                | simp only [MemOk.mk_eq]

theorem discardPart_ok {s : State} {p : Nat} (hm : MemOk s) : MemOk (discardPart s p) := by
  unfold discardPart
  try dsimp only
  repeat' first | with_reducible assumption | with_reducible apply invalidate_ok | refine MemOk.ite ?_ ?_
                | with_reducible apply MemOk.wf | simp only [MemOk.mk_eq]

theorem deleteStep_ok {s : State} {p : Nat} (hm : MemOk s) : MemOk (deleteStep s p) := by
  unfold deleteStep
  try dsimp only
  repeat' first | with_reducible assumption | with_reducible apply killGrid_ok | with_reducible apply sweepFaults_ok
                | with_reducible apply flushCluster_ok | with_reducible apply discardPart_ok
                | with_reducible apply MemOk.foldl | with_reducible apply MemOk.foldl_fst
                | with_reducible apply MemOk.foldl_snd | refine MemOk.ite ?_ ?_ | intro _

theorem retireUnit_ok {s : State} {kind n : Nat} (hm : MemOk s) : MemOk (retireUnit s kind n) := by
  unfold retireUnit
  try dsimp only
  repeat' first | with_reducible assumption | with_reducible apply ctrlLog_ok | with_reducible apply haltGang_ok
                | with_reducible apply MemOk.foldl | with_reducible apply MemOk.foldl_fst
                | with_reducible apply MemOk.foldl_snd | with_reducible apply MemOk.wf | simp only [MemOk.mk_eq]
                | intro _ | split

theorem retireStep_ok {s : State} {p : Nat} (hm : MemOk s) : MemOk (retireStep s p) := by
  unfold retireStep
  try dsimp only
  repeat' first | with_reducible assumption | with_reducible apply haltGang_ok | with_reducible apply deleteStep_ok
                | with_reducible apply MemOk.foldl | with_reducible apply MemOk.foldl_fst
                | with_reducible apply MemOk.foldl_snd | refine MemOk.ite ?_ ?_ | with_reducible apply MemOk.wf
                | simp only [MemOk.mk_eq] | intro _

theorem countError_ok {s : State} {kind n : Nat} (hm : MemOk s) : MemOk (countError s kind n) := by
  unfold countError
  try dsimp only
  repeat' first | with_reducible assumption | with_reducible apply retireUnit_ok | refine MemOk.ite ?_ ?_
                | with_reducible apply MemOk.wf | simp only [MemOk.mk_eq]

theorem poisonLine_ok {s : State} {pa : Nat} (hm : MemOk s) : MemOk (poisonLine s pa) := by
  unfold poisonLine
  try dsimp only
  repeat' first | with_reducible assumption | with_reducible apply MemOk.wf | simp only [MemOk.mk_eq]

theorem markCore_ok {s : State} {core unit team place lane : Nat} (hm : MemOk s) : MemOk
    (markCore s core unit team place lane) := by
  unfold markCore
  try dsimp only
  repeat' first | with_reducible assumption | with_reducible apply MemOk.updCore | with_reducible apply MemOk.setGang
                | with_reducible apply MemOk.updTeam | with_reducible apply MemOk.updWave | refine MemOk.ite ?_ ?_
                | with_reducible apply MemOk.wf | simp only [MemOk.mk_eq] | intro _ | split

theorem execUncorrectableError_ok {site : ErrSite} {s : State} (hm : MemOk s) : OutOk (execUncorrectableError site s)
    := by
  unfold execUncorrectableError
  try dsimp only
  repeat' first | with_reducible assumption | with_reducible apply OutOk.next | with_reducible apply countError_ok
                | with_reducible apply ctrlLog_ok | with_reducible apply poisonLine_ok
                | with_reducible apply markCore_ok | refine OutOk.ite ?_ ?_ | refine MemOk.ite ?_ ?_
                | with_reducible apply MemOk.wf | simp only [MemOk.mk_eq] | intro _ | split

theorem execFloorRecompute_ok {s : State} (hm : MemOk s) : OutOk (execFloorRecompute s) := by
  unfold execFloorRecompute
  try dsimp only
  repeat' first | with_reducible assumption | with_reducible apply OutOk.next | with_reducible apply retireStep_ok
                | with_reducible apply ctrlLog_ok | with_reducible apply MemOk.foldl
                | with_reducible apply MemOk.foldl_fst | with_reducible apply MemOk.foldl_snd | refine OutOk.ite ?_ ?_
                | refine MemOk.ite ?_ ?_ | with_reducible apply MemOk.wf | simp only [MemOk.mk_eq]

theorem execModulePowerLimit_ok {msOver : Nat} {s : State} (hm : MemOk s) : OutOk (execModulePowerLimit msOver s) :=
    by
  unfold execModulePowerLimit
  try dsimp only
  repeat' first | with_reducible assumption | with_reducible apply OutOk.next | with_reducible apply MemOk.updDie
                | with_reducible apply MemOk.foldl | with_reducible apply MemOk.foldl_fst
                | with_reducible apply MemOk.foldl_snd | with_reducible apply MemOk.wf | simp only [MemOk.mk_eq]
                | intro _

theorem execJunctionTempLimit_ok {die gap : Nat} {s : State} (hm : MemOk s) : OutOk (execJunctionTempLimit die gap s)
    := by
  unfold execJunctionTempLimit
  try dsimp only
  repeat' first | with_reducible assumption | with_reducible apply OutOk.next | with_reducible apply MemOk.updDie
                | refine OutOk.ite ?_ ?_ | refine MemOk.ite ?_ ?_

theorem execHbmTempLimit_ok {stack : Nat} {s : State} (hm : MemOk s) : OutOk (execHbmTempLimit stack s) := by
  unfold execHbmTempLimit
  try dsimp only
  repeat' first | with_reducible assumption | with_reducible apply OutOk.next | refine OutOk.ite ?_ ?_
                | refine MemOk.ite ?_ ?_ | with_reducible apply MemOk.wf | simp only [MemOk.mk_eq]

theorem endWork_ok {s : State} (hm : MemOk s) : MemOk (endWork s) := by
  unfold endWork
  try dsimp only
  repeat' first | with_reducible assumption | with_reducible apply MemOk.wf | simp only [MemOk.mk_eq]

theorem trip_ok {s : State} (hm : MemOk s) : MemOk (trip s) := by
  unfold trip
  try dsimp only
  repeat' first | with_reducible assumption | with_reducible apply endWork_ok | with_reducible apply MemOk.updMbox
                | with_reducible apply MemOk.wf | simp only [MemOk.mk_eq]

theorem execThermalTrip_ok {s : State} (hm : MemOk s) : OutOk (execThermalTrip s) := by
  unfold execThermalTrip
  try dsimp only
  repeat' first | with_reducible assumption | with_reducible apply OutOk.next | with_reducible apply trip_ok

theorem execCoolantFlowTrip_ok {s : State} (hm : MemOk s) : OutOk (execCoolantFlowTrip s) := by
  unfold execCoolantFlowTrip
  try dsimp only
  repeat' first | with_reducible assumption | with_reducible apply OutOk.next | with_reducible apply trip_ok

theorem execSecurityAlarm_ok {s : State} (hm : MemOk s) : OutOk (execSecurityAlarm s) := by
  unfold execSecurityAlarm
  try dsimp only
  repeat' first | with_reducible assumption | with_reducible apply OutOk.next | with_reducible apply endWork_ok
                | with_reducible apply MemOk.wf | simp only [MemOk.mk_eq]

/-! ## Machine/Migration.lean -/

theorem updMigr_ok {s : State} {p : Nat} {f : Migr → Migr} (hm : MemOk s) : MemOk (updMigr s p f) := by
  unfold updMigr
  try dsimp only
  repeat' first | with_reducible assumption | with_reducible apply MemOk.updPart

theorem migErr_ok {s : State} {p : Nat} (hm : MemOk s) : MemOk (migErr s p) := by
  unfold migErr
  try dsimp only
  repeat' first | with_reducible assumption | with_reducible apply updMigr_ok

theorem migCommand_ok {s : State} {p cmd : Nat} (hm : MemOk s) : MemOk (migCommand s p cmd) := by
  unfold migCommand
  try dsimp only
  repeat' first | with_reducible assumption | with_reducible apply updMigr_ok | with_reducible apply haltGang_ok
                | with_reducible apply flushCluster_ok | with_reducible apply askDispatch_ok
                | with_reducible apply migErr_ok | with_reducible apply MemOk.foldl
                | with_reducible apply MemOk.foldl_fst | with_reducible apply MemOk.foldl_snd | refine MemOk.ite ?_ ?_
                | with_reducible apply MemOk.wf | simp only [MemOk.mk_eq] | intro _ | split

theorem execMigPrecopy_ok {part : Nat} {s : State} (hm : MemOk s) : OutOk (execMigPrecopy part s) := by
  unfold execMigPrecopy
  try dsimp only
  repeat' first | with_reducible assumption | with_reducible apply OutOk.next | with_reducible apply migCommand_ok
                | with_reducible apply MemOk.stir

theorem execMigStop_ok {part : Nat} {s : State} (hm : MemOk s) : OutOk (execMigStop part s) := by
  unfold execMigStop
  try dsimp only
  repeat' first | with_reducible assumption | with_reducible apply OutOk.next | with_reducible apply migCommand_ok
                | with_reducible apply MemOk.stir

theorem execMigContinue_ok {part : Nat} {s : State} (hm : MemOk s) : OutOk (execMigContinue part s) := by
  unfold execMigContinue
  try dsimp only
  repeat' first | with_reducible assumption | with_reducible apply OutOk.next | with_reducible apply migCommand_ok
                | with_reducible apply MemOk.stir

theorem execMigResume_ok {part : Nat} {s : State} (hm : MemOk s) : OutOk (execMigResume part s) := by
  unfold execMigResume
  try dsimp only
  repeat' first | with_reducible assumption | with_reducible apply OutOk.next | with_reducible apply migCommand_ok
                | with_reducible apply MemOk.stir

theorem execMigCtlInvalidCommand_ok {part : Nat} {cmd : BitVec 3} {s : State} (hm : MemOk s) : OutOk
    (execMigCtlInvalidCommand part cmd s) := by
  unfold execMigCtlInvalidCommand
  try dsimp only
  repeat' first | with_reducible assumption | with_reducible apply OutOk.next | with_reducible apply migErr_ok
                | with_reducible apply MemOk.stir | refine OutOk.ite ?_ ?_ | refine MemOk.ite ?_ ?_

theorem execStoppingEnd_ok {part : Nat} {s : State} (hm : MemOk s) : OutOk (execStoppingEnd part s) := by
  unfold execStoppingEnd
  try dsimp only
  repeat' first | with_reducible assumption | with_reducible apply OutOk.next | with_reducible apply updMigr_ok
                | refine OutOk.ite ?_ ?_ | refine MemOk.ite ?_ ?_

theorem emit_ok {s : State} {p kind addr : Nat} {data : List Byte} (hm : MemOk s) : MemOk (emit s p kind addr data) :=
    by
  unfold emit
  try dsimp only
  repeat' first | with_reducible assumption | with_reducible apply updMigr_ok

theorem emitPiece_ok {s : State} {p off : Nat} (hm : MemOk s) : MemOk (emitPiece s p off) := by
  unfold emitPiece
  try dsimp only
  repeat' first | with_reducible assumption | with_reducible apply updMigr_ok | with_reducible apply emit_ok

theorem emitRest_ok {s : State} {p n : Nat} (hm : MemOk s) : MemOk (emitRest s p n) := by
  induction n generalizing s with
  | zero => exact hm
  | succ n ih =>
    unfold emitRest
    dsimp only
    repeat' first | with_reducible assumption | with_reducible apply ih | with_reducible apply emit_ok
                  | with_reducible apply updMigr_ok | refine MemOk.ite ?_ ?_

theorem execMigrationChunkRead_ok {part : Nat} {s : State} (hm : MemOk s) : OutOk (execMigrationChunkRead part s) :=
    by
  unfold execMigrationChunkRead
  try dsimp only
  repeat' first | with_reducible assumption | with_reducible apply OutOk.next | with_reducible apply emitPiece_ok
                | with_reducible apply emitRest_ok | refine OutOk.ite ?_ ?_ | refine MemOk.ite ?_ ?_
                | with_reducible apply MemOk.wf | simp only [MemOk.mk_eq] | intro _ | split

theorem freshTokens_ok {toks : Tbl TokEntry} {s : State} {w : Nat} (hm : MemOk s) : MemOk (freshTokens toks s w) := by
  unfold freshTokens
  try dsimp only
  repeat' first | with_reducible assumption | with_reducible apply newToken_ok | with_reducible apply MemOk.setWave
                | with_reducible apply MemOk.foldl | with_reducible apply MemOk.foldl_fst
                | with_reducible apply MemOk.foldl_snd | refine newToken_ok2 (by with_reducible assumption) ?_
                | with_reducible apply MemOk.wf | simp only [MemOk.mk_eq] | intro _ | split

theorem raiseHomes_ok {s : State} {m : Nat} (hm : MemOk s) : MemOk (raiseHomes s m) := by
  unfold raiseHomes
  try dsimp only
  repeat' first | with_reducible assumption | with_reducible apply MemOk.updHome | with_reducible apply MemOk.foldl
                | with_reducible apply MemOk.foldl_fst | with_reducible apply MemOk.foldl_snd
                | with_reducible apply MemOk.wf | simp only [MemOk.mk_eq] | intro _

theorem takeImage_ok {s : State} {p : Nat} {img : PartImage} {low : Nat} (hm : MemOk s) : MemOk
    (takeImage s p img low) := by
  unfold takeImage
  try dsimp only
  repeat' first | with_reducible assumption | with_reducible apply MemOk.setPart | with_reducible apply freshTokens_ok
                | with_reducible apply MemOk.foldl | with_reducible apply MemOk.foldl_fst
                | with_reducible apply MemOk.foldl_snd | with_reducible apply MemOk.wf | simp only [MemOk.mk_eq]

theorem migEnd_ok {s : State} {p : Nat} (hm : MemOk s) : MemOk (migEnd s p) := by
  unfold migEnd
  try dsimp only
  repeat' first | with_reducible assumption | with_reducible apply raiseHomes_ok | with_reducible apply takeImage_ok
                | with_reducible apply askDispatch_ok | with_reducible apply updMigr_ok
                | with_reducible apply MemOk.wf | simp only [MemOk.mk_eq] | intro _ | split

theorem migHeld_ok {s : State} {p : Nat} (hm : MemOk s) : MemOk (migHeld s p) := by
  unfold migHeld
  exact MemOk.foldl (updMigr_ok hm) fun _ _ h => MemOk.ite (migEnd_ok h) (migCommand_ok h)

theorem execMigrationChunkWrite_ok {part : Nat} {c : Chunk} {s : State} (hm : MemOk s) : OutOk
    (execMigrationChunkWrite part c s) := by
  unfold execMigrationChunkWrite
  try dsimp only
  repeat' first | with_reducible assumption | with_reducible apply OutOk.next | with_reducible apply migErr_ok
                | with_reducible apply updMigr_ok | with_reducible apply clearPoison_ok
                | with_reducible apply MemOk.wr | with_reducible apply migEnd_ok | refine OutOk.ite ?_ ?_
                | refine MemOk.ite ?_ ?_ | with_reducible apply MemOk.wf | simp only [MemOk.mk_eq] | intro _ | split

/-! ## Machine/Reset.lean -/

theorem startReset_ok {s : State} {d : Nat} (hm : MemOk s) : MemOk (startReset s d) := by
  unfold startReset
  try dsimp only
  repeat' first | with_reducible assumption | with_reducible apply MemOk.updDie

theorem stopHomes_ok {s : State} {d : Nat} (hm : MemOk s) : MemOk (stopHomes s d) := by
  unfold stopHomes
  try dsimp only
  repeat' first | with_reducible assumption | with_reducible apply cleanLine_ok | with_reducible apply MemOk.foldl
                | with_reducible apply MemOk.foldl_fst | with_reducible apply MemOk.foldl_snd
                | with_reducible apply MemOk.wf | simp only [MemOk.mk_eq] | intro _

theorem clearDie_ok {s : State} {d : Nat} (hm : MemOk s) : MemOk (clearDie s d) := by
  unfold clearDie
  try dsimp only
  repeat' first | with_reducible assumption | with_reducible apply evictLine_ok | with_reducible apply MemOk.setDie
                | with_reducible apply recordFault_ok | with_reducible apply MemOk.foldl
                | with_reducible apply MemOk.foldl_fst | with_reducible apply MemOk.foldl_snd | refine MemOk.ite ?_ ?_
                | with_reducible apply MemOk.wf | simp only [MemOk.mk_eq] | intro _

theorem readmit_ok {s : State} {d : Nat} (hm : MemOk s) : MemOk (readmit s d) := by
  unfold readmit
  dsimp only
  refine MemOk.foldl (MemOk.foldl (MemOk.foldl (MemOk.updDie ?_) fun _ _ h => ?_) fun _ _ h => migHeld_ok h) fun _ _ h => ?_
  · simp only [MemOk.mk_eq]
    exact MemOk.wf (MemOk.foldl (MemOk.foldl hm fun _ _ h => MemOk.updHome h) fun _ _ h => MemOk.updCore h)
  · exact releaseGang_ok h
  · exact askDispatch_ok h

theorem execDieReadmission_ok {die : Nat} {s : State} (hm : MemOk s) : OutOk (execDieReadmission die s) := by
  unfold execDieReadmission
  try dsimp only
  repeat' first | with_reducible assumption | with_reducible apply OutOk.next | with_reducible apply MemOk.updDie
                | with_reducible apply haltGang_ok | with_reducible apply stopHomes_ok
                | with_reducible apply clearDie_ok | with_reducible apply readmit_ok
                | with_reducible apply MemOk.foldl | with_reducible apply MemOk.foldl_fst
                | with_reducible apply MemOk.foldl_snd | refine OutOk.ite ?_ ?_ | refine MemOk.ite ?_ ?_
                | with_reducible apply MemOk.wf | simp only [MemOk.mk_eq] | intro _ | split

theorem dropDirty_ok {s : State} (hm : MemOk s) : MemOk (dropDirty s) := by
  unfold dropDirty
  try dsimp only
  repeat' first | with_reducible assumption | with_reducible apply MemOk.wr | with_reducible apply MemOk.foldl
                | with_reducible apply MemOk.foldl_fst | with_reducible apply MemOk.foldl_snd | refine MemOk.ite ?_ ?_
                | intro _

theorem resetState_ok {s : State} {ctrl : Ctrl} {mem : List Host.Cell} {poison : List Nat}
    (h : Memory.wf mem = true) : MemOk (resetState s ctrl mem poison) := h

theorem execFullDeviceReset_ok {s : State} (hm : MemOk s) : OutOk (execFullDeviceReset s) := by
  unfold execFullDeviceReset
  try dsimp only
  repeat' first | with_reducible assumption | with_reducible apply OutOk.next | with_reducible apply resetState_ok
                | with_reducible apply dropDirty_ok | with_reducible apply MemOk.wf

theorem execPowerOn_ok {s : State} (hm : MemOk s) : OutOk (execPowerOn s) :=
  OutOk.next (resetState_ok (memFilter_wf _ (MemOk.wf (dropDirty_ok hm))))

/-! ## Machine/Mailbox.lean -/

theorem endCmd_ok {s : State} {fn code : Nat} {res : List DWord} (hm : MemOk s) : MemOk (endCmd s fn code res) := by
  unfold endCmd
  try dsimp only
  repeat' first | with_reducible assumption | with_reducible apply MemOk.wf | simp only [MemOk.mk_eq]

theorem goCmd_ok {s : State} {fn : Nat} (hm : MemOk s) : MemOk (goCmd s fn) := by
  unfold goCmd
  try dsimp only
  repeat' first | with_reducible assumption | with_reducible apply MemOk.updMbox

theorem newPart_ok {s : State} {args : List DWord} (hm : MemOk s) : MemOk (newPart s args) := by
  unfold newPart
  try dsimp only
  repeat' first | with_reducible assumption | with_reducible apply MemOk.updCluster
                | with_reducible apply MemOk.setPart | with_reducible apply MemOk.setMbox
                | with_reducible apply MemOk.foldl | with_reducible apply MemOk.foldl_fst
                | with_reducible apply MemOk.foldl_snd | with_reducible apply MemOk.wf | simp only [MemOk.mk_eq]
                | intro _

theorem cmdCreate_ok {s : State} {args : List DWord} (hm : MemOk s) : MemOk (cmdCreate s args) := by
  unfold cmdCreate
  try dsimp only
  repeat' first | with_reducible assumption | with_reducible apply endCmd_ok | with_reducible apply newPart_ok
                | refine MemOk.ite ?_ ?_

theorem cmdDelete_ok {s : State} {args : List DWord} {going : Bool} (hm : MemOk s) : MemOk (cmdDelete s args going) :=
    by
  unfold cmdDelete
  try dsimp only
  repeat' first | with_reducible assumption | with_reducible apply endCmd_ok | with_reducible apply goCmd_ok
                | with_reducible apply deleteStep_ok | refine MemOk.ite ?_ ?_

theorem cmdWarm_ok {s : State} {args : List DWord} {going : Bool} (hm : MemOk s) : MemOk (cmdWarm s args going) := by
  unfold cmdWarm
  try dsimp only
  repeat' first | with_reducible assumption | with_reducible apply endCmd_ok | with_reducible apply goCmd_ok
                | with_reducible apply startReset_ok | refine MemOk.ite ?_ ?_ | with_reducible apply MemOk.wf
                | simp only [MemOk.mk_eq]

theorem cmdRecover_ok {s : State} {args : List DWord} (hm : MemOk s) : MemOk (cmdRecover s args) := by
  unfold cmdRecover
  try dsimp only
  repeat' first | with_reducible assumption | with_reducible apply endCmd_ok | refine MemOk.ite ?_ ?_
                | with_reducible apply MemOk.wf | simp only [MemOk.mk_eq]

theorem cmdRetire_ok {s : State} {args : List DWord} (hm : MemOk s) : MemOk (cmdRetire s args) := by
  unfold cmdRetire
  try dsimp only
  repeat' first | with_reducible assumption | with_reducible apply endCmd_ok | with_reducible apply retireUnit_ok
                | refine MemOk.ite ?_ ?_

theorem cmdResume_ok {s : State} {p fn : Nat} {args : List DWord} (hm : MemOk s) : MemOk (cmdResume s p fn args) := by
  unfold cmdResume
  try dsimp only
  repeat' first | with_reducible assumption | with_reducible apply endCmd_ok | with_reducible apply releaseGang_ok
                | with_reducible apply MemOk.foldl | with_reducible apply MemOk.foldl_fst
                | with_reducible apply MemOk.foldl_snd | refine MemOk.ite ?_ ?_

theorem cmdKill_ok {s : State} {p fn : Nat} {args : List DWord} (hm : MemOk s) : MemOk (cmdKill s p fn args) := by
  unfold cmdKill
  try dsimp only
  repeat' first | with_reducible assumption | with_reducible apply endCmd_ok | with_reducible apply sweepFaults_ok
                | with_reducible apply killGrid_ok | with_reducible apply killTeam_ok
                | with_reducible apply MemOk.foldl | with_reducible apply MemOk.foldl_fst
                | with_reducible apply MemOk.foldl_snd | refine MemOk.ite ?_ ?_ | with_reducible apply MemOk.wf
                | simp only [MemOk.mk_eq] | intro _ | split

theorem cmdStep_ok {s : State} {fn : Nat} (hm : MemOk s) : MemOk (cmdStep s fn) := by
  unfold cmdStep
  try dsimp only
  repeat' first | with_reducible assumption | with_reducible apply endCmd_ok | with_reducible apply cmdCreate_ok
                | with_reducible apply cmdDelete_ok | with_reducible apply cmdWarm_ok
                | with_reducible apply cmdRecover_ok | with_reducible apply cmdRetire_ok
                | with_reducible apply cmdResume_ok | with_reducible apply cmdKill_ok | refine MemOk.ite ?_ ?_
                | with_reducible apply MemOk.wf | simp only [MemOk.mk_eq] | intro _ | split

theorem doorbell_ok {s : State} {fn : Nat} {cmd : DWord} {args : List DWord} (hm : MemOk s) : MemOk
    (doorbell s fn cmd args) := by
  unfold doorbell
  try dsimp only
  repeat' first | with_reducible assumption | with_reducible apply MemOk.setMbox | with_reducible apply cmdStep_ok
                | refine MemOk.ite ?_ ?_

theorem execPartCreate_ok {tag : BitVec 16} {a0 a1 a2 a3 a4 a5 : DWord} {s : State} (hm : MemOk s) : OutOk
    (execPartCreate tag a0 a1 a2 a3 a4 a5 s) := by
  unfold execPartCreate
  try dsimp only
  repeat' first | with_reducible assumption | with_reducible apply OutOk.next | with_reducible apply doorbell_ok

theorem execPartDelete_ok {tag : BitVec 16} {a0 : DWord} {s : State} (hm : MemOk s) : OutOk (execPartDelete tag a0 s)
    := by
  unfold execPartDelete
  try dsimp only
  repeat' first | with_reducible assumption | with_reducible apply OutOk.next | with_reducible apply doorbell_ok

theorem execWarmReset_ok {tag : BitVec 16} {a0 : DWord} {s : State} (hm : MemOk s) : OutOk (execWarmReset tag a0 s) :=
    by
  unfold execWarmReset
  try dsimp only
  repeat' first | with_reducible assumption | with_reducible apply OutOk.next | with_reducible apply doorbell_ok

theorem execRecover_ok {tag : BitVec 16} {a0 a1 : DWord} {s : State} (hm : MemOk s) : OutOk (execRecover tag a0 a1 s)
    := by
  unfold execRecover
  try dsimp only
  repeat' first | with_reducible assumption | with_reducible apply OutOk.next | with_reducible apply doorbell_ok

theorem execRetire_ok {tag : BitVec 16} {a0 a1 : DWord} {s : State} (hm : MemOk s) : OutOk (execRetire tag a0 a1 s) :=
    by
  unfold execRetire
  try dsimp only
  repeat' first | with_reducible assumption | with_reducible apply OutOk.next | with_reducible apply doorbell_ok

theorem execResume_ok {fn : Nat} {tag : BitVec 16} {a0 a1 : DWord} {s : State} (hm : MemOk s) : OutOk
    (execResume fn tag a0 a1 s) := by
  unfold execResume
  try dsimp only
  repeat' first | with_reducible assumption | with_reducible apply OutOk.next | with_reducible apply doorbell_ok

theorem execKill_ok {fn : Nat} {tag : BitVec 16} {a0 a1 a2 : DWord} {s : State} (hm : MemOk s) : OutOk
    (execKill fn tag a0 a1 a2 s) := by
  unfold execKill
  try dsimp only
  repeat' first | with_reducible assumption | with_reducible apply OutOk.next | with_reducible apply doorbell_ok

theorem execMailboxDoorbellRefused_ok {fn : Nat} {cmd : DWord} {s : State} (hm : MemOk s) : OutOk
    (execMailboxDoorbellRefused fn cmd s) := by
  unfold execMailboxDoorbellRefused
  try dsimp only
  repeat' first | with_reducible assumption | with_reducible apply OutOk.next | with_reducible apply doorbell_ok
                | refine OutOk.ite ?_ ?_ | refine MemOk.ite ?_ ?_

theorem execMailboxCommandEnd_ok {fn : Nat} {s : State} (hm : MemOk s) : OutOk (execMailboxCommandEnd fn s) := by
  unfold execMailboxCommandEnd
  try dsimp only
  repeat' first | with_reducible assumption | with_reducible apply OutOk.next | with_reducible apply cmdStep_ok
                | with_reducible apply MemOk.updMbox | with_reducible apply MemOk.afterFree
                | with_reducible apply MemOk.wf | simp only [MemOk.mk_eq] | intro _ | split

theorem execSpdmRequest_ok {kind : Spdm} {s : State} (hm : MemOk s) : OutOk (execSpdmRequest kind s) := by
  unfold execSpdmRequest
  try dsimp only
  repeat' first | with_reducible assumption | with_reducible apply OutOk.next | with_reducible apply MemOk.wf
                | simp only [MemOk.mk_eq]

/-! ## Machine/MovePred.lean -/

theorem execMov_ok {hd : Hdr} {d : Dst} {a : Src} {ty : Ty} {s : State} (hm : MemOk s) : OutOk (execMov hd d a ty s)
    := by
  unfold execMov
  try dsimp only
  repeat' first | with_reducible assumption | with_reducible apply OutOk.next | with_reducible apply aluW_ok

theorem execMovi_ok {hd : Hdr} {d : Dst} {imm : Word} {ty : Ty} {s : State} (hm : MemOk s) : OutOk
    (execMovi hd d imm ty s) := by
  unfold execMovi
  try dsimp only
  repeat' first | with_reducible assumption | with_reducible apply OutOk.next | with_reducible apply aluW_ok

theorem execMovw_ok {hd : Hdr} {d : Dst} {a : Src} {ln : BitVec 5} {s : State} (hm : MemOk s) : OutOk
    (execMovw hd d a ln s) := by
  unfold execMovw
  try dsimp only
  repeat' first | with_reducible assumption | with_reducible apply OutOk.next | with_reducible apply issue_ok
                | with_reducible apply finishNext_ok | intro _

theorem execS2v_ok {hd : Hdr} {d : Dst} {wa : BitVec 7} {s : State} (hm : MemOk s) : OutOk (execS2v hd d wa s) := by
  unfold execS2v
  try dsimp only
  repeat' first | with_reducible assumption | with_reducible apply OutOk.next | with_reducible apply alu_ok

theorem execPsetp_ok {hd : Hdr} {pd : PDst} {a b : Src} {pc : Pred} {z : Bool} {bop : Bop} {ty : Ty} {s : State}
    (hm : MemOk s) : OutOk (execPsetp hd pd a b pc z bop ty s) := by
  unfold execPsetp
  try dsimp only
  repeat' first | with_reducible assumption | with_reducible apply OutOk.next | with_reducible apply setPred_ok

theorem execPlop_ok {hd : Hdr} {pd : PDst} {pa pb pc : Pred} {fn : BitVec 8} {s : State} (hm : MemOk s) : OutOk
    (execPlop hd pd pa pb pc fn s) := by
  unfold execPlop
  try dsimp only
  repeat' first | with_reducible assumption | with_reducible apply OutOk.next | with_reducible apply setPred_ok

theorem execShfl_ok {hd : Hdr} {d : Dst} {a b : Src} {m : MaskSrc} {mode : ShflMode} {s : State} (hm : MemOk s) :
    OutOk (execShfl hd d a b m mode s) := by
  unfold execShfl
  try dsimp only
  repeat' first | with_reducible assumption | with_reducible apply OutOk.next | with_reducible apply issueWide_ok
                | with_reducible apply finishNext_ok | refine OutOk.ite ?_ ?_ | refine MemOk.ite ?_ ?_
                | with_reducible apply MemOk.wf | simp only [MemOk.mk_eq] | intro _

theorem execVote_ok {hd : Hdr} {pd : PDst} {pa : Pred} {m : MaskSrc} {mode : VoteMode} {s : State} (hm : MemOk s) :
    OutOk (execVote hd pd pa m mode s) := by
  unfold execVote
  try dsimp only
  repeat' first | with_reducible assumption | with_reducible apply OutOk.next | with_reducible apply issueWide_ok
                | with_reducible apply finishNext_ok | intro _

theorem execBallot_ok {hd : Hdr} {d : Dst} {pa : Pred} {m : MaskSrc} {s : State} (hm : MemOk s) : OutOk
    (execBallot hd d pa m s) := by
  unfold execBallot
  try dsimp only
  repeat' first | with_reducible assumption | with_reducible apply OutOk.next | with_reducible apply issueWide_ok
                | with_reducible apply finishNext_ok | intro _

theorem execMatchv_ok {hd : Hdr} {d : Dst} {a : Src} {m : MaskSrc} {all : Bool} {ty : Ty} {s : State} (hm : MemOk s) :
    OutOk (execMatchv hd d a m all ty s) := by
  unfold execMatchv
  try dsimp only
  repeat' first | with_reducible assumption | with_reducible apply OutOk.next | with_reducible apply issueWide_ok
                | with_reducible apply finishNext_ok | intro _

theorem execRedux_ok {hd : Hdr} {d : Dst} {a : Src} {m : MaskSrc} {rop : ReduxOp} {ty : Ty} {s : State} (hm : MemOk s)
    : OutOk (execRedux hd d a m rop ty s) := by
  unfold execRedux
  try dsimp only
  repeat' first | with_reducible assumption | with_reducible apply OutOk.next | with_reducible apply issueWide_ok
                | with_reducible apply finishNext_ok | intro _

/-! ## Machine/Outside.lean -/

theorem extAnswer_ok {s : State} {pa t : Nat} {data : List Byte} {ok : Bool} (hm : MemOk s) : MemOk
    (extAnswer s pa t data ok) := by
  unfold extAnswer
  try dsimp only
  repeat' first | with_reducible assumption | with_reducible apply MemOk.stir | refine MemOk.ite ?_ ?_
                | with_reducible apply MemOk.wf | simp only [MemOk.mk_eq] | intro _ | split

theorem markHost_ok {s : State} {home pa : Nat} (hm : MemOk s) : MemOk (markHost s home pa) := by
  unfold markHost
  try dsimp only
  repeat' first | with_reducible assumption | with_reducible apply fillLine_ok | with_reducible apply MemOk.setLine

theorem extRead_ok {s : State} {mark : Bool} {pa n : Nat} (hm : MemOk s) : MemOk (extRead s mark pa n) := by
  unfold extRead
  try dsimp only
  repeat' first | with_reducible assumption | with_reducible apply extAnswer_ok | with_reducible apply markHost_ok
                | refine homeReadAt_ok (by with_reducible assumption) ?_ | refine MemOk.ite ?_ ?_
                | with_reducible apply MemOk.wf | simp only [MemOk.mk_eq] | intro _ | split

theorem extWrite_ok {s : State} {pa : Nat} {new ans : List Byte} (hm : MemOk s) : MemOk (extWrite s pa new ans) := by
  unfold extWrite
  try dsimp only
  repeat' first | with_reducible assumption | with_reducible apply extAnswer_ok
                | refine homeWriteAt_ok (by with_reducible assumption) ?_ | refine MemOk.ite ?_ ?_
                | with_reducible apply MemOk.wf | simp only [MemOk.mk_eq] | intro _ | split

theorem execHostCxlMemRequest_ok {write cacheable : Bool} {pa : Nat} {data : List Byte} {s : State} (hm : MemOk s) :
    OutOk (execHostCxlMemRequest write cacheable pa data s) := by
  unfold execHostCxlMemRequest
  try dsimp only
  repeat' first | with_reducible assumption | with_reducible apply OutOk.next | with_reducible apply extWrite_ok
                | with_reducible apply extRead_ok | refine OutOk.ite ?_ ?_ | refine MemOk.ite ?_ ?_

theorem execPeerRequest_ok {part pa : Nat} {op : PeerOp} {s : State} (hm : MemOk s) : OutOk
    (execPeerRequest part pa op s) := by
  unfold execPeerRequest
  try dsimp only
  repeat' first | with_reducible assumption | with_reducible apply OutOk.next | with_reducible apply extRead_ok
                | with_reducible apply extWrite_ok | refine OutOk.ite ?_ ?_ | refine MemOk.ite ?_ ?_
                | with_reducible apply MemOk.wf | simp only [MemOk.mk_eq] | intro _ | split

theorem dropMonitors_ok {s : State} {home line : Nat} (hm : MemOk s) : MemOk (dropMonitors s home line) := by
  unfold dropMonitors
  try dsimp only
  repeat' first | with_reducible assumption | refine MemOk.ite ?_ ?_ | with_reducible apply MemOk.wf
                | simp only [MemOk.mk_eq]

theorem execHostSnoop_ok {pa : Nat} {data : List Byte} {s : State} (hm : MemOk s) : OutOk (execHostSnoop pa data s) :=
    by
  unfold execHostSnoop
  try dsimp only
  repeat' first | with_reducible assumption | with_reducible apply OutOk.next | with_reducible apply fillLine_ok
                | with_reducible apply evictLine_ok | with_reducible apply MemOk.setLine
                | with_reducible apply dropMonitors_ok | with_reducible apply clearPoison_ok
                | with_reducible apply MemOk.wr | refine OutOk.ite ?_ ?_ | refine MemOk.ite ?_ ?_
                | with_reducible apply MemOk.wf | simp only [MemOk.mk_eq]

theorem wakeWrites_ok {s : State} {home line : Nat} (hm : MemOk s) : MemOk (wakeWrites s home line) := by
  unfold wakeWrites
  try dsimp only
  repeat' first | with_reducible assumption | with_reducible apply performCharged_ok | with_reducible apply setReq_ok
                | with_reducible apply MemOk.foldl | with_reducible apply MemOk.foldl_fst
                | with_reducible apply MemOk.foldl_snd | refine MemOk.ite ?_ ?_ | with_reducible apply MemOk.wf
                | simp only [MemOk.mk_eq] | intro _

theorem execHostOwnershipGrant_ok {line : Nat} {s : State} (hm : MemOk s) : OutOk (execHostOwnershipGrant line s) :=
    by
  unfold execHostOwnershipGrant
  try dsimp only
  repeat' first | with_reducible assumption | with_reducible apply OutOk.next | with_reducible apply fillLine_ok
                | with_reducible apply wakeWrites_ok | with_reducible apply MemOk.setLine | refine OutOk.ite ?_ ?_
                | refine MemOk.ite ?_ ?_

theorem execBackInvalidationResponse_ok {line : Nat} {s : State} (hm : MemOk s) : OutOk
    (execBackInvalidationResponse line s) := by
  unfold execBackInvalidationResponse
  try dsimp only
  repeat' first | with_reducible assumption | with_reducible apply OutOk.next | with_reducible apply wakeWrites_ok
                | with_reducible apply MemOk.setLine | with_reducible apply MemOk.foldl
                | with_reducible apply MemOk.foldl_fst | with_reducible apply MemOk.foldl_snd
                | with_reducible apply MemOk.wf | simp only [MemOk.mk_eq] | intro _

theorem turnBack_ok {s : State} {rs : Tbl Req} {wave cause : Nat} (hm : MemOk s) : MemOk (turnBack s rs wave cause) :=
    by
  unfold turnBack
  try dsimp only
  repeat' first | with_reducible assumption | with_reducible apply MemOk.updWave | with_reducible apply suspendWave_ok
                | with_reducible apply recordFault_ok | refine MemOk.ite ?_ ?_ | with_reducible apply MemOk.wf
                | simp only [MemOk.mk_eq] | intro _ | split

theorem offlineNote_ok {s : State} {r : AccReq} {die : Nat} (hm : MemOk s) : MemOk (offlineNote s r die) := by
  unfold offlineNote
  try dsimp only
  repeat' first | with_reducible assumption | with_reducible apply MemOk.updCluster
                | with_reducible apply freeWritten_ok | with_reducible apply pushFault_ok | refine MemOk.ite ?_ ?_
                | with_reducible apply MemOk.wf | simp only [MemOk.mk_eq] | intro _ | split

theorem execHomeOfflineReply_ok {req : Nat} {s : State} (hm : MemOk s) : OutOk (execHomeOfflineReply req s) := by
  unfold execHomeOfflineReply
  try dsimp only
  repeat' first | with_reducible assumption | with_reducible apply OutOk.next | with_reducible apply laneDone_ok
                | with_reducible apply turnBack_ok | with_reducible apply offlineNote_ok
                | with_reducible apply accReturn_ok | refine OutOk.ite ?_ ?_ | refine MemOk.ite ?_ ?_
                | with_reducible apply MemOk.wf | simp only [MemOk.mk_eq] | intro _ | split

theorem hodAnswer_ok {s : State} {req : Nat} {r : Req} {ok : Bool} {data : List Byte} (hm : MemOk s) : MemOk
    (hodAnswer s req r ok data) := by
  unfold hodAnswer
  try dsimp only
  repeat' first | with_reducible assumption | with_reducible apply hodFault_ok | with_reducible apply MemOk.updHop
                | with_reducible apply partDone_ok | refine MemOk.ite ?_ ?_ | with_reducible apply MemOk.wf
                | simp only [MemOk.mk_eq] | intro _ | split

theorem xdAnswer_ok {s : State} {req : Nat} {r : Req} {ok : Bool} {data : List Byte} (hm : MemOk s) : MemOk
    (xdAnswer s req r ok data) := by
  unfold xdAnswer
  try dsimp only
  repeat' first | with_reducible assumption | with_reducible apply MemOk.updPart | refine MemOk.ite ?_ ?_
                | with_reducible apply MemOk.wf | simp only [MemOk.mk_eq]

theorem peerAnswer_ok {s : State} {req : Nat} {r : Req} {ok : Bool} {data : List Byte} (hm : MemOk s) : MemOk
    (peerAnswer s req r ok data) := by
  unfold peerAnswer
  try dsimp only
  repeat' first | with_reducible assumption | with_reducible apply xdAnswer_ok | with_reducible apply hodAnswer_ok
                | with_reducible apply sendReply_ok | with_reducible apply keepToken_ok
                | with_reducible apply turnBack_ok | with_reducible apply MemOk.getD
                | refine tokenAnswer_ok (by with_reducible assumption) ?_ | refine MemOk.ite ?_ ?_ | intro _

theorem execPeerAcknowledgement_ok {req : Nat} {data : List Byte} {s : State} (hm : MemOk s) : OutOk
    (execPeerAcknowledgement req data s) := by
  unfold execPeerAcknowledgement
  try dsimp only
  repeat' first | with_reducible assumption | with_reducible apply OutOk.next | with_reducible apply peerAnswer_ok
                | with_reducible apply setReq_ok | refine OutOk.ite ?_ ?_ | refine MemOk.ite ?_ ?_
                | with_reducible apply MemOk.wf | simp only [MemOk.mk_eq] | intro _ | split

theorem execPeerUnreachable_ok {peer : Nat} {s : State} (hm : MemOk s) : OutOk (execPeerUnreachable peer s) := by
  unfold execPeerUnreachable
  try dsimp only
  repeat' first | with_reducible assumption | with_reducible apply OutOk.next | with_reducible apply MemOk.wf
                | simp only [MemOk.mk_eq]

/-! ## Machine/Window.lean -/

theorem hostReg_ok {s : State} {p idx : Nat} {x : DWord} (hm : MemOk s) : MemOk (hostReg s p idx x) := by
  unfold hostReg
  try dsimp only
  repeat' first | with_reducible assumption | with_reducible apply commitWrite_ok | with_reducible apply tlbInv_ok
                | with_reducible apply freeWritten_ok | with_reducible apply faultPtrs_ok
                | with_reducible apply MemOk.updPart | refine MemOk.ite ?_ ?_ | with_reducible apply MemOk.wf
                | simp only [MemOk.mk_eq] | intro _ | split

theorem hostMig_ok {s : State} {p : Nat} {x : DWord} (hm : MemOk s) : MemOk (hostMig s p x) := by
  unfold hostMig
  try dsimp only
  repeat' first | with_reducible assumption | with_reducible apply updMigr_ok | with_reducible apply migErr_ok
                | with_reducible apply migCommand_ok | refine MemOk.ite ?_ ?_

theorem hostPeer_ok {s : State} {p n : Nat} {high : Bool} {x : DWord} (hm : MemOk s) : MemOk (hostPeer s p n high x)
    := by
  unfold hostPeer
  try dsimp only
  repeat' first | with_reducible assumption | with_reducible apply MemOk.updPart

theorem hostMbox_ok {s : State} {fn o : Nat} {x : DWord} (hm : MemOk s) : MemOk (hostMbox s fn o x) := by
  unfold hostMbox
  try dsimp only
  repeat' first | with_reducible assumption | with_reducible apply MemOk.setMbox | with_reducible apply doorbell_ok
                | refine MemOk.ite ?_ ?_

theorem execRegisterWrite_ok {part off : Nat} {value : DWord} {s : State} (hm : MemOk s) : OutOk
    (execRegisterWrite part off value s) := by
  unfold execRegisterWrite
  try dsimp only
  repeat' first | with_reducible assumption | with_reducible apply OutOk.next | with_reducible apply hostMbox_ok
                | with_reducible apply MemOk.stir | with_reducible apply hostReg_ok | with_reducible apply hostMig_ok
                | with_reducible apply hostPeer_ok | refine OutOk.ite ?_ ?_ | refine MemOk.ite ?_ ?_

theorem hostRead_ok {s : State} {r : HostRead} (hm : MemOk s) : MemOk (hostRead s r) := by
  unfold hostRead
  try dsimp only
  repeat' first | with_reducible assumption | with_reducible apply MemOk.stir | refine MemOk.ite ?_ ?_
                | with_reducible apply MemOk.wf | simp only [MemOk.mk_eq] | intro _ | split

/-! ## Machine/Run.lean -/

theorem turnMove_ok {s : State} {t : Turn} (hm : MemOk s) : MemOk (turnMove s t).1 := by
  cases t with
  | event i => unfold turnMove; dsimp only; split <;> exact hm
  | read r => exact MemOk.ite hm (hostRead_ok hm)
  | port part slot record => exact hm
  | issue core q cls => exact issueSlot_ok hm
  | roller core => exact rollerSlot_ok hm
  | trowel p => exact trowelSlot_ok hm

theorem nextMove_ok {s : State} (hm : MemOk s) : MemOk (nextMove s).1 := by
  unfold nextMove
  split
  · exact hm
  · split
    · exact hm
    · split
      · exact hm
      · exact turnMove_ok hm
theorem nextMove_ok2 {s : State} {t x} (e : nextMove s = (t, x)) (hm : MemOk s) : MemOk t := by
  have h2 := nextMove_ok hm
  rw [e] at h2; exact h2

theorem readyState_ok {s : State} {t : Turn} (hm : MemOk s) : MemOk (readyState s t) := by
  unfold readyState
  try dsimp only
  repeat' first | with_reducible assumption | with_reducible apply MemOk.wf | simp only [MemOk.mk_eq]

theorem policyState_ok {s : State} {w : Word} (hm : MemOk s) : MemOk (policyState s w) := by
  unfold policyState
  try dsimp only
  repeat' first | with_reducible assumption | with_reducible apply readyState_ok | with_reducible apply MemOk.setPart

theorem teamState_ok {s : State} {mat : Bool} {stream : Option Stream} (hm : MemOk s) : MemOk (teamState s mat stream)
    := by
  unfold teamState
  try dsimp only
  repeat' first | with_reducible assumption | with_reducible apply MemOk.setGrid | with_reducible apply MemOk.setGang
                | with_reducible apply MemOk.setTeam | with_reducible apply MemOk.setPart

theorem waveState_ok {s : State} {w : Word96} (hm : MemOk s) : MemOk (waveState s w) := by
  unfold waveState
  try dsimp only
  repeat' first | with_reducible assumption | with_reducible apply teamState_ok | with_reducible apply readyState_ok
                | with_reducible apply MemOk.setWave | with_reducible apply MemOk.updCore
                | with_reducible apply MemOk.wr

theorem rollerState_ok {s : State} {w : Word96} (hm : MemOk s) : MemOk (rollerState s w) := by
  unfold rollerState
  try dsimp only
  repeat' first | with_reducible assumption | with_reducible apply teamState_ok | with_reducible apply readyState_ok
                | with_reducible apply MemOk.setWave

theorem placeWord_ok {s : State} {nbits w : Nat} (hm : MemOk s) : MemOk (placeWord s nbits w) := by
  unfold placeWord
  try dsimp only
  repeat' first | with_reducible assumption | with_reducible apply policyState_ok
                | with_reducible apply rollerState_ok | with_reducible apply waveState_ok | refine MemOk.ite ?_ ?_

/-! ## Every instruction -/

theorem exec_ok {s : State} (hm : MemOk s) (i : Instr) : OutOk (exec i s) := by
  cases i with
  | iadd x0 x1 x2 x3 x4 x5 => exact execIadd_ok hm
  | iaddImm x0 x1 x2 x3 x4 x5 => exact execIaddImm_ok hm
  | isub x0 x1 x2 x3 x4 x5 => exact execIsub_ok hm
  | imad x0 x1 x2 x3 x4 x5 x6 => exact execImad_ok hm
  | imadImm x0 x1 x2 x3 x4 => exact execImadImm_ok hm
  | imulh x0 x1 x2 x3 x4 => exact execImulh_ok hm
  | iadd64 x0 x1 x2 x3 => exact execIadd64_ok hm
  | iadd64Imm x0 x1 x2 x3 => exact execIadd64Imm_ok hm
  | lea x0 x1 x2 x3 x4 x5 => exact execLea_ok hm
  | leaImm x0 x1 x2 x3 x4 x5 => exact execLeaImm_ok hm
  | imin x0 x1 x2 x3 x4 => exact execImin_ok hm
  | imax x0 x1 x2 x3 x4 => exact execImax_ok hm
  | iminImm x0 x1 x2 x3 x4 => exact execIminImm_ok hm
  | imaxImm x0 x1 x2 x3 x4 => exact execImaxImm_ok hm
  | iabs x0 x1 x2 x3 x4 => exact execIabs_ok hm
  | isetp x0 x1 x2 x3 x4 x5 x6 x7 => exact execIsetp_ok hm
  | isetpImm x0 x1 x2 x3 x4 x5 => exact execIsetpImm_ok hm
  | isel x0 x1 x2 x3 x4 x5 x6 => exact execIsel_ok hm
  | iselImm x0 x1 x2 x3 x4 x5 x6 => exact execIselImm_ok hm
  | shl x0 x1 x2 x3 x4 => exact execShl_ok hm
  | shr x0 x1 x2 x3 x4 => exact execShr_ok hm
  | sar x0 x1 x2 x3 x4 => exact execSar_ok hm
  | shlImm x0 x1 x2 x3 x4 => exact execShlImm_ok hm
  | shrImm x0 x1 x2 x3 x4 => exact execShrImm_ok hm
  | sarImm x0 x1 x2 x3 x4 => exact execSarImm_ok hm
  | rot x0 x1 x2 x3 x4 x5 => exact execRot_ok hm
  | bool3 x0 x1 x2 x3 x4 x5 x6 => exact execBool3_ok hm
  | bool3Imm x0 x1 x2 x3 x4 => exact execBool3Imm_ok hm
  | popc x0 x1 x2 x3 => exact execPopc_ok hm
  | clz x0 x1 x2 x3 => exact execClz_ok hm
  | brev x0 x1 x2 x3 => exact execBrev_ok hm
  | bfe x0 x1 x2 x3 x4 => exact execBfe_ok hm
  | bfi x0 x1 x2 x3 x4 => exact execBfi_ok hm
  | bsel x0 x1 x2 x3 x4 => exact execBsel_ok hm
  | mov x0 x1 x2 x3 => exact execMov_ok hm
  | movi x0 x1 x2 x3 => exact execMovi_ok hm
  | movw x0 x1 x2 x3 => exact execMovw_ok hm
  | shfl x0 x1 x2 x3 x4 x5 => exact execShfl_ok hm
  | vote x0 x1 x2 x3 x4 => exact execVote_ok hm
  | ballot x0 x1 x2 x3 => exact execBallot_ok hm
  | matchv x0 x1 x2 x3 x4 x5 => exact execMatchv_ok hm
  | redux x0 x1 x2 x3 x4 x5 => exact execRedux_ok hm
  | s2v x0 x1 x2 => exact execS2v_ok hm
  | psetp x0 x1 x2 x3 x4 x5 x6 x7 => exact execPsetp_ok hm
  | plop x0 x1 x2 x3 x4 x5 => exact execPlop_ok hm
  | fadd x0 x1 x2 x3 x4 x5 => exact execFadd_ok hm
  | fmul x0 x1 x2 x3 x4 x5 => exact execFmul_ok hm
  | ffma x0 x1 x2 x3 x4 x5 x6 => exact execFfma_ok hm
  | fmin x0 x1 x2 x3 x4 x5 x6 x7 => exact execFmin_ok hm
  | fmax x0 x1 x2 x3 x4 x5 x6 x7 => exact execFmax_ok hm
  | fsetp x0 x1 x2 x3 x4 x5 x6 x7 x8 => exact execFsetp_ok hm
  | fclass x0 x1 x2 x3 => exact execFclass_ok hm
  | frcp x0 x1 x2 x3 x4 => exact execFrcp_ok hm
  | frsq x0 x1 x2 x3 => exact execFrsq_ok hm
  | fsqrt x0 x1 x2 x3 x4 => exact execFsqrt_ok hm
  | fex2 x0 x1 x2 x3 => exact execFex2_ok hm
  | flg2 x0 x1 x2 x3 => exact execFlg2_ok hm
  | fsin x0 x1 x2 x3 => exact execFsin_ok hm
  | fcos x0 x1 x2 x3 => exact execFcos_ok hm
  | specialFunctionResult x0 => exact execSpecialFunctionResult_ok hm
  | hadd2 x0 x1 x2 x3 x4 x5 => exact execHadd2_ok hm
  | hfma2 x0 x1 x2 x3 x4 x5 x6 => exact execHfma2_ok hm
  | dot4 x0 x1 x2 x3 x4 x5 x6 => exact execDot4_ok hm
  | dot2 x0 x1 x2 x3 x4 x5 x6 => exact execDot2_ok hm
  | faddImm x0 x1 x2 x3 x4 x5 x6 x7 => exact execFaddImm_ok hm
  | fmulImm x0 x1 x2 x3 x4 x5 x6 x7 => exact execFmulImm_ok hm
  | ffmaImm x0 x1 x2 x3 x4 x5 x6 x7 => exact execFfmaImm_ok hm
  | dadd x0 x1 x2 x3 x4 x5 x6 => exact execDadd_ok hm
  | dmul x0 x1 x2 x3 x4 x5 x6 => exact execDmul_ok hm
  | dfma x0 x1 x2 x3 x4 x5 x6 x7 => exact execDfma_ok hm
  | dsetp x0 x1 x2 x3 x4 x5 x6 => exact execDsetp_ok hm
  | cvt x0 x1 x2 x3 x4 x5 x6 x7 => exact execCvt_ok hm
  | cvtn x0 x1 x2 x3 x4 x5 x6 x7 => exact execCvtn_ok hm
  | cvtef x0 x1 x2 x3 x4 x5 x6 => exact execCvtef_ok hm
  | cvtw x0 x1 x2 x3 x4 x5 x6 => exact execCvtw_ok hm
  | pack x0 x1 x2 x3 x4 x5 x6 => exact execPack_ok hm
  | unpack x0 x1 x2 x3 x4 => exact execUnpack_ok hm
  | bscale x0 x1 x2 x3 x4 x5 => exact execBscale_ok hm
  | ld x0 x1 x2 x3 x4 x5 => exact execLd_ok hm
  | st x0 x1 x2 x3 x4 x5 => exact execSt_ok hm
  | ldl x0 x1 x2 x3 x4 => exact execLdl_ok hm
  | stl x0 x1 x2 x3 x4 => exact execStl_ok hm
  | ldw x0 x1 x2 x3 x4 x5 => exact execLdw_ok hm
  | pref x0 x1 x2 x3 => exact execPref_ok hm
  | cctlUse x0 x1 x2 x3 x4 => exact execCctlUse_ok hm
  | cctlL1drop x0 x1 x2 x3 => exact execCctlL1drop_ok hm
  | cctlWb x0 x1 x2 x3 => exact execCctlWb_ok hm
  | atom x0 x1 x2 x3 x4 x5 x6 x7 => exact execAtom_ok hm
  | atomLocal x0 x1 x2 x3 x4 x5 x6 => exact execAtomLocal_ok hm
  | acc x0 x1 x2 x3 x4 x5 x6 => exact execAcc_ok hm
  | flushres x0 => exact execFlushres_ok hm
  | fence x0 x1 x2 => exact execFence_ok hm
  | bar x0 x1 x2 x3 => exact execBar_ok hm
  | gbar x0 x1 x2 x3 => exact execGbar_ok hm
  | mwait x0 x1 x2 x3 x4 x5 x6 x7 => exact execMwait_ok hm
  | claim x0 x1 => exact execClaim_ok hm
  | release x0 x1 => exact execRelease_ok hm
  | nap x0 x1 => exact execNap_ok hm
  | gnewg x0 x1 x2 x3 => exact execGnewg_ok hm
  | gnewv x0 x1 x2 x3 x4 => exact execGnewv_ok hm
  | gfreev x0 x1 x2 x3 x4 => exact execGfreev_ok hm
  | gadd x0 x1 x2 x3 x4 x5 x6 => exact execGadd_ok hm
  | gdel x0 x1 x2 x3 x4 x5 x6 x7 => exact execGdel_ok hm
  | gswap x0 x1 x2 x3 x4 x5 x6 x7 => exact execGswap_ok hm
  | gswapShared x0 x1 x2 x3 x4 x5 x6 x7 => exact execGswapShared_ok hm
  | glde x0 x1 x2 x3 x4 x5 x6 => exact execGlde_ok hm
  | gdeg x0 x1 x2 x3 x4 x5 => exact execGdeg_ok hm
  | gldv x0 x1 x2 x3 x4 x5 x6 => exact execGldv_ok hm
  | gstv x0 x1 x2 x3 x4 x5 x6 x7 => exact execGstv_ok hm
  | gopen x0 x1 x2 x3 x4 x5 x6 => exact execGopen_ok hm
  | gnext x0 x1 x2 x3 => exact execGnext_ok hm
  | gseek x0 x1 x2 x3 x4 => exact execGseek_ok hm
  | gclose x0 x1 x2 x3 => exact execGclose_ok hm
  | gwaitlow x0 x1 x2 x3 x4 => exact execGwaitlow_ok hm
  | cpy x0 x1 x2 x3 x4 x5 x6 x7 x8 => exact execCpy_ok hm
  | ggath x0 x1 x2 x3 x4 x5 x6 x7 x8 => exact execGgath_ok hm
  | waitc x0 x1 x2 => exact execWaitc_ok hm
  | hwaitFull x0 x1 x2 => exact execHwaitFull_ok hm
  | hwaitFree x0 x1 => exact execHwaitFree_ok hm
  | hrel x0 x1 => exact execHrel_ok hm
  | mstart x0 x1 x2 x3 x4 => exact execMstart_ok hm
  | mstop x0 => exact execMstop_ok hm
  | bra x0 x1 => exact execBra_ok hm
  | brx x0 x1 => exact execBrx_ok hm
  | call x0 x1 => exact execCall_ok hm
  | ret x0 => exact execRet_ok hm
  | exit x0 => exact execExit_ok hm
  | conv x0 x1 => exact execConv_ok hm
  | yield x0 => exact execYield_ok hm
  | nop x0 => exact execNop_ok hm
  | bkpt x0 x1 => exact execBkpt_ok hm
  | trap x0 x1 => exact execTrap_ok hm
  | eret x0 x1 => exact execEret_ok hm
  | rdsys x0 x1 x2 => exact execRdsys_ok hm
  | wrsys x0 x1 x2 => exact execWrsys_ok hm
  | rdts x0 x1 => exact execRdts_ok hm
  | rdclk x0 x1 => exact execRdclk_ok hm
  | setprio x0 x1 => exact execSetprio_ok hm
  | mma x0 x1 x2 x3 x4 => exact execMma_ok hm
  | mzero x0 => exact execMzero_ok hm
  | mstore x0 x1 x2 x3 => exact execMstore_ok hm
  | mscale x0 x1 x2 => exact execMscale_ok hm
  | mbar x0 => exact execMbar_ok hm
  | mloop x0 x1 x2 => exact execMloop_ok hm
  | mfmt x0 x1 => exact execMfmt_ok hm
  | rollerStreamFetched x0 => exact execRollerStreamFetched_ok hm
  | policyLi x0 x1 => exact execPolicyLi_ok hm
  | policyLui x0 x1 => exact execPolicyLui_ok hm
  | policyAddi x0 x1 x2 => exact execPolicyAddi_ok hm
  | policyAdd x0 x1 x2 => exact execPolicyAdd_ok hm
  | policySub x0 x1 x2 => exact execPolicySub_ok hm
  | policyAnd x0 x1 x2 => exact execPolicyAnd_ok hm
  | policyOr x0 x1 x2 => exact execPolicyOr_ok hm
  | policyXor x0 x1 x2 => exact execPolicyXor_ok hm
  | policyShl x0 x1 x2 => exact execPolicyShl_ok hm
  | policyShr x0 x1 x2 => exact execPolicyShr_ok hm
  | policyMinu x0 x1 x2 => exact execPolicyMinu_ok hm
  | policyMaxu x0 x1 x2 => exact execPolicyMaxu_ok hm
  | policySltu x0 x1 x2 => exact execPolicySltu_ok hm
  | policyVq x0 x1 x2 => exact execPolicyVq_ok hm
  | policyVs x0 x1 x2 => exact execPolicyVs_ok hm
  | policyVp x0 x1 x2 => exact execPolicyVp_ok hm
  | policyVf x0 x1 => exact execPolicyVf_ok hm
  | policyVg x0 x1 => exact execPolicyVg_ok hm
  | policyFit x0 x1 x2 => exact execPolicyFit_ok hm
  | policyFind x0 x1 x2 => exact execPolicyFind_ok hm
  | policyBeq x0 x1 x2 => exact execPolicyBeq_ok hm
  | policyBne x0 x1 x2 => exact execPolicyBne_ok hm
  | policyBltu x0 x1 x2 => exact execPolicyBltu_ok hm
  | policyBgeu x0 x1 x2 => exact execPolicyBgeu_ok hm
  | policyBra x0 => exact execPolicyBra_ok hm
  | qloop x0 x1 => exact execQloop_ok hm
  | policyEndPlace x0 x1 => exact execPolicyEndPlace_ok hm
  | policyEndPreempt x0 => exact execPolicyEndPreempt_ok hm
  | homeRead x0 => exact execHomeRead_ok hm
  | leaseRenewal x0 => exact execLeaseRenewal_ok hm
  | homeWrite x0 => exact execHomeWrite_ok hm
  | readModifyWrite x0 => exact execReadModifyWrite_ok hm
  | readReply x0 => exact execReadReply_ok hm
  | writeReply x0 => exact execWriteReply_ok hm
  | ceilingHoldRelease x0 => exact execCeilingHoldRelease_ok hm
  | l2LineFill x0 x1 => exact execL2LineFill_ok hm
  | mwaitHomeRead x0 => exact execMwaitHomeRead_ok hm
  | monitorReread x0 => exact execMonitorReread_ok hm
  | peerWordPoll x0 x1 => exact execPeerWordPoll_ok hm
  | combiningEntryAge x0 x1 => exact execCombiningEntryAge_ok hm
  | accRequestSend x0 x1 => exact execAccRequestSend_ok hm
  | homeAccumulate x0 => exact execHomeAccumulate_ok hm
  | accUnitPerform x0 => exact execAccUnitPerform_ok hm
  | mustAcceptService x0 x1 => exact execMustAcceptService_ok hm
  | accAccepted x0 => exact execAccAccepted_ok hm
  | accRefused x0 => exact execAccRefused_ok hm
  | residualAgeExpiry x0 x1 => exact execResidualAgeExpiry_ok hm
  | residualDelivery x0 x1 => exact execResidualDelivery_ok hm
  | lathMutation x0 => exact execLathMutation_ok hm
  | lathRead x0 => exact execLathRead_ok hm
  | lathReply x0 => exact execLathReply_ok hm
  | gnewgComplete x0 => exact execGnewgComplete_ok hm
  | reclamation x0 x1 x2 x3 => exact execReclamation_ok hm
  | pageWalk x0 x1 => exact execPageWalk_ok hm
  | tlbInvPage x0 x1 x2 => exact execTlbInvPage_ok hm
  | tlbInvPasid x0 x1 => exact execTlbInvPasid_ok hm
  | tlbInvPartition x0 => exact execTlbInvPartition_ok hm
  | tlbInvComplete x0 => exact execTlbInvComplete_ok hm
  | faultPtrsWrite x0 x1 => exact execFaultPtrsWrite_ok hm
  | hodPart x0 x1 => exact execHodPart_ok hm
  | gatherRankResolve x0 x1 => exact execGatherRankResolve_ok hm
  | hodOperationComplete x0 => exact execHodOperationComplete_ok hm
  | waveRetirement x0 => exact execWaveRetirement_ok hm
  | gridCompletion x0 x1 => exact execGridCompletion_ok hm
  | trapClaimDeadlock x0 => exact execTrapClaimDeadlock_ok hm
  | throttleRelease x0 => exact execThrottleRelease_ok hm
  | napExpiry x0 => exact execNapExpiry_ok hm
  | dispatchDecision x0 => exact execDispatchDecision_ok hm
  | preemptionDecision x0 => exact execPreemptionDecision_ok hm
  | faultDecision x0 => exact execFaultDecision_ok hm
  | decisionApply x0 => exact execDecisionApply_ok hm
  | quantumExpiry x0 => exact execQuantumExpiry_ok hm
  | teamHalted x0 => exact execTeamHalted_ok hm
  | teamSaved x0 => exact execTeamSaved_ok hm
  | nodeArrival x0 x1 => exact execNodeArrival_ok hm
  | nodeCompletion x0 x1 => exact execNodeCompletion_ok hm
  | watchdogExpiry x0 => exact execWatchdogExpiry_ok hm
  | homeOfflineReply x0 => exact execHomeOfflineReply_ok hm
  | uncorrectableError x0 => exact execUncorrectableError_ok hm
  | hostCxlMemRequest x0 x1 x2 x3 => exact execHostCxlMemRequest_ok hm
  | hostSnoop x0 x1 => exact execHostSnoop_ok hm
  | backInvalidationResponse x0 => exact execBackInvalidationResponse_ok hm
  | peerRequest x0 x1 x2 => exact execPeerRequest_ok hm
  | registerWrite x0 x1 x2 => exact execRegisterWrite_ok hm
  | portGnewv x0 x1 x2 x3 => exact execPortGnewv_ok hm
  | portGadd x0 x1 x2 x3 x4 x5 => exact execPortGadd_ok hm
  | portGdel x0 x1 x2 x3 x4 => exact execPortGdel_ok hm
  | portGstv x0 x1 x2 x3 x4 x5 => exact execPortGstv_ok hm
  | portGldv x0 x1 x2 x3 x4 => exact execPortGldv_ok hm
  | portGdeg x0 x1 x2 x3 => exact execPortGdeg_ok hm
  | partCreate x0 x1 x2 x3 x4 x5 x6 => exact execPartCreate_ok hm
  | partDelete x0 x1 => exact execPartDelete_ok hm
  | warmReset x0 x1 => exact execWarmReset_ok hm
  | policyCommit x0 x1 => exact execPolicyCommit_ok hm
  | policyCommitChecksEnd x0 => exact execPolicyCommitChecksEnd_ok hm
  | policySlotExchange x0 => exact execPolicySlotExchange_ok hm
  | unassignedEncoding x0 => exact execUnassignedEncoding_ok hm
  | rollerUnassignedWord x0 => exact execRollerUnassignedWord_ok hm
  | mend => exact execMend_ok hm
  | policyEndNone => exact execPolicyEndNone_ok hm
  | policyEndResume => exact execPolicyEndResume_ok hm
  | policyEndSuspend => exact execPolicyEndSuspend_ok hm
  | policyEndKillteam => exact execPolicyEndKillteam_ok hm
  | policyEndKillgrid => exact execPolicyEndKillgrid_ok hm
  | policyEndEscalate => exact execPolicyEndEscalate_ok hm
  | ptsTick => exact execPtsTick_ok hm
  | ceilingAdvance => exact execCeilingAdvance_ok hm
  | throttleScoreHalving => exact execThrottleScoreHalving_ok hm
  | fullDeviceReset => exact execFullDeviceReset_ok hm
  | powerOn => exact execPowerOn_ok hm
  | securityAlarm => exact execSecurityAlarm_ok hm
  | thermalTrip => exact execThermalTrip_ok hm
  | coolantFlowTrip => exact execCoolantFlowTrip_ok hm
  | floorRecompute => exact execFloorRecompute_ok hm
  | modulePowerLimit x0 => exact execModulePowerLimit_ok hm
  | junctionTempLimit x0 x1 => exact execJunctionTempLimit_ok hm
  | hbmTempLimit x0 => exact execHbmTempLimit_ok hm
  | peerUnreachable x0 => exact execPeerUnreachable_ok hm
  | tokenRelease x0 => exact execTokenRelease_ok hm
  | spdmRequest x0 => exact execSpdmRequest_ok hm
  | dieReadmission x0 => exact execDieReadmission_ok hm
  | migPrecopy x0 => exact execMigPrecopy_ok hm
  | migStop x0 => exact execMigStop_ok hm
  | migContinue x0 => exact execMigContinue_ok hm
  | migResume x0 => exact execMigResume_ok hm
  | stoppingEnd x0 => exact execStoppingEnd_ok hm
  | migrationChunkRead x0 => exact execMigrationChunkRead_ok hm
  | migrationChunkWrite x0 x1 => exact execMigrationChunkWrite_ok hm
  | migCtlInvalidCommand x0 x1 => exact execMigCtlInvalidCommand_ok hm
  | mailboxDoorbellRefused x0 x1 => exact execMailboxDoorbellRefused_ok hm
  | graphPortInvalidRecord x0 x1 => exact execGraphPortInvalidRecord_ok hm
  | recover x0 x1 x2 => exact execRecover_ok hm
  | retire x0 x1 x2 => exact execRetire_ok hm
  | resume x0 x1 x2 x3 => exact execResume_ok hm
  | kill x0 x1 x2 x3 x4 => exact execKill_ok hm
  | peerAcknowledgement x0 x1 => exact execPeerAcknowledgement_ok hm
  | hostOwnershipGrant x0 => exact execHostOwnershipGrant_ok hm
  | mailboxCommandEnd x0 => exact execMailboxCommandEnd_ok hm

end Sys2Proof.Machine
end

