-- ==== Sys2Proof/Laws/PerInstr.lean ====
section
/-! SUPPORT. The statements made per instruction: family Codec, that the decoders read back what the encoders write. -/

namespace Sys2Proof.Laws.Codec

open Sys2Proof.Machine

/-- A well-formed word of a wave, of the Roller or of the Trowel is read back from the bytes that encode it. -/
def Statement (i : Instr) : Prop :=
  WellFormed i →
    ((hdrOf i).isSome → decodeWave (Raw.unpack (word96OfBytes (bytesOfWord96 (encode i)))) = .ok i) ∧
    (rollerWord i → decodeRoller (Raw.unpack (word96OfBytes (bytesOfWord96 (encode i)))) = .ok i) ∧
    ∀ w, encodePolicy i = some w → decodePolicy (wordOfBytes (bytesOfWord w)) = .ok i

/-- The guard and the hints of an encoded word. -/
theorem dec_hdr (op : BitVec 8) (hd : Hdr) (d a b m : BitVec 10) (x : Word) :
    Hdr.dec (mkRaw op hd d a b m x) = some hd := by
  simp [Hdr.dec, mkRaw]

/-- The fields of the opcodes of a nibble. -/
def fieldsOf (r : Raw) (hd : Hdr) : Option Instr :=
  match r.op.toNat / 16 with
  | 0 | 1 | 2 => fieldsInt r hd
  | 3 => fieldsMove r hd
  | 4 | 5 | 6 => fieldsFloat r hd
  | 7 | 8 | 9 => fieldsMem r hd
  | 10 => fieldsGraph r hd
  | 11 | 12 | 13 => fieldsCtl r hd
  | _ => none

/-! The fields of a word made of its parts. -/

section
variable (op : BitVec 8) (hd : Hdr) (d a b m : BitVec 10) (x : Word)

@[simp] theorem mkRaw_d : (mkRaw op hd d a b m x).d = d := rfl
@[simp] theorem mkRaw_a : (mkRaw op hd d a b m x).a = a := rfl
@[simp] theorem mkRaw_b : (mkRaw op hd d a b m x).b = b := rfl
@[simp] theorem mkRaw_m : (mkRaw op hd d a b m x).m = m := rfl
@[simp] theorem mkRaw_x : (mkRaw op hd d a b m x).x = x := rfl
@[simp] theorem rTy_mkRaw : rTy (mkRaw op hd d a b m x) = Ty.ofCode (m.extractLsb' 0 5) := rfl
@[simp] theorem rC_mkRaw : rC (mkRaw op hd d a b m x) = Src.dec (x.extractLsb' 0 10) := rfl
@[simp] theorem rPC_mkRaw : rPC (mkRaw op hd d a b m x) = x.extractLsb' 0 3 := rfl
@[simp] theorem rFn_mkRaw : rFn (mkRaw op hd d a b m x) = m.extractLsb' 0 8 := rfl
@[simp] theorem rRm_mkRaw : rRm (mkRaw op hd d a b m x) = Rm.ofCode (m.extractLsb' 8 2) := rfl
@[simp] theorem xRm_mkRaw : xRm (mkRaw op hd d a b m x) = Rm.ofCode (x.extractLsb' 10 2) := rfl
@[simp] theorem rFreg_mkRaw : rFreg (mkRaw op hd d a b m x) = m.extractLsb' 7 3 := rfl
@[simp] theorem rElem_mkRaw : rElem (mkRaw op hd d a b m x) = x.extractLsb' 12 3 := rfl

@[simp] theorem mkRoller_fields :
    (mkRoller op d a b m x).d = d ∧ (mkRoller op d a b m x).a = a ∧ (mkRoller op d a b m x).b = b ∧
      (mkRoller op d a b m x).m = m ∧ (mkRoller op d a b m x).x = x := ⟨rfl, rfl, rfl, rfl, rfl⟩

end

/-- An instruction of a wave whose fields are read back: `f` reads the fields of its opcode. -/
theorem of_wave {i : Instr} (f : Raw → Hdr → Option Instr) {op : BitVec 8} {hd : Hdr} {d a b m : BitVec 10} {x : Word}
    (he : encodeRaw i = mkRaw op hd d a b m x)
    (hf : fieldsOf (mkRaw op hd d a b m x) hd = f (mkRaw op hd d a b m x) hd)
    (h : f (mkRaw op hd d a b m x) hd = some i) (hop : op.toNat / 16 ≠ 14)
    (hr : rollerWord i = false) (hp : encodePolicy i = none) : Statement i := by
  intro hw
  have hw : wordOk i = true := hw
  refine ⟨fun _ => ?_, by simp [hr], by simp [hp]⟩
  have h1 : fieldsWave (mkRaw op hd d a b m x) = some i := by
    unfold fieldsWave
    rw [dec_hdr]
    exact hf.trans h
  have h2 : (mkRaw op hd d a b m x).op.toNat / 16 ≠ 14 := hop
  rw [word96OfBytes_bytes, encode, Raw.unpack_pack, he]
  simp [decodeWave, h2, h1, accept, hw, he]

/-- A word of the Roller whose fields are read back. -/
theorem of_roller {i : Instr} (f : Raw → Option Instr) {op : BitVec 8} {d a b m : BitVec 10} {x : Word}
    (he : encodeRaw i = mkRoller op d a b m x) (hf : fieldsRoller (mkRoller op d a b m x) = f (mkRoller op d a b m x))
    (h : f (mkRoller op d a b m x) = some i) (hh : hdrOf i = none) (hp : encodePolicy i = none) : Statement i := by
  intro hw
  have hw : wordOk i = true := hw
  refine ⟨by simp [hh], fun _ => ?_, by simp [hp]⟩
  rw [word96OfBytes_bytes, encode, Raw.unpack_pack, he]
  simp [decodeRoller, hf.trans h, accept, hw, he]

/-- A policy word whose fields are read back. -/
theorem of_policy {i : Instr} (h : ∀ w, encodePolicy i = some w → fieldsPolicy w = some i) (hh : hdrOf i = none)
    (hr : rollerWord i = false) : Statement i := by
  intro hw
  have hw : wordOk i = true := hw
  refine ⟨by simp [hh], by simp [hr], fun w hi => ?_⟩
  rw [wordOfBytes_bytes]
  simp [decodePolicy, h w hi, hi, hw]

/-- A step of another agent has no word. -/
theorem of_step {i : Instr} (hh : hdrOf i = none) (hr : rollerWord i = false) (hp : encodePolicy i = none) :
    Statement i := fun _ => ⟨by simp [hh], by simp [hr], by simp [hp]⟩

theorem iadd (hd : Hdr) (d : Dst) (a b : Src) (sat : Bool) (ty : Ty) : Statement (.iadd hd d a b sat ty) :=
  of_wave (fun r hd => do some (.iadd hd (← Dst.dec r.d) (← Src.dec r.a) (← Src.dec r.b) (fbit r.m 5) (← rTy r)))
    rfl (by simp only [fieldsOf, mkRaw]; rfl) (by simp [-Nat.reduceAdd]) (by decide) rfl rfl

theorem iaddImm (hd : Hdr) (d : Dst) (a : Src) (imm : Word) (sat : Bool) (ty : Ty) : Statement (.iaddImm hd d a imm
    sat ty) :=
  of_wave (fun r hd => do some (.iaddImm hd (← Dst.dec r.d) (← Src.dec r.a) r.x (fbit r.m 5) (← rTy r)))
    rfl (by simp only [fieldsOf, mkRaw]; rfl) (by simp [-Nat.reduceAdd]) (by decide) rfl rfl

theorem isub (hd : Hdr) (d : Dst) (a b : Src) (sat : Bool) (ty : Ty) : Statement (.isub hd d a b sat ty) :=
  of_wave (fun r hd => do some (.isub hd (← Dst.dec r.d) (← Src.dec r.a) (← Src.dec r.b) (fbit r.m 5) (← rTy r)))
    rfl (by simp only [fieldsOf, mkRaw]; rfl) (by simp [-Nat.reduceAdd]) (by decide) rfl rfl

theorem imad (hd : Hdr) (d : Dst) (a b c : Src) (wide : Bool) (ty : Ty) : Statement (.imad hd d a b c wide ty) :=
  of_wave (fun r hd => do some (.imad hd (← Dst.dec r.d) (← Src.dec r.a) (← Src.dec r.b) (← rC r) (fbit r.m 5) (←
    rTy r)))
    rfl (by simp only [fieldsOf, mkRaw]; rfl) (by simp [-Nat.reduceAdd]) (by decide) rfl rfl

theorem imadImm (hd : Hdr) (d : Dst) (a : Src) (imm : Word) (ty : Ty) : Statement (.imadImm hd d a imm ty) :=
  of_wave (fun r hd => do some (.imadImm hd (← Dst.dec r.d) (← Src.dec r.a) r.x (← rTy r)))
    rfl (by simp only [fieldsOf, mkRaw]; rfl) (by simp [-Nat.reduceAdd]) (by decide) rfl rfl

theorem imulh (hd : Hdr) (d : Dst) (a b : Src) (ty : Ty) : Statement (.imulh hd d a b ty) :=
  of_wave (fun r hd => do some (.imulh hd (← Dst.dec r.d) (← Src.dec r.a) (← Src.dec r.b) (← rTy r)))
    rfl (by simp only [fieldsOf, mkRaw]; rfl) (by simp [-Nat.reduceAdd]) (by decide) rfl rfl

theorem iadd64 (hd : Hdr) (d : Dst) (a b : Src) : Statement (.iadd64 hd d a b) :=
  of_wave (fun r hd => do some (.iadd64 hd (← Dst.dec r.d) (← Src.dec r.a) (← Src.dec r.b)))
    rfl (by simp only [fieldsOf, mkRaw]; rfl) (by simp [-Nat.reduceAdd]) (by decide) rfl rfl

theorem iadd64Imm (hd : Hdr) (d : Dst) (a : Src) (imm : Word) : Statement (.iadd64Imm hd d a imm) :=
  of_wave (fun r hd => do some (.iadd64Imm hd (← Dst.dec r.d) (← Src.dec r.a) r.x))
    rfl (by simp only [fieldsOf, mkRaw]; rfl) (by simp [-Nat.reduceAdd]) (by decide) rfl rfl

theorem lea (hd : Hdr) (d : Dst) (a b : Src) (sh : BitVec 4) (ty : Ty) : Statement (.lea hd d a b sh ty) :=
  of_wave (fun r hd => do some (.lea hd (← Dst.dec r.d) (← Src.dec r.a) (← Src.dec r.b) (r.m.extractLsb' 6 4) (←
    rTy r)))
    rfl (by simp only [fieldsOf, mkRaw]; rfl) (by simp [-Nat.reduceAdd]) (by decide) rfl rfl

theorem leaImm (hd : Hdr) (d : Dst) (a : Src) (imm : Word) (sh : BitVec 4) (ty : Ty) : Statement (.leaImm hd d a imm
    sh ty) :=
  of_wave (fun r hd => do some (.leaImm hd (← Dst.dec r.d) (← Src.dec r.a) r.x (r.m.extractLsb' 6 4) (← rTy r)))
    rfl (by simp only [fieldsOf, mkRaw]; rfl) (by simp [-Nat.reduceAdd]) (by decide) rfl rfl

theorem imin (hd : Hdr) (d : Dst) (a b : Src) (ty : Ty) : Statement (.imin hd d a b ty) :=
  of_wave (fun r hd => do some (.imin hd (← Dst.dec r.d) (← Src.dec r.a) (← Src.dec r.b) (← rTy r)))
    rfl (by simp only [fieldsOf, mkRaw]; rfl) (by simp [-Nat.reduceAdd]) (by decide) rfl rfl

theorem imax (hd : Hdr) (d : Dst) (a b : Src) (ty : Ty) : Statement (.imax hd d a b ty) :=
  of_wave (fun r hd => do some (.imax hd (← Dst.dec r.d) (← Src.dec r.a) (← Src.dec r.b) (← rTy r)))
    rfl (by simp only [fieldsOf, mkRaw]; rfl) (by simp [-Nat.reduceAdd]) (by decide) rfl rfl

theorem iminImm (hd : Hdr) (d : Dst) (a : Src) (imm : Word) (ty : Ty) : Statement (.iminImm hd d a imm ty) :=
  of_wave (fun r hd => do some (.iminImm hd (← Dst.dec r.d) (← Src.dec r.a) r.x (← rTy r)))
    rfl (by simp only [fieldsOf, mkRaw]; rfl) (by simp [-Nat.reduceAdd]) (by decide) rfl rfl

theorem imaxImm (hd : Hdr) (d : Dst) (a : Src) (imm : Word) (ty : Ty) : Statement (.imaxImm hd d a imm ty) :=
  of_wave (fun r hd => do some (.imaxImm hd (← Dst.dec r.d) (← Src.dec r.a) r.x (← rTy r)))
    rfl (by simp only [fieldsOf, mkRaw]; rfl) (by simp [-Nat.reduceAdd]) (by decide) rfl rfl

theorem iabs (hd : Hdr) (d : Dst) (a : Src) (sat : Bool) (ty : Ty) : Statement (.iabs hd d a sat ty) :=
  of_wave (fun r hd => do some (.iabs hd (← Dst.dec r.d) (← Src.dec r.a) (fbit r.m 5) (← rTy r)))
    rfl (by simp only [fieldsOf, mkRaw]; rfl) (by simp [-Nat.reduceAdd]) (by decide) rfl rfl

theorem isetp (hd : Hdr) (pd : PDst) (a b : Src) (pc : Pred) (cmp : Cmp) (bop : Bop) (ty : Ty) : Statement (.isetp
    hd pd a b pc cmp bop ty) :=
  of_wave (fun r hd => do some (.isetp hd (PDst.dec r.d) (← Src.dec r.a) (← Src.dec r.b) (rPC r) (← Cmp.ofCode
    (r.m.extractLsb' 5 3)) (← Bop.ofCode (r.m.extractLsb' 8 2)) (← rTy r)))
    rfl (by simp only [fieldsOf, mkRaw]; rfl) (by simp [-Nat.reduceAdd]) (by decide) rfl rfl

theorem isetpImm (hd : Hdr) (pd : PDst) (a : Src) (imm : Word) (cmp : Cmp) (ty : Ty) : Statement (.isetpImm hd pd a
    imm cmp ty) :=
  of_wave (fun r hd => do some (.isetpImm hd (PDst.dec r.d) (← Src.dec r.a) r.x (← Cmp.ofCode (r.m.extractLsb' 5
    3)) (← rTy r)))
    rfl (by simp only [fieldsOf, mkRaw]; rfl) (by simp [-Nat.reduceAdd]) (by decide) rfl rfl

theorem isel (hd : Hdr) (d : Dst) (a b : Src) (pneg : Bool) (pr : Pred) (ty : Ty) : Statement (.isel hd d a b pneg
    pr ty) :=
  of_wave (fun r hd => do some (.isel hd (← Dst.dec r.d) (← Src.dec r.a) (← Src.dec r.b) (fbit r.m 9)
    (r.m.extractLsb' 6 3) (← rTy r)))
    rfl (by simp only [fieldsOf, mkRaw]; rfl) (by simp [-Nat.reduceAdd]) (by decide) rfl rfl

theorem iselImm (hd : Hdr) (d : Dst) (a : Src) (imm : Word) (pneg : Bool) (pr : Pred) (ty : Ty) : Statement
    (.iselImm hd d a imm pneg pr ty) :=
  of_wave (fun r hd => do some (.iselImm hd (← Dst.dec r.d) (← Src.dec r.a) r.x (fbit r.m 9) (r.m.extractLsb' 6 3)
    (← rTy r)))
    rfl (by simp only [fieldsOf, mkRaw]; rfl) (by simp [-Nat.reduceAdd]) (by decide) rfl rfl

theorem shl (hd : Hdr) (d : Dst) (a b : Src) (ty : Ty) : Statement (.shl hd d a b ty) :=
  of_wave (fun r hd => do some (.shl hd (← Dst.dec r.d) (← Src.dec r.a) (← Src.dec r.b) (← rTy r)))
    rfl (by simp only [fieldsOf, mkRaw]; rfl) (by simp [-Nat.reduceAdd]) (by decide) rfl rfl

theorem shr (hd : Hdr) (d : Dst) (a b : Src) (ty : Ty) : Statement (.shr hd d a b ty) :=
  of_wave (fun r hd => do some (.shr hd (← Dst.dec r.d) (← Src.dec r.a) (← Src.dec r.b) (← rTy r)))
    rfl (by simp only [fieldsOf, mkRaw]; rfl) (by simp [-Nat.reduceAdd]) (by decide) rfl rfl

theorem sar (hd : Hdr) (d : Dst) (a b : Src) (ty : Ty) : Statement (.sar hd d a b ty) :=
  of_wave (fun r hd => do some (.sar hd (← Dst.dec r.d) (← Src.dec r.a) (← Src.dec r.b) (← rTy r)))
    rfl (by simp only [fieldsOf, mkRaw]; rfl) (by simp [-Nat.reduceAdd]) (by decide) rfl rfl

theorem shlImm (hd : Hdr) (d : Dst) (a : Src) (amt : BitVec 6) (ty : Ty) : Statement (.shlImm hd d a amt ty) :=
  of_wave (fun r hd => do some (.shlImm hd (← Dst.dec r.d) (← Src.dec r.a) (r.x.extractLsb' 0 6) (← rTy r)))
    rfl (by simp only [fieldsOf, mkRaw]; rfl) (by simp [-Nat.reduceAdd]) (by decide) rfl rfl

theorem shrImm (hd : Hdr) (d : Dst) (a : Src) (amt : BitVec 6) (ty : Ty) : Statement (.shrImm hd d a amt ty) :=
  of_wave (fun r hd => do some (.shrImm hd (← Dst.dec r.d) (← Src.dec r.a) (r.x.extractLsb' 0 6) (← rTy r)))
    rfl (by simp only [fieldsOf, mkRaw]; rfl) (by simp [-Nat.reduceAdd]) (by decide) rfl rfl

theorem sarImm (hd : Hdr) (d : Dst) (a : Src) (amt : BitVec 6) (ty : Ty) : Statement (.sarImm hd d a amt ty) :=
  of_wave (fun r hd => do some (.sarImm hd (← Dst.dec r.d) (← Src.dec r.a) (r.x.extractLsb' 0 6) (← rTy r)))
    rfl (by simp only [fieldsOf, mkRaw]; rfl) (by simp [-Nat.reduceAdd]) (by decide) rfl rfl

theorem rot (hd : Hdr) (d : Dst) (a b : Src) (right : Bool) (ty : Ty) : Statement (.rot hd d a b right ty) :=
  of_wave (fun r hd => do some (.rot hd (← Dst.dec r.d) (← Src.dec r.a) (← Src.dec r.b) (fbit r.m 5) (← rTy r)))
    rfl (by simp only [fieldsOf, mkRaw]; rfl) (by simp [-Nat.reduceAdd]) (by decide) rfl rfl

theorem bool3 (hd : Hdr) (d : Dst) (a b c : Src) (w64 : Bool) (fn : BitVec 8) : Statement (.bool3 hd d a b c w64 fn)
    :=
  of_wave (fun r hd => do some (.bool3 hd (← Dst.dec r.d) (← Src.dec r.a) (← Src.dec r.b) (← rC r) (fbit r.m 8)
    (rFn r)))
    rfl (by simp only [fieldsOf, mkRaw]; rfl) (by simp [-Nat.reduceAdd]) (by decide) rfl rfl

theorem bool3Imm (hd : Hdr) (d : Dst) (a : Src) (imm : Word) (fn : BitVec 8) : Statement (.bool3Imm hd d a imm fn)
    :=
  of_wave (fun r hd => do some (.bool3Imm hd (← Dst.dec r.d) (← Src.dec r.a) r.x (rFn r)))
    rfl (by simp only [fieldsOf, mkRaw]; rfl) (by simp [-Nat.reduceAdd]) (by decide) rfl rfl

theorem popc (hd : Hdr) (d : Dst) (a : Src) (ty : Ty) : Statement (.popc hd d a ty) :=
  of_wave (fun r hd => do some (.popc hd (← Dst.dec r.d) (← Src.dec r.a) (← rTy r)))
    rfl (by simp only [fieldsOf, mkRaw]; rfl) (by simp [-Nat.reduceAdd]) (by decide) rfl rfl

theorem clz (hd : Hdr) (d : Dst) (a : Src) (ty : Ty) : Statement (.clz hd d a ty) :=
  of_wave (fun r hd => do some (.clz hd (← Dst.dec r.d) (← Src.dec r.a) (← rTy r)))
    rfl (by simp only [fieldsOf, mkRaw]; rfl) (by simp [-Nat.reduceAdd]) (by decide) rfl rfl

theorem brev (hd : Hdr) (d : Dst) (a : Src) (ty : Ty) : Statement (.brev hd d a ty) :=
  of_wave (fun r hd => do some (.brev hd (← Dst.dec r.d) (← Src.dec r.a) (← rTy r)))
    rfl (by simp only [fieldsOf, mkRaw]; rfl) (by simp [-Nat.reduceAdd]) (by decide) rfl rfl

theorem bfe (hd : Hdr) (d : Dst) (a b : Src) (ty : Ty) : Statement (.bfe hd d a b ty) :=
  of_wave (fun r hd => do some (.bfe hd (← Dst.dec r.d) (← Src.dec r.a) (← Src.dec r.b) (← rTy r)))
    rfl (by simp only [fieldsOf, mkRaw]; rfl) (by simp [-Nat.reduceAdd]) (by decide) rfl rfl

theorem bfi (hd : Hdr) (d : Dst) (a b c : Src) : Statement (.bfi hd d a b c) :=
  of_wave (fun r hd => do some (.bfi hd (← Dst.dec r.d) (← Src.dec r.a) (← Src.dec r.b) (← rC r)))
    rfl (by simp only [fieldsOf, mkRaw]; rfl) (by simp [-Nat.reduceAdd]) (by decide) rfl rfl

theorem bsel (hd : Hdr) (d : Dst) (a b c : Src) : Statement (.bsel hd d a b c) :=
  of_wave (fun r hd => do some (.bsel hd (← Dst.dec r.d) (← Src.dec r.a) (← Src.dec r.b) (← rC r)))
    rfl (by simp only [fieldsOf, mkRaw]; rfl) (by simp [-Nat.reduceAdd]) (by decide) rfl rfl

theorem mov (hd : Hdr) (d : Dst) (a : Src) (ty : Ty) : Statement (.mov hd d a ty) :=
  of_wave (fun r hd => do some (.mov hd (← Dst.dec r.d) (← Src.dec r.a) (← rTy r)))
    rfl (by simp only [fieldsOf, mkRaw]; rfl) (by simp [-Nat.reduceAdd]) (by decide) rfl rfl

theorem movi (hd : Hdr) (d : Dst) (imm : Word) (ty : Ty) : Statement (.movi hd d imm ty) :=
  of_wave (fun r hd => do some (.movi hd (← Dst.dec r.d) r.x (← rTy r)))
    rfl (by simp only [fieldsOf, mkRaw]; rfl) (by simp [-Nat.reduceAdd]) (by decide) rfl rfl

theorem movw (hd : Hdr) (d : Dst) (a : Src) (ln : BitVec 5) : Statement (.movw hd d a ln) :=
  of_wave (fun r hd => do some (.movw hd (← Dst.dec r.d) (← Src.dec r.a) (r.x.extractLsb' 0 5)))
    rfl (by simp only [fieldsOf, mkRaw]; rfl) (by simp [-Nat.reduceAdd]) (by decide) rfl rfl

theorem shfl (hd : Hdr) (d : Dst) (a b : Src) (m : MaskSrc) (mode : ShflMode) : Statement (.shfl hd d a b m mode) :=
  of_wave (fun r hd => do some (.shfl hd (← Dst.dec r.d) (← Src.dec r.a) (← Src.dec r.b) (MaskSrc.decX r.x) (←
    ShflMode.ofCode (r.m.extractLsb' 0 3))))
    rfl (by simp only [fieldsOf, mkRaw]; rfl) (by simp [-Nat.reduceAdd]) (by decide) rfl rfl

theorem vote (hd : Hdr) (pd : PDst) (pa : Pred) (m : MaskSrc) (mode : VoteMode) : Statement (.vote hd pd pa m mode)
    :=
  of_wave (fun r hd => do some (.vote hd (PDst.dec r.d) (decPred r.a) (MaskSrc.decX r.x) (← VoteMode.ofCode
    (r.m.extractLsb' 0 2))))
    rfl (by simp only [fieldsOf, mkRaw]; rfl) (by simp [-Nat.reduceAdd]) (by decide) rfl rfl

theorem ballot (hd : Hdr) (d : Dst) (pa : Pred) (m : MaskSrc) : Statement (.ballot hd d pa m) :=
  of_wave (fun r hd => do some (.ballot hd (← Dst.dec r.d) (decPred r.a) (MaskSrc.decX r.x)))
    rfl (by simp only [fieldsOf, mkRaw]; rfl) (by simp [-Nat.reduceAdd]) (by decide) rfl rfl

theorem matchv (hd : Hdr) (d : Dst) (a : Src) (m : MaskSrc) (all : Bool) (ty : Ty) : Statement (.matchv hd d a m all
    ty) :=
  of_wave (fun r hd => do some (.matchv hd (← Dst.dec r.d) (← Src.dec r.a) (MaskSrc.decX r.x) (fbit r.m 5) (← rTy
    r)))
    rfl (by simp only [fieldsOf, mkRaw]; rfl) (by simp [-Nat.reduceAdd]) (by decide) rfl rfl

theorem redux (hd : Hdr) (d : Dst) (a : Src) (m : MaskSrc) (rop : ReduxOp) (ty : Ty) : Statement (.redux hd d a m
    rop ty) :=
  of_wave (fun r hd => do some (.redux hd (← Dst.dec r.d) (← Src.dec r.a) (MaskSrc.decX r.x) (← ReduxOp.ofCode
    (r.m.extractLsb' 5 3)) (← rTy r)))
    rfl (by simp only [fieldsOf, mkRaw]; rfl) (by simp [-Nat.reduceAdd]) (by decide) rfl rfl

theorem s2v (hd : Hdr) (d : Dst) (wa : BitVec 7) : Statement (.s2v hd d wa) :=
  of_wave (fun r hd => do some (.s2v hd (← Dst.dec r.d) (decW r.a)))
    rfl (by simp only [fieldsOf, mkRaw]; rfl) (by simp [-Nat.reduceAdd]) (by decide) rfl rfl

theorem psetp (hd : Hdr) (pd : PDst) (a b : Src) (pc : Pred) (z : Bool) (bop : Bop) (ty : Ty) : Statement (.psetp hd
    pd a b pc z bop ty) :=
  of_wave (fun r hd => do some (.psetp hd (PDst.dec r.d) (← Src.dec r.a) (← Src.dec r.b) (rPC r) (fbit r.m 5) (←
    Bop.ofCode (r.m.extractLsb' 8 2)) (← rTy r)))
    rfl (by simp only [fieldsOf, mkRaw]; rfl) (by simp [-Nat.reduceAdd]) (by decide) rfl rfl

theorem plop (hd : Hdr) (pd : PDst) (pa pb pc : Pred) (fn : BitVec 8) : Statement (.plop hd pd pa pb pc fn) :=
  of_wave (fun r hd => some (.plop hd (PDst.dec r.d) (decPred r.a) (decPred r.b) (rPC r) (rFn r)))
    rfl (by simp only [fieldsOf, mkRaw]; rfl) (by simp [-Nat.reduceAdd]) (by decide) rfl rfl

theorem fadd (hd : Hdr) (d : Dst) (a b : Src) (fm : FMod) (ty : Ty) : Statement (.fadd hd d a b fm ty) :=
  of_wave (fun r hd => do some (.fadd hd (← Dst.dec r.d) (← Src.dec r.a) (← Src.dec r.b) (FMod.decM r.m) (← rTy
    r)))
    rfl (by simp only [fieldsOf, mkRaw]; rfl) (by simp [-Nat.reduceAdd]) (by decide) rfl rfl

theorem fmul (hd : Hdr) (d : Dst) (a b : Src) (fm : FMod) (ty : Ty) : Statement (.fmul hd d a b fm ty) :=
  of_wave (fun r hd => do some (.fmul hd (← Dst.dec r.d) (← Src.dec r.a) (← Src.dec r.b) (FMod.decM r.m) (← rTy
    r)))
    rfl (by simp only [fieldsOf, mkRaw]; rfl) (by simp [-Nat.reduceAdd]) (by decide) rfl rfl

theorem ffma (hd : Hdr) (d : Dst) (a b c : Src) (fm : FMod) (ty : Ty) : Statement (.ffma hd d a b c fm ty) :=
  of_wave (fun r hd => do some (.ffma hd (← Dst.dec r.d) (← Src.dec r.a) (← Src.dec r.b) (← rC r) (FMod.decM r.m)
    (← rTy r)))
    rfl (by simp only [fieldsOf, mkRaw]; rfl) (by simp [-Nat.reduceAdd]) (by decide) rfl rfl

theorem fmin (hd : Hdr) (d : Dst) (a b : Src) (ftz na nl : Bool) (ty : Ty) : Statement (.fmin hd d a b ftz na nl ty)
    :=
  of_wave (fun r hd => do some (.fmin hd (← Dst.dec r.d) (← Src.dec r.a) (← Src.dec r.b) (fbit r.m 7) (fbit r.m 6)
    (fbit r.m 5) (← rTy r)))
    rfl (by simp only [fieldsOf, mkRaw]; rfl) (by simp [-Nat.reduceAdd]) (by decide) rfl rfl

theorem fmax (hd : Hdr) (d : Dst) (a b : Src) (ftz na nl : Bool) (ty : Ty) : Statement (.fmax hd d a b ftz na nl ty)
    :=
  of_wave (fun r hd => do some (.fmax hd (← Dst.dec r.d) (← Src.dec r.a) (← Src.dec r.b) (fbit r.m 7) (fbit r.m 6)
    (fbit r.m 5) (← rTy r)))
    rfl (by simp only [fieldsOf, mkRaw]; rfl) (by simp [-Nat.reduceAdd]) (by decide) rfl rfl

theorem fsetp (hd : Hdr) (pd : PDst) (a b : Src) (pc : Pred) (bop : Bop) (ftz : Bool) (cmp : FCmp) (ty : Ty) :
    Statement (.fsetp hd pd a b pc bop ftz cmp ty) :=
  of_wave (fun r hd => do some (.fsetp hd (PDst.dec r.d) (← Src.dec r.a) (← Src.dec r.b) (rPC r) (← Bop.ofCode
    (r.x.extractLsb' 10 2)) (fbit r.m 9) (← FCmp.ofCode (r.m.extractLsb' 5 4)) (← rTy r)))
    rfl (by simp only [fieldsOf, mkRaw]; rfl) (by simp [-Nat.reduceAdd]) (by decide) rfl rfl

theorem fclass (hd : Hdr) (d : Dst) (a : Src) (ty : Ty) : Statement (.fclass hd d a ty) :=
  of_wave (fun r hd => do some (.fclass hd (← Dst.dec r.d) (← Src.dec r.a) (← rTy r)))
    rfl (by simp only [fieldsOf, mkRaw]; rfl) (by simp [-Nat.reduceAdd]) (by decide) rfl rfl

theorem frcp (hd : Hdr) (d : DReg) (a : Src) (rm : Rm) (ftz : Bool) : Statement (.frcp hd d a rm ftz) :=
  of_wave fieldsSfu
    rfl (by simp only [fieldsOf, mkRaw]; rfl) (by simp [fieldsSfu, -Nat.reduceAdd]) (by decide) rfl rfl

theorem frsq (hd : Hdr) (d : DReg) (a : Src) (ftz : Bool) : Statement (.frsq hd d a ftz) :=
  of_wave fieldsSfu
    rfl (by simp only [fieldsOf, mkRaw]; rfl) (by simp [fieldsSfu, -Nat.reduceAdd]) (by decide) rfl rfl

theorem fsqrt (hd : Hdr) (d : DReg) (a : Src) (rm : Rm) (ftz : Bool) : Statement (.fsqrt hd d a rm ftz) :=
  of_wave fieldsSfu
    rfl (by simp only [fieldsOf, mkRaw]; rfl) (by simp [fieldsSfu, -Nat.reduceAdd]) (by decide) rfl rfl

theorem fex2 (hd : Hdr) (d : DReg) (a : Src) (ftz : Bool) : Statement (.fex2 hd d a ftz) :=
  of_wave fieldsSfu
    rfl (by simp only [fieldsOf, mkRaw]; rfl) (by simp [fieldsSfu, -Nat.reduceAdd]) (by decide) rfl rfl

theorem flg2 (hd : Hdr) (d : DReg) (a : Src) (ftz : Bool) : Statement (.flg2 hd d a ftz) :=
  of_wave fieldsSfu
    rfl (by simp only [fieldsOf, mkRaw]; rfl) (by simp [fieldsSfu, -Nat.reduceAdd]) (by decide) rfl rfl

theorem fsin (hd : Hdr) (d : DReg) (a : Src) (ftz : Bool) : Statement (.fsin hd d a ftz) :=
  of_wave fieldsSfu
    rfl (by simp only [fieldsOf, mkRaw]; rfl) (by simp [fieldsSfu, -Nat.reduceAdd]) (by decide) rfl rfl

theorem fcos (hd : Hdr) (d : DReg) (a : Src) (ftz : Bool) : Statement (.fcos hd d a ftz) :=
  of_wave fieldsSfu
    rfl (by simp only [fieldsOf, mkRaw]; rfl) (by simp [fieldsSfu, -Nat.reduceAdd]) (by decide) rfl rfl

theorem specialFunctionResult (seq : Nat) : Statement (.specialFunctionResult seq) := of_step rfl rfl rfl

theorem hadd2 (hd : Hdr) (d : Dst) (a b : Src) (fm : FMod) (ty : Ty) : Statement (.hadd2 hd d a b fm ty) :=
  of_wave (fun r hd => do some (.hadd2 hd (← Dst.dec r.d) (← Src.dec r.a) (← Src.dec r.b) (FMod.decM r.m) (← rTy
    r)))
    rfl (by simp only [fieldsOf, mkRaw]; rfl) (by simp [-Nat.reduceAdd]) (by decide) rfl rfl

theorem hfma2 (hd : Hdr) (d : Dst) (a b c : Src) (fm : FMod) (ty : Ty) : Statement (.hfma2 hd d a b c fm ty) :=
  of_wave (fun r hd => do some (.hfma2 hd (← Dst.dec r.d) (← Src.dec r.a) (← Src.dec r.b) (← rC r) (FMod.decM r.m)
    (← rTy r)))
    rfl (by simp only [fieldsOf, mkRaw]; rfl) (by simp [-Nat.reduceAdd]) (by decide) rfl rfl

theorem dot4 (hd : Hdr) (d : Dst) (a b c : Src) (sat : Bool) (ty : Ty) : Statement (.dot4 hd d a b c sat ty) :=
  of_wave (fun r hd => do some (.dot4 hd (← Dst.dec r.d) (← Src.dec r.a) (← Src.dec r.b) (← rC r) (fbit r.m 7) (←
    rTy r)))
    rfl (by simp only [fieldsOf, mkRaw]; rfl) (by simp [-Nat.reduceAdd]) (by decide) rfl rfl

theorem dot2 (hd : Hdr) (d : Dst) (a b c : Src) (rm : Rm) (ty : Ty) : Statement (.dot2 hd d a b c rm ty) :=
  of_wave (fun r hd => do some (.dot2 hd (← Dst.dec r.d) (← Src.dec r.a) (← Src.dec r.b) (← rC r) (rRm r) (← rTy
    r)))
    rfl (by simp only [fieldsOf, mkRaw]; rfl) (by simp [-Nat.reduceAdd]) (by decide) rfl rfl

theorem faddImm (hd : Hdr) (d : Dst) (a : Src) (imm : Word) (rm : Rm) (ftz na : Bool) (ty : Ty) : Statement
    (.faddImm hd d a imm rm ftz na ty) :=
  of_wave (fun r hd => do some (.faddImm hd (← Dst.dec r.d) (← Src.dec r.a) r.x (rRm r) (fbit r.m 7) (fbit r.m 6)
    (← rTy r)))
    rfl (by simp only [fieldsOf, mkRaw]; rfl) (by simp [-Nat.reduceAdd]) (by decide) rfl rfl

theorem fmulImm (hd : Hdr) (d : Dst) (a : Src) (imm : Word) (rm : Rm) (ftz na : Bool) (ty : Ty) : Statement
    (.fmulImm hd d a imm rm ftz na ty) :=
  of_wave (fun r hd => do some (.fmulImm hd (← Dst.dec r.d) (← Src.dec r.a) r.x (rRm r) (fbit r.m 7) (fbit r.m 6)
    (← rTy r)))
    rfl (by simp only [fieldsOf, mkRaw]; rfl) (by simp [-Nat.reduceAdd]) (by decide) rfl rfl

theorem ffmaImm (hd : Hdr) (d : Dst) (a : Src) (imm : Word) (rm : Rm) (ftz na : Bool) (ty : Ty) : Statement
    (.ffmaImm hd d a imm rm ftz na ty) :=
  of_wave (fun r hd => do some (.ffmaImm hd (← Dst.dec r.d) (← Src.dec r.a) r.x (rRm r) (fbit r.m 7) (fbit r.m 6)
    (← rTy r)))
    rfl (by simp only [fieldsOf, mkRaw]; rfl) (by simp [-Nat.reduceAdd]) (by decide) rfl rfl

theorem dadd (hd : Hdr) (d : Dst) (a b : Src) (rm : Rm) (na nl : Bool) : Statement (.dadd hd d a b rm na nl) :=
  of_wave (fun r hd => do some (.dadd hd (← Dst.dec r.d) (← Src.dec r.a) (← Src.dec r.b) (rRm r) (fbit r.m 6)
    (fbit r.m 5)))
    rfl (by simp only [fieldsOf, mkRaw]; rfl) (by simp [-Nat.reduceAdd]) (by decide) rfl rfl

theorem dmul (hd : Hdr) (d : Dst) (a b : Src) (rm : Rm) (na nl : Bool) : Statement (.dmul hd d a b rm na nl) :=
  of_wave (fun r hd => do some (.dmul hd (← Dst.dec r.d) (← Src.dec r.a) (← Src.dec r.b) (rRm r) (fbit r.m 6)
    (fbit r.m 5)))
    rfl (by simp only [fieldsOf, mkRaw]; rfl) (by simp [-Nat.reduceAdd]) (by decide) rfl rfl

theorem dfma (hd : Hdr) (d : Dst) (a b c : Src) (rm : Rm) (na nl : Bool) : Statement (.dfma hd d a b c rm na nl) :=
  of_wave (fun r hd => do some (.dfma hd (← Dst.dec r.d) (← Src.dec r.a) (← Src.dec r.b) (← rC r) (rRm r) (fbit
    r.m 6) (fbit r.m 5)))
    rfl (by simp only [fieldsOf, mkRaw]; rfl) (by simp [-Nat.reduceAdd]) (by decide) rfl rfl

theorem dsetp (hd : Hdr) (pd : PDst) (a b : Src) (pc : Pred) (bop : Bop) (cmp : FCmp) : Statement (.dsetp hd pd a b
    pc bop cmp) :=
  of_wave (fun r hd => do some (.dsetp hd (PDst.dec r.d) (← Src.dec r.a) (← Src.dec r.b) (rPC r) (← Bop.ofCode
    (r.x.extractLsb' 10 2)) (← FCmp.ofCode (r.m.extractLsb' 5 4))))
    rfl (by simp only [fieldsOf, mkRaw]; rfl) (by simp [-Nat.reduceAdd]) (by decide) rfl rfl

theorem cvt (hd : Hdr) (d : Dst) (a : Src) (rm : Rm) (ftz sat : Bool) (sty ty : Ty) : Statement (.cvt hd d a rm ftz
    sat sty ty) :=
  of_wave (fun r hd => do some (.cvt hd (← Dst.dec r.d) (← Src.dec r.a) (xRm r) (fbit r.x 12) (fbit r.x 13) (←
    Ty.ofCode (r.m.extractLsb' 5 5)) (← rTy r)))
    rfl (by simp only [fieldsOf, mkRaw]; rfl) (by simp [-Nat.reduceAdd]) (by decide) rfl rfl

theorem cvtn (hd : Hdr) (d : Dst) (a : Src) (elem : BitVec 3) (rm : Rm) (freg : BitVec 3) (fromN : Bool) (ty : Ty) :
    Statement (.cvtn hd d a elem rm freg fromN ty) :=
  of_wave (fun r hd => do some (.cvtn hd (← Dst.dec r.d) (← Src.dec r.a) (rElem r) (xRm r) (rFreg r) (fbit r.m 6)
    (← rTy r)))
    rfl (by simp only [fieldsOf, mkRaw]; rfl) (by simp [-Nat.reduceAdd]) (by decide) rfl rfl

theorem cvtef (hd : Hdr) (d : Dst) (a : Src) (r : BitVec 8) (elem : BitVec 3) (freg : BitVec 3) (ty : Ty) :
    Statement (.cvtef hd d a r elem freg ty) :=
  of_wave (fun r hd => do some (.cvtef hd (← Dst.dec r.d) (← Src.dec r.a) (r.b.extractLsb' 0 8) (rElem r) (rFreg
    r) (← rTy r)))
    rfl (by simp only [fieldsOf, mkRaw]; rfl) (by simp [-Nat.reduceAdd]) (by decide) rfl rfl

theorem cvtw (hd : Hdr) (d : Dst) (a : Src) (elem : BitVec 3) (rm : Rm) (freg : BitVec 3) (ty : Ty) : Statement
    (.cvtw hd d a elem rm freg ty) :=
  of_wave (fun r hd => do some (.cvtw hd (← Dst.dec r.d) (← Src.dec r.a) (rElem r) (xRm r) (rFreg r) (← rTy r)))
    rfl (by simp only [fieldsOf, mkRaw]; rfl) (by simp [-Nat.reduceAdd]) (by decide) rfl rfl

theorem pack (hd : Hdr) (d : Dst) (a b : Src) (rm : Rm) (ftz : Bool) (ty : Ty) : Statement (.pack hd d a b rm ftz
    ty) :=
  of_wave (fun r hd => do some (.pack hd (← Dst.dec r.d) (← Src.dec r.a) (← Src.dec r.b) (xRm r) (fbit r.x 12) (←
    rTy r)))
    rfl (by simp only [fieldsOf, mkRaw]; rfl) (by simp [-Nat.reduceAdd]) (by decide) rfl rfl

theorem unpack (hd : Hdr) (d : Dst) (a : Src) (ftz : Bool) (ty : Ty) : Statement (.unpack hd d a ftz ty) :=
  of_wave (fun r hd => do some (.unpack hd (← Dst.dec r.d) (← Src.dec r.a) (fbit r.x 12) (← rTy r)))
    rfl (by simp only [fieldsOf, mkRaw]; rfl) (by simp [-Nat.reduceAdd]) (by decide) rfl rfl

theorem bscale (hd : Hdr) (d : Dst) (a b : Src) (freg : BitVec 3) (mode : BsMode) : Statement (.bscale hd d a b freg
    mode) :=
  of_wave (fun r hd => do some (.bscale hd (← Dst.dec r.d) (← Src.dec r.a) (← Src.dec r.b) (rFreg r) (←
    BsMode.ofCode (r.m.extractLsb' 5 2))))
    rfl (by simp only [fieldsOf, mkRaw]; rfl) (by simp [-Nat.reduceAdd]) (by decide) rfl rfl

theorem ld (hd : Hdr) (d : DReg) (a : Src) (off : BitVec 24) (ch : CHint) (mt : MemTy) : Statement (.ld hd d a off
    ch mt) :=
  of_wave (fun r hd => do some (.ld hd (← DReg.dec r.d) (← Src.dec r.a) (decOff r.x) (decHint r.x) (← MemTy.ofCode
    (r.m.extractLsb' 0 6))))
    rfl (by simp only [fieldsOf, mkRaw]; rfl) (by simp [-Nat.reduceAdd]) (by decide) rfl rfl

theorem st (hd : Hdr) (a : Src) (off : BitVec 24) (b : Src) (ch : CHint) (mt : MemTy) : Statement (.st hd a off b ch
    mt) :=
  of_wave (fun r hd => do some (.st hd (← Src.dec r.a) (decOff r.x) (← Src.dec r.b) (decHint r.x) (← MemTy.ofCode
    (r.m.extractLsb' 0 6))))
    rfl (by simp only [fieldsOf, mkRaw]; rfl) (by simp [-Nat.reduceAdd]) (by decide) rfl rfl

theorem ldl (hd : Hdr) (d : DReg) (a : Src) (off : BitVec 24) (mt : MemTy) : Statement (.ldl hd d a off mt) :=
  of_wave (fun r hd => do some (.ldl hd (← DReg.dec r.d) (← Src.dec r.a) (decOff r.x) (← MemTy.ofCode
    (r.m.extractLsb' 0 6))))
    rfl (by simp only [fieldsOf, mkRaw]; rfl) (by simp [-Nat.reduceAdd]) (by decide) rfl rfl

theorem stl (hd : Hdr) (a : Src) (off : BitVec 24) (b : Src) (mt : MemTy) : Statement (.stl hd a off b mt) :=
  of_wave (fun r hd => do some (.stl hd (← Src.dec r.a) (decOff r.x) (← Src.dec r.b) (← MemTy.ofCode
    (r.m.extractLsb' 0 6))))
    rfl (by simp only [fieldsOf, mkRaw]; rfl) (by simp [-Nat.reduceAdd]) (by decide) rfl rfl

theorem ldw (hd : Hdr) (d : BitVec 7) (a : BitVec 7) (off : BitVec 24) (ch : CHint) (ty : Ty) : Statement (.ldw hd d
    a off ch ty) :=
  of_wave (fun r hd => do some (.ldw hd (decW r.d) (decW r.a) (decOff r.x) (decHint r.x) (← rTy r)))
    rfl (by simp only [fieldsOf, mkRaw]; rfl) (by simp [-Nat.reduceAdd]) (by decide) rfl rfl

theorem pref (hd : Hdr) (a : Src) (off : BitVec 24) (ch : CHint) : Statement (.pref hd a off ch) :=
  of_wave (fun r hd => do some (.pref hd (← Src.dec r.a) (decOff r.x) (decHint r.x)))
    rfl (by simp only [fieldsOf, mkRaw]; rfl) (by simp [-Nat.reduceAdd]) (by decide) rfl rfl

theorem cctlUse (hd : Hdr) (a : Src) (off : BitVec 24) (b : Src) (ch : CHint) : Statement (.cctlUse hd a off b ch)
    :=
  of_wave (fun r hd => do some (.cctlUse hd (← Src.dec r.a) (decOff r.x) (← Src.dec r.b) (decHint r.x)))
    rfl (by simp only [fieldsOf, mkRaw, fieldsMem]; rfl) (by simp [-Nat.reduceAdd]) (by decide) rfl rfl

theorem cctlL1drop (hd : Hdr) (a : Src) (off : BitVec 24) (ch : CHint) : Statement (.cctlL1drop hd a off ch) :=
  of_wave (fun r hd => do some (.cctlL1drop hd (← Src.dec r.a) (decOff r.x) (decHint r.x)))
    rfl (by simp only [fieldsOf, mkRaw, fieldsMem]; rfl) (by simp [-Nat.reduceAdd]) (by decide) rfl rfl

theorem cctlWb (hd : Hdr) (a : Src) (off : BitVec 24) (ch : CHint) : Statement (.cctlWb hd a off ch) :=
  of_wave (fun r hd => do some (.cctlWb hd (← Src.dec r.a) (decOff r.x) (decHint r.x)))
    rfl (by simp only [fieldsOf, mkRaw, fieldsMem]; rfl) (by simp [-Nat.reduceAdd]) (by decide) rfl rfl

theorem atom (hd : Hdr) (d : DReg) (a : Src) (off : BitVec 24) (b : Src) (ch : CHint) (aop : Aop) (ty : Ty) :
    Statement (.atom hd d a off b ch aop ty) :=
  of_wave (fun r hd => do some (.atom hd (← DReg.dec r.d) (← Src.dec r.a) (decOff r.x) (← Src.dec r.b) (decHint
    r.x) (← Aop.ofCode (r.m.extractLsb' 5 4)) (← rTy r)))
    rfl (by simp only [fieldsOf, mkRaw]; rfl) (by simp [-Nat.reduceAdd]) (by decide) rfl rfl

theorem atomLocal (hd : Hdr) (d : DReg) (a : Src) (off : BitVec 24) (b : Src) (aop : Aop) (ty : Ty) : Statement
    (.atomLocal hd d a off b aop ty) :=
  of_wave (fun r hd => do some (.atomLocal hd (← DReg.dec r.d) (← Src.dec r.a) (decOff r.x) (← Src.dec r.b) (←
    Aop.ofCode (r.m.extractLsb' 5 4)) (← rTy r)))
    rfl (by simp only [fieldsOf, mkRaw]; rfl) (by simp [-Nat.reduceAdd]) (by decide) rfl rfl

theorem acc (hd : Hdr) (a : Src) (off : BitVec 24) (b : Src) (ch : CHint) (aop : AccOp) (ty : Ty) : Statement (.acc
    hd a off b ch aop ty) :=
  of_wave (fun r hd => do some (.acc hd (← Src.dec r.a) (decOff r.x) (← Src.dec r.b) (decHint r.x) (← AccOp.ofCode
    (r.m.extractLsb' 5 2)) (← rTy r)))
    rfl (by simp only [fieldsOf, mkRaw]; rfl) (by simp [-Nat.reduceAdd]) (by decide) rfl rfl

theorem flushres (hd : Hdr) : Statement (.flushres hd) :=
  of_wave (fun r hd => some (.flushres hd))
    rfl (by simp only [fieldsOf, mkRaw]; rfl) (by simp [-Nat.reduceAdd]) (by decide) rfl rfl

theorem fence (hd : Hdr) (agent : Agent) (sp : Spaces) : Statement (.fence hd agent sp) :=
  of_wave (fun r hd => some (.fence hd (Agent.ofCode (r.m.extractLsb' 0 2)) ⟨fbit r.m 5, fbit r.m 4, fbit r.m 3,
    fbit r.m 2⟩))
    rfl (by simp only [fieldsOf, mkRaw]; rfl) (by simp [-Nat.reduceAdd]) (by decide) rfl rfl

theorem bar (hd : Hdr) (bn : BitVec 4) (stages : BitVec 4) (arrive : Bool) : Statement (.bar hd bn stages arrive) :=
  of_wave (fun r hd => some (.bar hd (r.x.extractLsb' 0 4) (r.x.extractLsb' 4 4) (fbit r.x 8)))
    rfl (by simp only [fieldsOf, mkRaw]; rfl) (by simp [-Nat.reduceAdd]) (by decide) rfl rfl

theorem gbar (hd : Hdr) (bn : BitVec 2) (stages : BitVec 4) (arrive : Bool) : Statement (.gbar hd bn stages arrive)
    :=
  of_wave (fun r hd => some (.gbar hd (r.x.extractLsb' 0 2) (r.x.extractLsb' 4 4) (fbit r.x 8)))
    rfl (by simp only [fieldsOf, mkRaw]; rfl) (by simp [-Nat.reduceAdd]) (by decide) rfl rfl

theorem mwait (hd : Hdr) (d : DReg) (a : Src) (off : BitVec 24) (b : Src) (ch : CHint) (cmp : Cmp) (ty : Ty) :
    Statement (.mwait hd d a off b ch cmp ty) :=
  of_wave (fun r hd => do some (.mwait hd (← DReg.dec r.d) (← Src.dec r.a) (decOff r.x) (← Src.dec r.b) (decHint
    r.x) (← Cmp.ofCode (r.m.extractLsb' 5 3)) (← rTy r)))
    rfl (by simp only [fieldsOf, mkRaw]; rfl) (by simp [-Nat.reduceAdd]) (by decide) rfl rfl

theorem claim (hd : Hdr) (n : BitVec 5) : Statement (.claim hd n) :=
  of_wave (fun r hd => some (.claim hd (r.x.extractLsb' 0 5)))
    rfl (by simp only [fieldsOf, mkRaw]; rfl) (by simp [-Nat.reduceAdd]) (by decide) rfl rfl

theorem release (hd : Hdr) (n : BitVec 5) : Statement (.release hd n) :=
  of_wave (fun r hd => some (.release hd (r.x.extractLsb' 0 5)))
    rfl (by simp only [fieldsOf, mkRaw]; rfl) (by simp [-Nat.reduceAdd]) (by decide) rfl rfl

theorem nap (hd : Hdr) (n : BitVec 12) : Statement (.nap hd n) :=
  of_wave (fun r hd => some (.nap hd (r.x.extractLsb' 0 12)))
    rfl (by simp only [fieldsOf, mkRaw]; rfl) (by simp [-Nat.reduceAdd]) (by decide) rfl rfl

theorem gnewg (hd : Hdr) (pd : Pred) (d : DReg) (a : Src) : Statement (.gnewg hd pd d a) :=
  of_wave (fun r hd => do some (.gnewg hd (decPD r.m) (← DReg.dec r.d) (← Src.dec r.a)))
    rfl (by simp only [fieldsOf, mkRaw]; rfl) (by simp [-Nat.reduceAdd]) (by decide) rfl rfl

theorem gnewv (hd : Hdr) (pd : Pred) (d : DReg) (g : GidSrc) (a : Src) : Statement (.gnewv hd pd d g a) :=
  of_wave (fun r hd => do some (.gnewv hd (decPD r.m) (← DReg.dec r.d) (decGid r.x) (← Src.dec r.a)))
    rfl (by simp only [fieldsOf, mkRaw]; rfl) (by simp [-Nat.reduceAdd]) (by decide) rfl rfl

theorem gfreev (hd : Hdr) (pd : Pred) (d : DReg) (g : GidSrc) (a : Src) : Statement (.gfreev hd pd d g a) :=
  of_wave (fun r hd => do some (.gfreev hd (decPD r.m) (← DReg.dec r.d) (decGid r.x) (← Src.dec r.a)))
    rfl (by simp only [fieldsOf, mkRaw]; rfl) (by simp [-Nat.reduceAdd]) (by decide) rfl rfl

theorem gadd (hd : Hdr) (pd : Pred) (d : DReg) (g : GidSrc) (a b : Src) (c : Option Src) : Statement (.gadd hd pd d
    g a b c) :=
  of_wave (fun r hd => do
      let c ← if fbit r.m 5 then (rC r).map some else some none
      some (.gadd hd (decPD r.m) (← DReg.dec r.d) (decGid r.x) (← Src.dec r.a) (← Src.dec r.b) c))
    rfl (by simp only [fieldsOf, mkRaw]; rfl) (by cases c <;> simp [-Nat.reduceAdd]) (by decide) rfl rfl

theorem gdel (hd : Hdr) (pd : Pred) (d : DReg) (g : GidSrc) (a b : Src) (dir : Dir) (byEnd : Bool) : Statement
    (.gdel hd pd d g a b dir byEnd) :=
  of_wave (fun r hd => do some (.gdel hd (decPD r.m) (← DReg.dec r.d) (decGid r.x) (← Src.dec r.a) (← Src.dec r.b)
    (decDir r.m) (fbit r.m 5)))
    rfl (by simp only [fieldsOf, mkRaw]; rfl) (by simp [-Nat.reduceAdd]) (by decide) rfl rfl

theorem gswap (hd : Hdr) (pd : Pred) (d : DReg) (g : GidSrc) (a b c : Src) (dir : Dir) : Statement (.gswap hd pd d g
    a b c dir) :=
  of_wave (fun r hd => do
      let d ← DReg.dec r.d
      let a ← Src.dec r.a
      let b ← Src.dec r.b
      let c ← rC r
      if fbit r.m 5 then some (.gswapShared hd (decPD r.m) d (decGid r.x) a b c (decDir r.m)) else some (.gswap hd (decPD r.m) d (decGid r.x) a b c (decDir r.m)))
    rfl (by simp only [fieldsOf, mkRaw]; rfl) (by simp [-Nat.reduceAdd]) (by decide) rfl rfl

theorem gswapShared (hd : Hdr) (pd : Pred) (d : DReg) (g : GidSrc) (a b c : Src) (dir : Dir) : Statement
    (.gswapShared hd pd d g a b c dir) :=
  of_wave (fun r hd => do
      let d ← DReg.dec r.d
      let a ← Src.dec r.a
      let b ← Src.dec r.b
      let c ← rC r
      if fbit r.m 5 then some (.gswapShared hd (decPD r.m) d (decGid r.x) a b c (decDir r.m)) else some (.gswap hd (decPD r.m) d (decGid r.x) a b c (decDir r.m)))
    rfl (by simp only [fieldsOf, mkRaw]; rfl) (by simp [-Nat.reduceAdd]) (by decide) rfl rfl

theorem glde (hd : Hdr) (pd : Pred) (d : DReg) (g : GidSrc) (a b : Src) (dir : Dir) : Statement (.glde hd pd d g a b
    dir) :=
  of_wave (fun r hd => do some (.glde hd (decPD r.m) (← DReg.dec r.d) (decGid r.x) (← Src.dec r.a) (← Src.dec r.b)
    (decDir r.m)))
    rfl (by simp only [fieldsOf, mkRaw]; rfl) (by simp [-Nat.reduceAdd]) (by decide) rfl rfl

theorem gdeg (hd : Hdr) (pd : Pred) (d : DReg) (g : GidSrc) (a : Src) (dir : Dir) : Statement (.gdeg hd pd d g a
    dir) :=
  of_wave (fun r hd => do some (.gdeg hd (decPD r.m) (← DReg.dec r.d) (decGid r.x) (← Src.dec r.a) (decDir r.m)))
    rfl (by simp only [fieldsOf, mkRaw]; rfl) (by simp [-Nat.reduceAdd]) (by decide) rfl rfl

theorem gldv (hd : Hdr) (pd : Pred) (d : DReg) (g : GidSrc) (a : Src) (sz : Bool) (off : BitVec 5) : Statement
    (.gldv hd pd d g a sz off) :=
  of_wave (fun r hd => do some (.gldv hd (decPD r.m) (← DReg.dec r.d) (decGid r.x) (← Src.dec r.a) (fbit r.m 5)
    (r.m.extractLsb' 0 5)))
    rfl (by simp only [fieldsOf, mkRaw]; rfl) (by simp [-Nat.reduceAdd]) (by decide) rfl rfl

theorem gstv (hd : Hdr) (pd : Pred) (d : DReg) (g : GidSrc) (a b : Src) (sz : Bool) (off : BitVec 5) : Statement
    (.gstv hd pd d g a b sz off) :=
  of_wave (fun r hd => do some (.gstv hd (decPD r.m) (← DReg.dec r.d) (decGid r.x) (← Src.dec r.a) (← Src.dec r.b)
    (fbit r.m 5) (r.m.extractLsb' 0 5)))
    rfl (by simp only [fieldsOf, mkRaw]; rfl) (by simp [-Nat.reduceAdd]) (by decide) rfl rfl

theorem gopen (hd : Hdr) (pd : Pred) (d : DReg) (g : GidSrc) (a : Src) (dir : Dir) (cur : BitVec 2) : Statement
    (.gopen hd pd d g a dir cur) :=
  of_wave (fun r hd => do some (.gopen hd (decPD r.m) (← DReg.dec r.d) (decGid r.x) (← Src.dec r.a) (decDir r.m)
    (decCur r.m)))
    rfl (by simp only [fieldsOf, mkRaw]; rfl) (by simp [-Nat.reduceAdd]) (by decide) rfl rfl

theorem gnext (hd : Hdr) (pd : Pred) (d : DReg) (cur : BitVec 2) : Statement (.gnext hd pd d cur) :=
  of_wave (fun r hd => do some (.gnext hd (decPD r.m) (← DReg.dec r.d) (decCur r.m)))
    rfl (by simp only [fieldsOf, mkRaw]; rfl) (by simp [-Nat.reduceAdd]) (by decide) rfl rfl

theorem gseek (hd : Hdr) (pd : Pred) (d : DReg) (b : Src) (cur : BitVec 2) : Statement (.gseek hd pd d b cur) :=
  of_wave (fun r hd => do some (.gseek hd (decPD r.m) (← DReg.dec r.d) (← Src.dec r.b) (decCur r.m)))
    rfl (by simp only [fieldsOf, mkRaw]; rfl) (by simp [-Nat.reduceAdd]) (by decide) rfl rfl

theorem gclose (hd : Hdr) (pd : Pred) (d : DReg) (cur : BitVec 2) : Statement (.gclose hd pd d cur) :=
  of_wave (fun r hd => do some (.gclose hd (decPD r.m) (← DReg.dec r.d) (decCur r.m)))
    rfl (by simp only [fieldsOf, mkRaw]; rfl) (by simp [-Nat.reduceAdd]) (by decide) rfl rfl

theorem gwaitlow (hd : Hdr) (pd : Pred) (d : DReg) (g : GidSrc) (a : Src) : Statement (.gwaitlow hd pd d g a) :=
  of_wave (fun r hd => do some (.gwaitlow hd (decPD r.m) (← DReg.dec r.d) (decGid r.x) (← Src.dec r.a)))
    rfl (by simp only [fieldsOf, mkRaw]; rfl) (by simp [-Nat.reduceAdd]) (by decide) rfl rfl

theorem cpy (hd : Hdr) (a b : Src) (len : BitVec 8) (hnd : BitVec 6) (hen : Bool) (rcnt : BitVec 5) (dir : CpyDir)
    (grp : Grp) : Statement (.cpy hd a b len hnd hen rcnt dir grp) :=
  of_wave (fun r hd => do some (.cpy hd (← Src.dec r.a) (← Src.dec r.b) (r.x.extractLsb' 24 8) (r.x.extractLsb' 18
    6) (fbit r.x 17) (r.x.extractLsb' 12 5) (CpyDir.ofCode (r.m.extractLsb' 2 2)) (← Grp.ofCode (r.m.extractLsb' 0
    2))))
    rfl (by simp only [fieldsOf, mkRaw]; rfl) (by simp [-Nat.reduceAdd]) (by decide) rfl rfl

theorem ggath (hd : Hdr) (d : BitVec 7) (g : GidSrc) (a b c : Src) (mode : GMode) (loc : Bool) (dir : Dir) :
    Statement (.ggath hd d g a b c mode loc dir) :=
  of_wave (fun r hd => do some (.ggath hd (decW r.d) (decGid r.x) (← Src.dec r.a) (← Src.dec r.b) (← rC r) (←
    GMode.ofCode (r.m.extractLsb' 8 2)) (fbit r.m 7) (decDir r.m)))
    rfl (by simp only [fieldsOf, mkRaw]; rfl) (by simp [-Nat.reduceAdd]) (by decide) rfl rfl

theorem waitc (hd : Hdr) (cls : Cls) (n : BitVec 6) : Statement (.waitc hd cls n) :=
  of_wave (fun r hd => do some (.waitc hd (← Cls.ofCode (r.x.extractLsb' 6 2)) (r.x.extractLsb' 0 6)))
    rfl (by simp only [fieldsOf, mkRaw]; rfl) (by simp [-Nat.reduceAdd]) (by decide) rfl rfl

theorem hwaitFull (hd : Hdr) (d : DReg) (hnd : BitVec 6) : Statement (.hwaitFull hd d hnd) :=
  of_wave (fun r hd => do
      if fbit r.x 6 then some (.hwaitFree hd (r.x.extractLsb' 0 6))
      else some (.hwaitFull hd (← DReg.dec r.d) (r.x.extractLsb' 0 6)))
    rfl (by simp only [fieldsOf, mkRaw]; rfl) (by simp [-Nat.reduceAdd]) (by decide) rfl rfl

theorem hwaitFree (hd : Hdr) (hnd : BitVec 6) : Statement (.hwaitFree hd hnd) :=
  of_wave (fun r hd => do
      if fbit r.x 6 then some (.hwaitFree hd (r.x.extractLsb' 0 6))
      else some (.hwaitFull hd (← DReg.dec r.d) (r.x.extractLsb' 0 6)))
    rfl (by simp only [fieldsOf, mkRaw]; rfl) (by simp [-Nat.reduceAdd]) (by decide) rfl rfl

theorem hrel (hd : Hdr) (hnd : BitVec 6) : Statement (.hrel hd hnd) :=
  of_wave (fun r hd => some (.hrel hd (r.x.extractLsb' 0 6)))
    rfl (by simp only [fieldsOf, mkRaw]; rfl) (by simp [-Nat.reduceAdd]) (by decide) rfl rfl

theorem mstart (hd : Hdr) (a b : Src) (count : BitVec 8) (mask : BitVec 16) : Statement (.mstart hd a b count mask)
    :=
  of_wave (fun r hd => do some (.mstart hd (← Src.dec r.a) (← Src.dec r.b) (r.m.extractLsb' 0 8) (r.x.extractLsb'
    16 16)))
    rfl (by simp only [fieldsOf, mkRaw]; rfl) (by simp [-Nat.reduceAdd]) (by decide) rfl rfl

theorem mstop (hd : Hdr) : Statement (.mstop hd) :=
  of_wave (fun r hd => some (.mstop hd))
    rfl (by simp only [fieldsOf, mkRaw]; rfl) (by simp [-Nat.reduceAdd]) (by decide) rfl rfl

theorem bra (hd : Hdr) (off : Word) : Statement (.bra hd off) :=
  of_wave (fun r hd => some (.bra hd r.x))
    rfl (by simp only [fieldsOf, mkRaw]; rfl) (by simp [-Nat.reduceAdd]) (by decide) rfl rfl

theorem brx (hd : Hdr) (a : Src) : Statement (.brx hd a) :=
  of_wave (fun r hd => do some (.brx hd (← Src.dec r.a)))
    rfl (by simp only [fieldsOf, mkRaw]; rfl) (by simp [-Nat.reduceAdd]) (by decide) rfl rfl

theorem call (hd : Hdr) (off : Word) : Statement (.call hd off) :=
  of_wave (fun r hd => some (.call hd r.x))
    rfl (by simp only [fieldsOf, mkRaw]; rfl) (by simp [-Nat.reduceAdd]) (by decide) rfl rfl

theorem ret (hd : Hdr) : Statement (.ret hd) :=
  of_wave (fun r hd => some (.ret hd))
    rfl (by simp only [fieldsOf, mkRaw]; rfl) (by simp [-Nat.reduceAdd]) (by decide) rfl rfl

theorem exit (hd : Hdr) : Statement (.exit hd) :=
  of_wave (fun r hd => some (.exit hd))
    rfl (by simp only [fieldsOf, mkRaw]; rfl) (by simp [-Nat.reduceAdd]) (by decide) rfl rfl

theorem conv (hd : Hdr) (m : MaskSrc) : Statement (.conv hd m) := by
  cases m with
  | all =>
    exact of_wave (fun r hd => some (.conv hd (if fbit r.x 12 then .all else .w (decW r.a))))
      rfl (by simp only [fieldsOf, mkRaw]; rfl) (by simp [fbit]) (by decide) rfl rfl
  | w n =>
    exact of_wave (fun r hd => some (.conv hd (if fbit r.x 12 then .all else .w (decW r.a))))
      rfl (by simp only [fieldsOf, mkRaw]; rfl) (by simp [fbit]) (by decide) rfl rfl

theorem yield (hd : Hdr) : Statement (.yield hd) :=
  of_wave (fun r hd => some (.yield hd))
    rfl (by simp only [fieldsOf, mkRaw]; rfl) (by simp [-Nat.reduceAdd]) (by decide) rfl rfl

theorem nop (hd : Hdr) : Statement (.nop hd) :=
  of_wave (fun r hd => some (.nop hd))
    rfl (by simp only [fieldsOf, mkRaw]; rfl) (by simp [-Nat.reduceAdd]) (by decide) rfl rfl

theorem bkpt (hd : Hdr) (tag : BitVec 12) : Statement (.bkpt hd tag) :=
  of_wave (fun r hd => some (.bkpt hd (r.x.extractLsb' 0 12)))
    rfl (by simp only [fieldsOf, mkRaw]; rfl) (by simp [-Nat.reduceAdd]) (by decide) rfl rfl

theorem trap (hd : Hdr) (code : BitVec 12) : Statement (.trap hd code) :=
  of_wave (fun r hd => some (.trap hd (r.x.extractLsb' 0 12)))
    rfl (by simp only [fieldsOf, mkRaw]; rfl) (by simp [-Nat.reduceAdd]) (by decide) rfl rfl

theorem eret (hd : Hdr) (next : Bool) : Statement (.eret hd next) :=
  of_wave (fun r hd => some (.eret hd (fbit r.x 12)))
    rfl (by simp only [fieldsOf, mkRaw]; rfl) (by simp [-Nat.reduceAdd]) (by decide) rfl rfl

theorem rdsys (hd : Hdr) (d : DReg) (idx : BitVec 12) : Statement (.rdsys hd d idx) :=
  of_wave (fun r hd => do some (.rdsys hd (← DReg.dec r.d) (r.x.extractLsb' 0 12)))
    rfl (by simp only [fieldsOf, mkRaw]; rfl) (by simp [-Nat.reduceAdd]) (by decide) rfl rfl

theorem wrsys (hd : Hdr) (idx : BitVec 12) (a : Src) : Statement (.wrsys hd idx a) :=
  of_wave (fun r hd => do some (.wrsys hd (r.x.extractLsb' 0 12) (← Src.dec r.a)))
    rfl (by simp only [fieldsOf, mkRaw]; rfl) (by simp [-Nat.reduceAdd]) (by decide) rfl rfl

theorem rdts (hd : Hdr) (d : DReg) : Statement (.rdts hd d) :=
  of_wave (fun r hd => do some (.rdts hd (← DReg.dec r.d)))
    rfl (by simp only [fieldsOf, mkRaw]; rfl) (by simp [-Nat.reduceAdd]) (by decide) rfl rfl

theorem rdclk (hd : Hdr) (d : DReg) : Statement (.rdclk hd d) :=
  of_wave (fun r hd => do some (.rdclk hd (← DReg.dec r.d)))
    rfl (by simp only [fieldsOf, mkRaw]; rfl) (by simp [-Nat.reduceAdd]) (by decide) rfl rfl

theorem setprio (hd : Hdr) (n : BitVec 4) : Statement (.setprio hd n) :=
  of_wave (fun r hd => some (.setprio hd (r.x.extractLsb' 0 4)))
    rfl (by simp only [fieldsOf, mkRaw]; rfl) (by simp [-Nat.reduceAdd]) (by decide) rfl rfl

theorem mma (tile : BitVec 4) (dA dB : BitVec 8) (kn : Bool) (ty : RTy) : Statement (.mma tile dA dB kn ty) :=
  of_roller (fun r => do some (.mma (r.d.extractLsb' 0 4) (r.a.extractLsb' 0 8) (r.b.extractLsb' 0 8) (fbit r.m 3)
    (← RTy.ofCode (r.m.extractLsb' 0 3))))
    rfl (by simp only [fieldsRoller, mkRoller]; rfl) (by simp [-Nat.reduceAdd]) rfl rfl

theorem mzero (tile : BitVec 4) : Statement (.mzero tile) :=
  of_roller (fun r => some (.mzero (r.d.extractLsb' 0 4)))
    rfl (by simp only [fieldsRoller, mkRoller]; rfl) (by simp [-Nat.reduceAdd]) rfl rfl

theorem mstore (dA : BitVec 8) (tile : BitVec 4) (rm : Rm) (ty : RTy) : Statement (.mstore dA tile rm ty) :=
  of_roller (fun r => do some (.mstore (r.a.extractLsb' 0 8) (r.d.extractLsb' 0 4) (Rm.ofCode (r.m.extractLsb' 8
    2)) (← RTy.ofCode (r.m.extractLsb' 0 3))))
    rfl (by simp only [fieldsRoller, mkRoller]; rfl) (by simp [-Nat.reduceAdd]) rfl rfl

theorem mscale (tile : BitVec 4) (f64 : Bool) (imm : Word) : Statement (.mscale tile f64 imm) :=
  of_roller (fun r => some (.mscale (r.d.extractLsb' 0 4) (fbit r.m 0) r.x))
    rfl (by simp only [fieldsRoller, mkRoller]; rfl) (by simp [-Nat.reduceAdd]) rfl rfl

theorem mbar (bn : BitVec 4) : Statement (.mbar bn) :=
  of_roller (fun r => some (.mbar (r.x.extractLsb' 0 4)))
    rfl (by simp only [fieldsRoller, mkRoller]; rfl) (by simp [-Nat.reduceAdd]) rfl rfl

theorem mloop (step : BitVec 8) (body : BitVec 8) (count : BitVec 16) : Statement (.mloop step body count) :=
  of_roller (fun r => some (.mloop (r.x.extractLsb' 24 8) (r.x.extractLsb' 16 8) (r.x.extractLsb' 0 16)))
    rfl (by simp only [fieldsRoller, mkRoller]; rfl) (by simp [-Nat.reduceAdd]) rfl rfl

theorem mfmt (freg : BitVec 3) (imm : BitVec 26) : Statement (.mfmt freg imm) :=
  of_roller (fun r => some (.mfmt (r.m.extractLsb' 0 3) (r.x.extractLsb' 0 26)))
    rfl (by simp only [fieldsRoller, mkRoller]; rfl) (by simp [-Nat.reduceAdd]) rfl rfl

theorem rollerStreamFetched (core : Nat) : Statement (.rollerStreamFetched core) := of_step rfl rfl rfl

theorem policyLi (d : BitVec 4) (i : BitVec 14) : Statement (.policyLi d i) :=
  of_policy (fun w h => by
    cases h
    simp only [fieldsPolicy, mkPol_op, mkPol_d, mkPol_a, mkPol_b, mkPol_low, Nat.reduceAdd, Nat.reduceLeDiff,
      extract_self]
    rfl) rfl rfl

theorem policyLui (d : BitVec 4) (i : BitVec 14) : Statement (.policyLui d i) :=
  of_policy (fun w h => by
    cases h
    simp only [fieldsPolicy, mkPol_op, mkPol_d, mkPol_a, mkPol_b, mkPol_low, Nat.reduceAdd, Nat.reduceLeDiff,
      extract_self]
    rfl) rfl rfl

theorem policyAddi (d a : BitVec 4) (i : BitVec 14) : Statement (.policyAddi d a i) :=
  of_policy (fun w h => by
    cases h
    simp only [fieldsPolicy, mkPol_op, mkPol_d, mkPol_a, mkPol_b, mkPol_low, Nat.reduceAdd, Nat.reduceLeDiff,
      extract_self]
    rfl) rfl rfl

theorem policyAdd (d a b : BitVec 4) : Statement (.policyAdd d a b) :=
  of_policy (fun w h => by
    cases h
    simp only [fieldsPolicy, mkPol_op, mkPol_d, mkPol_a, mkPol_b, mkPol_low, Nat.reduceAdd, Nat.reduceLeDiff,
      extract_self]
    rfl) rfl rfl

theorem policySub (d a b : BitVec 4) : Statement (.policySub d a b) :=
  of_policy (fun w h => by
    cases h
    simp only [fieldsPolicy, mkPol_op, mkPol_d, mkPol_a, mkPol_b, mkPol_low, Nat.reduceAdd, Nat.reduceLeDiff,
      extract_self]
    rfl) rfl rfl

theorem policyAnd (d a b : BitVec 4) : Statement (.policyAnd d a b) :=
  of_policy (fun w h => by
    cases h
    simp only [fieldsPolicy, mkPol_op, mkPol_d, mkPol_a, mkPol_b, mkPol_low, Nat.reduceAdd, Nat.reduceLeDiff,
      extract_self]
    rfl) rfl rfl

theorem policyOr (d a b : BitVec 4) : Statement (.policyOr d a b) :=
  of_policy (fun w h => by
    cases h
    simp only [fieldsPolicy, mkPol_op, mkPol_d, mkPol_a, mkPol_b, mkPol_low, Nat.reduceAdd, Nat.reduceLeDiff,
      extract_self]
    rfl) rfl rfl

theorem policyXor (d a b : BitVec 4) : Statement (.policyXor d a b) :=
  of_policy (fun w h => by
    cases h
    simp only [fieldsPolicy, mkPol_op, mkPol_d, mkPol_a, mkPol_b, mkPol_low, Nat.reduceAdd, Nat.reduceLeDiff,
      extract_self]
    rfl) rfl rfl

theorem policyShl (d a b : BitVec 4) : Statement (.policyShl d a b) :=
  of_policy (fun w h => by
    cases h
    simp only [fieldsPolicy, mkPol_op, mkPol_d, mkPol_a, mkPol_b, mkPol_low, Nat.reduceAdd, Nat.reduceLeDiff,
      extract_self]
    rfl) rfl rfl

theorem policyShr (d a b : BitVec 4) : Statement (.policyShr d a b) :=
  of_policy (fun w h => by
    cases h
    simp only [fieldsPolicy, mkPol_op, mkPol_d, mkPol_a, mkPol_b, mkPol_low, Nat.reduceAdd, Nat.reduceLeDiff,
      extract_self]
    rfl) rfl rfl

theorem policyMinu (d a b : BitVec 4) : Statement (.policyMinu d a b) :=
  of_policy (fun w h => by
    cases h
    simp only [fieldsPolicy, mkPol_op, mkPol_d, mkPol_a, mkPol_b, mkPol_low, Nat.reduceAdd, Nat.reduceLeDiff,
      extract_self]
    rfl) rfl rfl

theorem policyMaxu (d a b : BitVec 4) : Statement (.policyMaxu d a b) :=
  of_policy (fun w h => by
    cases h
    simp only [fieldsPolicy, mkPol_op, mkPol_d, mkPol_a, mkPol_b, mkPol_low, Nat.reduceAdd, Nat.reduceLeDiff,
      extract_self]
    rfl) rfl rfl

theorem policySltu (d a b : BitVec 4) : Statement (.policySltu d a b) :=
  of_policy (fun w h => by
    cases h
    simp only [fieldsPolicy, mkPol_op, mkPol_d, mkPol_a, mkPol_b, mkPol_low, Nat.reduceAdd, Nat.reduceLeDiff,
      extract_self]
    rfl) rfl rfl

theorem policyVq (d a f : BitVec 4) : Statement (.policyVq d a f) :=
  of_policy (fun w h => by
    cases h
    simp only [fieldsPolicy, mkPol_op, mkPol_d, mkPol_a, mkPol_b, mkPol_low, get_fun_of_policy, Nat.reduceAdd, Nat.reduceLeDiff,
      extract_self]
    rfl) rfl rfl

theorem policyVs (d a f : BitVec 4) : Statement (.policyVs d a f) :=
  of_policy (fun w h => by
    cases h
    simp only [fieldsPolicy, mkPol_op, mkPol_d, mkPol_a, mkPol_b, mkPol_low, get_fun_of_policy, Nat.reduceAdd, Nat.reduceLeDiff,
      extract_self]
    rfl) rfl rfl

theorem policyVp (d a f : BitVec 4) : Statement (.policyVp d a f) :=
  of_policy (fun w h => by
    cases h
    simp only [fieldsPolicy, mkPol_op, mkPol_d, mkPol_a, mkPol_b, mkPol_low, get_fun_of_policy, Nat.reduceAdd, Nat.reduceLeDiff,
      extract_self]
    rfl) rfl rfl

theorem policyVf (d f : BitVec 4) : Statement (.policyVf d f) :=
  of_policy (fun w h => by
    cases h
    simp only [fieldsPolicy, mkPol_op, mkPol_d, mkPol_a, mkPol_b, mkPol_low, get_fun_of_policy, Nat.reduceAdd, Nat.reduceLeDiff,
      extract_self]
    rfl) rfl rfl

theorem policyVg (d f : BitVec 4) : Statement (.policyVg d f) :=
  of_policy (fun w h => by
    cases h
    simp only [fieldsPolicy, mkPol_op, mkPol_d, mkPol_a, mkPol_b, mkPol_low, get_fun_of_policy, Nat.reduceAdd, Nat.reduceLeDiff,
      extract_self]
    rfl) rfl rfl

theorem policyFit (d a b : BitVec 4) : Statement (.policyFit d a b) :=
  of_policy (fun w h => by
    cases h
    simp only [fieldsPolicy, mkPol_op, mkPol_d, mkPol_a, mkPol_b, mkPol_low, Nat.reduceAdd, Nat.reduceLeDiff,
      extract_self]
    rfl) rfl rfl

theorem policyFind (d a b : BitVec 4) : Statement (.policyFind d a b) :=
  of_policy (fun w h => by
    cases h
    simp only [fieldsPolicy, mkPol_op, mkPol_d, mkPol_a, mkPol_b, mkPol_low, Nat.reduceAdd, Nat.reduceLeDiff,
      extract_self]
    rfl) rfl rfl

theorem policyBeq (a b : BitVec 4) (i : BitVec 14) : Statement (.policyBeq a b i) :=
  of_policy (fun w h => by
    cases h
    simp only [fieldsPolicy, mkPol_op, mkPol_d, mkPol_a, mkPol_b, mkPol_low, Nat.reduceAdd, Nat.reduceLeDiff,
      extract_self]
    rfl) rfl rfl

theorem policyBne (a b : BitVec 4) (i : BitVec 14) : Statement (.policyBne a b i) :=
  of_policy (fun w h => by
    cases h
    simp only [fieldsPolicy, mkPol_op, mkPol_d, mkPol_a, mkPol_b, mkPol_low, Nat.reduceAdd, Nat.reduceLeDiff,
      extract_self]
    rfl) rfl rfl

theorem policyBltu (a b : BitVec 4) (i : BitVec 14) : Statement (.policyBltu a b i) :=
  of_policy (fun w h => by
    cases h
    simp only [fieldsPolicy, mkPol_op, mkPol_d, mkPol_a, mkPol_b, mkPol_low, Nat.reduceAdd, Nat.reduceLeDiff,
      extract_self]
    rfl) rfl rfl

theorem policyBgeu (a b : BitVec 4) (i : BitVec 14) : Statement (.policyBgeu a b i) :=
  of_policy (fun w h => by
    cases h
    simp only [fieldsPolicy, mkPol_op, mkPol_d, mkPol_a, mkPol_b, mkPol_low, Nat.reduceAdd, Nat.reduceLeDiff,
      extract_self]
    rfl) rfl rfl

theorem policyBra (i : BitVec 14) : Statement (.policyBra i) :=
  of_policy (fun w h => by
    cases h
    simp only [fieldsPolicy, mkPol_op, mkPol_d, mkPol_a, mkPol_b, mkPol_low, Nat.reduceAdd, Nat.reduceLeDiff,
      extract_self]
    rfl) rfl rfl

theorem qloop (d : BitVec 4) (n : BitVec 14) : Statement (.qloop d n) :=
  of_policy (fun w h => by
    cases h
    simp only [fieldsPolicy, mkPol_op, mkPol_d, mkPol_a, mkPol_b, mkPol_low, Nat.reduceAdd, Nat.reduceLeDiff,
      extract_self]
    rfl) rfl rfl

theorem policyEndPlace (a b : BitVec 4) : Statement (.policyEndPlace a b) :=
  of_policy (fun w h => by
    cases h
    simp only [fieldsPolicy, mkPol_op, mkPol_d, mkPol_a, mkPol_b, mkPol_low, Nat.reduceAdd, Nat.reduceLeDiff,
      extract_self]
    rfl) rfl rfl

theorem policyEndPreempt (a : BitVec 4) : Statement (.policyEndPreempt a) :=
  of_policy (fun w h => by
    cases h
    simp only [fieldsPolicy, mkPol_op, mkPol_d, mkPol_a, mkPol_b, mkPol_low, Nat.reduceAdd, Nat.reduceLeDiff,
      extract_self]
    rfl) rfl rfl

theorem homeRead (req : Nat) : Statement (.homeRead req) := of_step rfl rfl rfl

theorem leaseRenewal (req : Nat) : Statement (.leaseRenewal req) := of_step rfl rfl rfl

theorem homeWrite (req : Nat) : Statement (.homeWrite req) := of_step rfl rfl rfl

theorem readModifyWrite (req : Nat) : Statement (.readModifyWrite req) := of_step rfl rfl rfl

theorem readReply (rep : Nat) : Statement (.readReply rep) := of_step rfl rfl rfl

theorem writeReply (rep : Nat) : Statement (.writeReply rep) := of_step rfl rfl rfl

theorem ceilingHoldRelease (req : Nat) : Statement (.ceilingHoldRelease req) := of_step rfl rfl rfl

theorem l2LineFill (home line : Nat) : Statement (.l2LineFill home line) := of_step rfl rfl rfl

theorem mwaitHomeRead (req : Nat) : Statement (.mwaitHomeRead req) := of_step rfl rfl rfl

theorem monitorReread (req : Nat) : Statement (.monitorReread req) := of_step rfl rfl rfl

theorem peerWordPoll (req : Nat) (value : DWord) : Statement (.peerWordPoll req value) := of_step rfl rfl rfl

theorem combiningEntryAge (cluster ent : Nat) : Statement (.combiningEntryAge cluster ent) := of_step rfl rfl rfl

theorem accRequestSend (cluster ent : Nat) : Statement (.accRequestSend cluster ent) := of_step rfl rfl rfl

theorem homeAccumulate (areq : Nat) : Statement (.homeAccumulate areq) := of_step rfl rfl rfl

theorem accUnitPerform (home : Nat) : Statement (.accUnitPerform home) := of_step rfl rfl rfl

theorem mustAcceptService (home cluster : Nat) : Statement (.mustAcceptService home cluster) := of_step rfl rfl rfl

theorem accAccepted (areq : Nat) : Statement (.accAccepted areq) := of_step rfl rfl rfl

theorem accRefused (areq : Nat) : Statement (.accRefused areq) := of_step rfl rfl rfl

theorem residualAgeExpiry (cluster slot : Nat) : Statement (.residualAgeExpiry cluster slot) := of_step rfl rfl rfl

theorem residualDelivery (cluster slot : Nat) : Statement (.residualDelivery cluster slot) := of_step rfl rfl rfl

theorem lathMutation (req : Nat) : Statement (.lathMutation req) := of_step rfl rfl rfl

theorem lathRead (req : Nat) : Statement (.lathRead req) := of_step rfl rfl rfl

theorem lathReply (rep : Nat) : Statement (.lathReply rep) := of_step rfl rfl rfl

theorem gnewgComplete (seq : Nat) : Statement (.gnewgComplete seq) := of_step rfl rfl rfl

theorem reclamation (part gid vertex : Nat) (dir : Dir) : Statement (.reclamation part gid vertex dir) := of_step rfl rfl rfl

theorem pageWalk (die idx : Nat) : Statement (.pageWalk die idx) := of_step rfl rfl rfl

theorem tlbInvPage (part : Nat) (pasid : BitVec 20) (vpn : BitVec 40) : Statement (.tlbInvPage part pasid vpn) := of_step rfl rfl rfl

theorem tlbInvPasid (part : Nat) (pasid : BitVec 20) : Statement (.tlbInvPasid part pasid) := of_step rfl rfl rfl

theorem tlbInvPartition (part : Nat) : Statement (.tlbInvPartition part) := of_step rfl rfl rfl

theorem tlbInvComplete (part : Nat) : Statement (.tlbInvComplete part) := of_step rfl rfl rfl

theorem faultPtrsWrite (part : Nat) (value : DWord) : Statement (.faultPtrsWrite part value) := of_step rfl rfl rfl

theorem hodPart (op idx : Nat) : Statement (.hodPart op idx) := of_step rfl rfl rfl

theorem gatherRankResolve (op ln : Nat) : Statement (.gatherRankResolve op ln) := of_step rfl rfl rfl

theorem hodOperationComplete (op : Nat) : Statement (.hodOperationComplete op) := of_step rfl rfl rfl

theorem waveRetirement (wave : Nat) : Statement (.waveRetirement wave) := of_step rfl rfl rfl

theorem gridCompletion (part vertex : Nat) : Statement (.gridCompletion part vertex) := of_step rfl rfl rfl

theorem trapClaimDeadlock (team : Nat) : Statement (.trapClaimDeadlock team) := of_step rfl rfl rfl

theorem throttleRelease (wave : Nat) : Statement (.throttleRelease wave) := of_step rfl rfl rfl

theorem napExpiry (wave : Nat) : Statement (.napExpiry wave) := of_step rfl rfl rfl

theorem dispatchDecision (part : Nat) : Statement (.dispatchDecision part) := of_step rfl rfl rfl

theorem preemptionDecision (part : Nat) : Statement (.preemptionDecision part) := of_step rfl rfl rfl

theorem faultDecision (part : Nat) : Statement (.faultDecision part) := of_step rfl rfl rfl

theorem decisionApply (part : Nat) : Statement (.decisionApply part) := of_step rfl rfl rfl

theorem quantumExpiry (part : Nat) : Statement (.quantumExpiry part) := of_step rfl rfl rfl

theorem teamHalted (team : Nat) : Statement (.teamHalted team) := of_step rfl rfl rfl

theorem teamSaved (team : Nat) : Statement (.teamSaved team) := of_step rfl rfl rfl

theorem nodeArrival (part vertex : Nat) : Statement (.nodeArrival part vertex) := of_step rfl rfl rfl

theorem nodeCompletion (part vertex : Nat) : Statement (.nodeCompletion part vertex) := of_step rfl rfl rfl

theorem watchdogExpiry (part : Nat) : Statement (.watchdogExpiry part) := of_step rfl rfl rfl

theorem homeOfflineReply (req : Nat) : Statement (.homeOfflineReply req) := of_step rfl rfl rfl

theorem uncorrectableError (site : ErrSite) : Statement (.uncorrectableError site) := of_step rfl rfl rfl

theorem hostCxlMemRequest (write cacheable : Bool) (pa : Nat) (data : List Byte) : Statement (.hostCxlMemRequest write cacheable pa data) := of_step rfl rfl rfl

theorem hostSnoop (pa : Nat) (data : List Byte) : Statement (.hostSnoop pa data) := of_step rfl rfl rfl

theorem backInvalidationResponse (line : Nat) : Statement (.backInvalidationResponse line) := of_step rfl rfl rfl

theorem peerRequest (part pa : Nat) (op : PeerOp) : Statement (.peerRequest part pa op) := of_step rfl rfl rfl

theorem registerWrite (part off : Nat) (value : DWord) : Statement (.registerWrite part off value) := of_step rfl rfl rfl

theorem portGnewv (part slot gid h : Nat) : Statement (.portGnewv part slot gid h) := of_step rfl rfl rfl

theorem portGadd (part slot gid u v : Nat) (pay : DWord) : Statement (.portGadd part slot gid u v pay) := of_step rfl rfl rfl

theorem portGdel (part slot gid u rank : Nat) : Statement (.portGdel part slot gid u rank) := of_step rfl rfl rfl

theorem portGstv (part slot gid u off : Nat) (data : BitVec 128) : Statement (.portGstv part slot gid u off data) := of_step rfl rfl rfl

theorem portGldv (part slot gid u off : Nat) : Statement (.portGldv part slot gid u off) := of_step rfl rfl rfl

theorem portGdeg (part slot gid u : Nat) : Statement (.portGdeg part slot gid u) := of_step rfl rfl rfl

theorem partCreate (tag : BitVec 16) (a0 a1 a2 a3 a4 a5 : DWord) : Statement (.partCreate tag a0 a1 a2 a3 a4 a5) := of_step rfl rfl rfl

theorem partDelete (tag : BitVec 16) (a0 : DWord) : Statement (.partDelete tag a0) := of_step rfl rfl rfl

theorem warmReset (tag : BitVec 16) (a0 : DWord) : Statement (.warmReset tag a0) := of_step rfl rfl rfl

theorem policyCommit (part : Nat) (value : DWord) : Statement (.policyCommit part value) := of_step rfl rfl rfl

theorem policyCommitChecksEnd (part : Nat) : Statement (.policyCommitChecksEnd part) := of_step rfl rfl rfl

theorem policySlotExchange (part : Nat) : Statement (.policySlotExchange part) := of_step rfl rfl rfl

theorem unassignedEncoding (raw : Raw) : Statement (.unassignedEncoding raw) := of_step rfl rfl rfl

theorem rollerUnassignedWord (raw : Raw) : Statement (.rollerUnassignedWord raw) := of_step rfl rfl rfl

theorem mend : Statement .mend :=
  of_roller (fun _ => some .mend)
    rfl (by simp only [fieldsRoller, mkRoller]; rfl) (by simp [-Nat.reduceAdd]) rfl rfl

theorem policyEndNone : Statement .policyEndNone :=
  of_policy (fun w h => by
    cases h
    simp only [fieldsPolicy, mkPol_op, mkPol_d, mkPol_a, mkPol_b, mkPol_low, Nat.reduceAdd, Nat.reduceLeDiff,
      extract_self]
    rfl) rfl rfl

theorem policyEndResume : Statement .policyEndResume :=
  of_policy (fun w h => by
    cases h
    simp only [fieldsPolicy, mkPol_op, mkPol_d, mkPol_a, mkPol_b, mkPol_low, Nat.reduceAdd, Nat.reduceLeDiff,
      extract_self]
    rfl) rfl rfl

theorem policyEndSuspend : Statement .policyEndSuspend :=
  of_policy (fun w h => by
    cases h
    simp only [fieldsPolicy, mkPol_op, mkPol_d, mkPol_a, mkPol_b, mkPol_low, Nat.reduceAdd, Nat.reduceLeDiff,
      extract_self]
    rfl) rfl rfl

theorem policyEndKillteam : Statement .policyEndKillteam :=
  of_policy (fun w h => by
    cases h
    simp only [fieldsPolicy, mkPol_op, mkPol_d, mkPol_a, mkPol_b, mkPol_low, Nat.reduceAdd, Nat.reduceLeDiff,
      extract_self]
    rfl) rfl rfl

theorem policyEndKillgrid : Statement .policyEndKillgrid :=
  of_policy (fun w h => by
    cases h
    simp only [fieldsPolicy, mkPol_op, mkPol_d, mkPol_a, mkPol_b, mkPol_low, Nat.reduceAdd, Nat.reduceLeDiff,
      extract_self]
    rfl) rfl rfl

theorem policyEndEscalate : Statement .policyEndEscalate :=
  of_policy (fun w h => by
    cases h
    simp only [fieldsPolicy, mkPol_op, mkPol_d, mkPol_a, mkPol_b, mkPol_low, Nat.reduceAdd, Nat.reduceLeDiff,
      extract_self]
    rfl) rfl rfl

theorem ptsTick : Statement .ptsTick := of_step rfl rfl rfl

theorem ceilingAdvance : Statement .ceilingAdvance := of_step rfl rfl rfl

theorem throttleScoreHalving : Statement .throttleScoreHalving := of_step rfl rfl rfl

theorem fullDeviceReset : Statement .fullDeviceReset := of_step rfl rfl rfl

theorem powerOn : Statement .powerOn := of_step rfl rfl rfl

theorem securityAlarm : Statement .securityAlarm := of_step rfl rfl rfl

theorem thermalTrip : Statement .thermalTrip := of_step rfl rfl rfl

theorem coolantFlowTrip : Statement .coolantFlowTrip := of_step rfl rfl rfl

theorem floorRecompute : Statement .floorRecompute := of_step rfl rfl rfl

theorem modulePowerLimit (msOver : Nat) : Statement (.modulePowerLimit msOver) := of_step rfl rfl rfl

theorem junctionTempLimit (die gap : Nat) : Statement (.junctionTempLimit die gap) := of_step rfl rfl rfl

theorem hbmTempLimit (stack : Nat) : Statement (.hbmTempLimit stack) := of_step rfl rfl rfl

theorem peerUnreachable (peer : Nat) : Statement (.peerUnreachable peer) := of_step rfl rfl rfl

theorem tokenRelease (token : BitVec 32) : Statement (.tokenRelease token) := of_step rfl rfl rfl

theorem spdmRequest (kind : Spdm) : Statement (.spdmRequest kind) := of_step rfl rfl rfl

theorem dieReadmission (die : Nat) : Statement (.dieReadmission die) := of_step rfl rfl rfl

theorem migPrecopy (part : Nat) : Statement (.migPrecopy part) := of_step rfl rfl rfl

theorem migStop (part : Nat) : Statement (.migStop part) := of_step rfl rfl rfl

theorem migContinue (part : Nat) : Statement (.migContinue part) := of_step rfl rfl rfl

theorem migResume (part : Nat) : Statement (.migResume part) := of_step rfl rfl rfl

theorem stoppingEnd (part : Nat) : Statement (.stoppingEnd part) := of_step rfl rfl rfl

theorem migrationChunkRead (part : Nat) : Statement (.migrationChunkRead part) := of_step rfl rfl rfl

theorem migrationChunkWrite (part : Nat) (c : Chunk) : Statement (.migrationChunkWrite part c) := of_step rfl rfl rfl

theorem migCtlInvalidCommand (part : Nat) (cmd : BitVec 3) : Statement (.migCtlInvalidCommand part cmd) := of_step rfl rfl rfl

theorem mailboxDoorbellRefused (fn : Nat) (cmd : DWord) : Statement (.mailboxDoorbellRefused fn cmd) := of_step rfl rfl rfl

theorem graphPortInvalidRecord (part slot : Nat) : Statement (.graphPortInvalidRecord part slot) := of_step rfl rfl rfl

theorem recover (tag : BitVec 16) (a0 a1 : DWord) : Statement (.recover tag a0 a1) := of_step rfl rfl rfl

theorem retire (tag : BitVec 16) (a0 a1 : DWord) : Statement (.retire tag a0 a1) := of_step rfl rfl rfl

theorem resume (fn : Nat) (tag : BitVec 16) (a0 a1 : DWord) : Statement (.resume fn tag a0 a1) := of_step rfl rfl rfl

theorem kill (fn : Nat) (tag : BitVec 16) (a0 a1 a2 : DWord) : Statement (.kill fn tag a0 a1 a2) := of_step rfl rfl rfl

theorem peerAcknowledgement (req : Nat) (data : List Byte) : Statement (.peerAcknowledgement req data) := of_step rfl rfl rfl

theorem hostOwnershipGrant (line : Nat) : Statement (.hostOwnershipGrant line) := of_step rfl rfl rfl

theorem mailboxCommandEnd (fn : Nat) : Statement (.mailboxCommandEnd fn) := of_step rfl rfl rfl

end Sys2Proof.Laws.Codec
end

