-- ==== Sys2Proof/Laws/Results.lean ====
section
/-! SUPPORT. What the shared shapes of fixed-latency instructions do when the instruction runs. -/

namespace Sys2Proof.Machine

/-! ## Lanes -/

theorem mem_lanesOf (m : LaneSet) (l : Nat) : l ∈ lanesOf m ↔ l < 32 ∧ m.getLsbD l = true := by
  simp [lanesOf]

theorem lanesOf_eq_nil (m : LaneSet) : lanesOf m = [] ↔ m = 0 := by
  constructor
  · intro h
    apply BitVec.eq_of_getLsbD_eq
    intro i hi
    by_contra hne
    have : i ∈ lanesOf m := (mem_lanesOf m i).mpr ⟨hi, by simpa using hne⟩
    simp [h] at this
  · rintro rfl; decide

theorem row_getD (f : Nat → Word) (l : Nat) (h : l < 32) (x : Word) : (row f).getD l x = f l := by
  simp [row, List.getD, h]

theorem laneSet_get (p : Nat → Bool) (l : Nat) (h : l < 32) : (laneSet p).getLsbD l = p l := by
  simp only [laneSet, BitVec.getLsbD_setWidth, BitVec.getLsbD_ofBoolListLE]
  simp [h]

theorem setPc_pcOf (w : Wave) (m : LaneSet) (f : Nat → DWord) (l : Nat) (h : l < 32) :
    (w.setPc m f).pcOf l = if m.getLsbD l then f l else w.pcOf l := by
  simp only [Wave.setPc, Wave.pcOf]
  simp [h]

/-! ## The issue of an instruction -/

theorem onePc_some {m : LaneSet} {f : Nat → DWord} {t : DWord} (h : ∀ l, l < 32 → m.getLsbD l = true → f l = t)
    (hm : m ≠ 0) : onePc m f = some t := by
  unfold onePc
  cases e : lanesOf m with
  | nil => exact absurd ((lanesOf_eq_nil m).mp e) hm
  | cons l ls =>
    have h1 : ∀ k, k ∈ lanesOf m → f k = t := fun k hk => h k ((mem_lanesOf m k).mp hk).1 ((mem_lanesOf m k).mp hk).2
    rw [e] at h1
    have hl := h1 l (by simp)
    have hls : (ls.all fun k => f k == f l) = true := by
      simp only [List.all_eq_true, beq_iff_eq]
      intro k hk; rw [hl]; exact h1 k (by simp [hk])
    dsimp only
    rw [if_pos hls, hl]

theorem onePc_none {m : LaneSet} {f : Nat → DWord} {i j : Nat} (hi : i < 32) (hj : j < 32) (hmi : m.getLsbD i = true)
    (hmj : m.getLsbD j = true) (h : f i ≠ f j) : onePc m f = none := by
  unfold onePc
  cases e : lanesOf m with
  | nil => rfl
  | cons l ls =>
    have hi' : i ∈ lanesOf m := (mem_lanesOf m i).mpr ⟨hi, hmi⟩
    have hj' : j ∈ lanesOf m := (mem_lanesOf m j).mpr ⟨hj, hmj⟩
    rw [e] at hi' hj'
    have : ¬ (ls.all fun k => f k == f l) = true := by
      simp only [List.all_eq_true, beq_iff_eq]
      intro hall
      have g : ∀ k, k ∈ l :: ls → f k = f l := by
        intro k hk
        rcases List.mem_cons.mp hk with rfl | hk
        · rfl
        · exact hall k hk
      exact h ((g i hi').trans (g j hj').symm)
    simp only [this]
    rfl

/-- The wave after an instruction has issued and its lanes have gone on. -/
theorem finish_wave (s : State) (c : Ctx) (hd : Hdr) (w : Wave) (f : Nat → DWord) :
    ∃ r, finish s c hd w f = s.setWave c.id r ∧
      r = { w with pc := r.pc, iss := r.iss, gathers := r.gathers, latches := r.latches } ∧
      r.latches.map (·.vals) = w.latches.map (·.vals) ∧
      (∀ t, hd.h.yld = false → (∀ l, l < 32 → (c.path &&& w.live).getLsbD l = true → f l = t) →
        { w with gathers := w.gathers.filter fun g => g.pc != c.pc }.freeAt t &&& ~~~(c.path &&& w.live) = 0 →
        r.latches = w.latches) ∧
      (∀ i j, i < 32 → j < 32 → (c.path &&& w.live).getLsbD i = true → (c.path &&& w.live).getLsbD j = true → f i ≠ f j →
        ∀ x ∈ r.latches, x.valid = false) ∧
      ∀ l, l < 32 → r.pcOf l = if (c.path &&& w.live).getLsbD l then f l else w.pcOf l := by
  refine ⟨_, rfl, ?_⟩
  generalize hw0 : ({ w with iss := issueNote w.iss s.cycle hd.h } : Wave) = w0
  have h0 : w0 = { w with iss := w0.iss } := by subst hw0; rfl
  generalize hw1 : (if hd.h.yld = true then w0.noLatch else w0) = w1
  have h1 : w1 = { w with iss := w1.iss, latches := w1.latches } := by
    subst hw1; rw [h0]; split <;> rfl
  have hv : w1.latches.map (·.vals) = w.latches.map (·.vals) := by
    subst hw1; rw [h0]; split
    · simp [Wave.noLatch, Function.comp_def]
    · rfl
  have hy : hd.h.yld = false → w1.latches = w.latches := by
    intro hyl; subst hw1; rw [h0]; simp [hyl]
  clear hw1 hw0 h0 w0
  have e : ∀ m, ({ w1 with gathers := w1.gathers.filter fun g => g.pc != c.pc } : Wave).setPc m f =
      { ({ w with gathers := w.gathers.filter fun g => g.pc != c.pc } : Wave).setPc m f with
        iss := w1.iss, latches := w1.latches } := by
    intro m; rw [h1]; rfl
  have hl : w1.live = w.live := by rw [h1]; rfl
  have hp : ∀ l, l < 32 → Wave.pcOf (({ w with gathers := w.gathers.filter fun g => g.pc != c.pc } : Wave).setPc
      (c.path &&& w.live) f) l = if (c.path &&& w.live).getLsbD l then f l else w.pcOf l := fun l h => setPc_pcOf _ _ _ l h
  unfold Wave.goOn
  dsimp only
  rw [hl, e]
  cases ho : onePc (c.path &&& w.live) f with
  | none =>
    by_cases hm : c.path &&& w.live = 0
    · simp only [hm, if_true]
      refine ⟨rfl, hv, fun t a _ _ => hy a, fun i j hi hj hmi => ?_, fun l h => ?_⟩
      · simp at hmi
      · exact setPc_pcOf { w with gathers := w.gathers.filter fun g => g.pc != c.pc } 0 _ l h
    · simp only [hm, if_false]
      refine ⟨rfl, ?_, fun t _ hall _ => ?_, fun _ _ _ _ _ _ _ x hx => ?_, hp⟩
      · simpa [Wave.noLatch, Function.comp_def] using hv
      · rw [onePc_some hall hm] at ho; cases ho
      · simp only [Wave.noLatch, List.mem_map] at hx
        obtain ⟨y, -, rfl⟩ := hx; rfl
  | some t =>
    dsimp only
    have hf : ∀ t, ({ w1 with gathers := w1.gathers.filter fun g => g.pc != c.pc } : Wave).freeAt t =
        ({ w with gathers := w.gathers.filter fun g => g.pc != c.pc } : Wave).freeAt t := by
      intro t; rw [h1]; rfl
    have hno : ∀ i j, i < 32 → j < 32 → (c.path &&& w.live).getLsbD i = true → (c.path &&& w.live).getLsbD j = true →
        f i ≠ f j → False := by
      intro i j hi hj hmi hmj hne
      rw [onePc_none hi hj hmi hmj hne] at ho; cases ho
    have hm : c.path &&& w.live ≠ 0 := by
      intro h; rw [h] at ho; cases ho
    rw [hf]
    split
    · rename_i hjn
      refine ⟨rfl, ?_, fun u _ hall hc => ?_, fun i j hi hj hmi hmj hne => absurd hne fun h => hno i j hi hj hmi hmj h, hp⟩
      · simpa [Wave.noLatch, Function.comp_def] using hv
      · rw [onePc_some hall hm] at ho; cases ho; exact absurd hc hjn
    · exact ⟨rfl, hv, fun u a _ _ => hy a, fun i j hi hj hmi hmj hne => absurd hne fun h => hno i j hi hj hmi hmj h, hp⟩

/-- An instruction that leaves its wave with `w` before it goes on, where registers, latches and flags alone were
written. -/
theorem finish_only (s : State) (c : Ctx) (hd : Hdr) (w : Wave) (f : Nat → DWord)
    (hw : w = { c.w with v := w.v, w := w.w, p := w.p, bad := w.bad, latches := w.latches, fstatus := w.fstatus })
    (hb : ∀ e ∈ w.bad, e ∈ c.w.bad) :
    OnlyWave s (finish s c hd w f) c f ∧
      ((finish s c hd w f).wave c.id).v = w.v ∧ ((finish s c hd w f).wave c.id).w = w.w ∧
      ((finish s c hd w f).wave c.id).p = w.p ∧ ((finish s c hd w f).wave c.id).fstatus = w.fstatus ∧
      ((finish s c hd w f).wave c.id).latches.map (·.vals) = w.latches.map (·.vals) ∧
      (∀ t, hd.h.yld = false → Together c f t → joinsAt c t = false →
        ((finish s c hd w f).wave c.id).latches = w.latches) ∧
      (∀ i j, i < 32 → j < 32 → (c.path &&& c.w.live).getLsbD i = true → (c.path &&& c.w.live).getLsbD j = true →
        f i ≠ f j → ∀ x ∈ ((finish s c hd w f).wave c.id).latches, x.valid = false) := by
  obtain ⟨r, e, hr, hv, hl, hs, hp⟩ := finish_wave s c hd w f
  rw [e]
  have hwv : (s.setWave c.id r).wave c.id = r := by simp [State.wave, State.setWave]
  rw [hwv]
  have hlive : w.live = c.w.live := by rw [hw]; rfl
  have hfree : ∀ t, ({ w with gathers := w.gathers.filter fun g => g.pc != c.pc } : Wave).freeAt t =
      ({ c.w with gathers := c.w.gathers.filter fun g => g.pc != c.pc } : Wave).freeAt t := by intro t; rw [hw]; rfl
  have hpc : ∀ l, w.pcOf l = c.w.pcOf l := by intro l; rw [hw]; rfl
  rw [hlive] at hl hs hp
  refine ⟨⟨?_, fun _ => rfl, ?_, ?_, ?_⟩, by rw [hr], by rw [hr], by rw [hr], by rw [hr], hv, ?_, hs⟩
  · rw [hwv]; rfl
  · rw [hwv]
    rw [hr, hw]
  · rw [hwv, hr]; exact hb
  · intro l h; rw [hwv, hp l h, hpc]
  · intro t hy ht hj
    refine hl t hy ht ?_
    rw [hfree]
    simpa [joinsAt] using hj

theorem finish_goes (s : State) (c : Ctx) (hd : Hdr) (f : Nat → DWord) : Goes s (finish s c hd c.w f) c hd f := by
  obtain ⟨ho, hv, hw, hp, hf, hl, hk, hs⟩ := finish_only s c hd c.w f rfl fun _ h => h
  exact { toOnlyWave := ho, regs := ⟨hv, hw, hp⟩, flags := hf, vals := hl, parts := hs, keeps := hk }

/-- Latches that are invalid stay invalid while lanes go on. -/
theorem finish_invalid {s : State} {c : Ctx} {hd : Hdr} {w : Wave} {f : Nat → DWord}
    (h : ∀ x ∈ w.latches, x.valid = false) : ∀ x ∈ ((finish s c hd w f).wave c.id).latches, x.valid = false := by
  have hn : ∀ v : Wave, (∀ x ∈ v.latches, x.valid = false) → ∀ x ∈ v.noLatch.latches, x.valid = false := by
    intro v _ x hx
    simp only [Wave.noLatch, List.mem_map] at hx
    obtain ⟨y, -, rfl⟩ := hx; rfl
  have hg : ∀ v : Wave, (∀ x ∈ v.latches, x.valid = false) → ∀ x ∈ (v.goOn c.pc c.path f).latches, x.valid = false := by
    intro v hv
    unfold Wave.goOn
    dsimp only
    split
    · split
      · exact hv
      · exact hn _ hv
    · split
      · exact hn _ hv
      · exact hv
  have : (finish s c hd w f).wave c.id = Wave.goOn (if hd.h.yld then ({ w with iss := issueNote w.iss s.cycle hd.h } : Wave).noLatch
      else { w with iss := issueNote w.iss s.cycle hd.h }) c.pc c.path f := by
    simp [finish, State.wave, State.setWave]
  rw [this]
  apply hg
  split
  · exact hn _ h
  · exact h

/-! ## Destinations -/

theorem vput_vget (w : Wave) (n : Nat) (m : LaneSet) (f : Nat → Word) (k l : Nat) (h : l < 32) :
    (w.vput n m f).vget k l = if k = n ∧ m.getLsbD l then f l else w.vget k l := by
  simp only [Wave.vput, Wave.vget, tget_tput]
  by_cases hk : k = n
  · subst hk
    simp only [if_true, Option.getD_some, true_and]
    rw [row_getD _ _ h]
  · simp [hk]

theorem wput_wget (w : Wave) (n : Nat) (x : Word) (k : Nat) : (w.wput n x).wget k = if k = n then x else w.wget k := by
  simp only [Wave.wput, Wave.wget, tget_tput]
  split <;> rfl

theorem row_congr {f g : Nat → Word} (h : ∀ l, l < 32 → f l = g l) : row f = row g := by
  unfold row
  exact List.map_congr_left fun l hl => h l (by simpa using hl)

theorem unmark_sub {w : Wave} {n : Nat} {m : LaneSet} : ∀ e ∈ w.unmark n m, e ∈ w.bad :=
  fun _ h => (List.mem_filter.mp h).1

/-- What one word of a result leaves. -/
structure WroteWord (w r : Wave) (E : LaneSet) (d : Dst) (k : Nat) (f : Nat → Word) : Prop where
  vec : ∀ n l, l < 32 → r.vget n l = match d.r with
    | .v m => if d.nw = false ∧ n = m.toNat + k ∧ E.getLsbD l then f l else w.vget n l
    | _ => w.vget n l
  uni : ∀ n, r.wget n = match d.r with
    | .w m => match lowLane E with
      | some j => if d.nw = false ∧ n = m.toNat + k then f j else w.wget n
      | none => w.wget n
    | _ => w.wget n
  rest : r = { w with v := r.v, w := r.w, bad := r.bad, latches := r.latches }
  marks : ∀ e ∈ r.bad, e ∈ w.bad
  lat : r.latches = { vals := latchRow w E d k f, valid := true } :: w.latches.take 3

theorem writeWord_wrote (w : Wave) (d : Dst) (k : Nat) (E : LaneSet) (f : Nat → Word) :
    WroteWord w (writeWord w d.nw d.r k E f) E d k f := by
  obtain ⟨nw, r⟩ := d
  cases r with
  | v m =>
    cases nw with
    | false =>
      refine ⟨fun n l h => ?_, fun n => rfl, rfl, unmark_sub, ?_⟩
      · simpa [writeWord, Wave.push, Wave.vget] using vput_vget w (m.toNat + k) E f n l h
      · simp only [writeWord, Wave.push, latchRow]
        congr 2
        apply row_congr
        intro l h
        split
        · rfl
        · rename_i hE
          have := vput_vget w (m.toNat + k) E f (m.toNat + k) l h
          rw [if_neg (fun hc => hE hc.2)] at this
          exact this
    | true => exact ⟨fun n l h => rfl, fun n => rfl, rfl, fun _ h => h, rfl⟩
  | w m =>
    cases e : lowLane E with
    | none =>
      refine ⟨fun n l h => by simp [writeWord, e, Wave.push, Wave.vget], fun n => by simp [writeWord, e, Wave.push, Wave.wget],
        by simp [writeWord, e, Wave.push], by simp [writeWord, e, Wave.push], by simp [writeWord, e, Wave.push, latchRow]⟩
    | some j =>
      cases nw with
      | false =>
        refine ⟨fun n l h => by simp [writeWord, e, Wave.push, Wave.vget, Wave.wput], fun n => ?_,
          by simp [writeWord, e, Wave.push, Wave.wput], ?_, by simp [writeWord, e, Wave.push, latchRow, Wave.wput]⟩
        · simpa [writeWord, e, Wave.push, Wave.wget] using wput_wget w (m.toNat + k) (f j) n
        · simpa [writeWord, e, Wave.push, Wave.wput] using unmark_sub (w := w)
      | true =>
        refine ⟨fun n l h => by simp [writeWord, e, Wave.push, Wave.vget], fun n => by simp [writeWord, e, Wave.push, Wave.wget],
          by simp [writeWord, e, Wave.push], by simp [writeWord, e, Wave.push], by simp [writeWord, e, Wave.push, latchRow]⟩
  | zero => exact ⟨fun n l h => rfl, fun n => rfl, rfl, fun _ h => h, rfl⟩

/-- What a whole result leaves of a wave. -/
structure Wrote (w r : Wave) (E : LaneSet) (d : Dst) (fs : List (Nat → Word)) : Prop where
  vec : ∀ n l, l < 32 → r.vget n l = newVec w E d fs n l
  uni : ∀ n, r.wget n = newUni w E d fs n
  rest : r = { w with v := r.v, w := r.w, bad := r.bad, latches := r.latches }
  marks : ∀ e ∈ r.bad, e ∈ w.bad
  shift : r.latches.map (·.vals) = (latchRows w E d fs ++ w.latches.map (·.vals)).take 4
  valid : r.latches.map (·.valid) = (fs.map (fun _ => true) ++ w.latches.map (·.valid)).take 4

theorem writeDst_wrote (w : Wave) (d : Dst) (E : LaneSet) (f : Nat → Word) : Wrote w (writeDst w d E f) E d [f] := by
  have h := writeWord_wrote w d 0 E f
  refine ⟨fun n l hl => ?_, fun n => ?_, h.rest, h.marks, ?_, ?_⟩
  · rw [writeDst, h.vec n l hl]
    unfold newVec
    obtain ⟨nw, r⟩ := d
    cases r with
    | v m =>
      simp only [List.length_singleton]
      by_cases hn : n = m.toNat
      · subst hn; simp
      · have : ¬ (m.toNat ≤ n ∧ n < m.toNat + 1) := by omega
        simp only [Nat.add_zero, hn, false_and, and_false, if_false]
        rw [if_neg (fun hc => this ⟨hc.2.1, hc.2.2.1⟩)]
    | w m => rfl
    | zero => rfl
  · rw [writeDst, h.uni n]
    unfold newUni
    obtain ⟨nw, r⟩ := d
    cases r with
    | w m =>
      dsimp only
      cases lowLane E with
      | none => rfl
      | some j =>
        simp only [List.length_singleton]
        by_cases hn : n = m.toNat
        · subst hn; simp
        · have : ¬ (m.toNat ≤ n ∧ n < m.toNat + 1) := by omega
          simp only [Nat.add_zero, hn, and_false, if_false]
          rw [if_neg (fun hc => this ⟨hc.2.1, hc.2.2⟩)]
    | v m => rfl
    | zero => rfl
  · rw [writeDst, h.lat]; simp [latchRows, List.map_take]
  · rw [writeDst, h.lat]; simp [List.map_take]

theorem writeDst2_wrote (w : Wave) (d : Dst) (E : LaneSet) (f : Nat → DWord) :
    Wrote w (writeDst2 w d E f) E d [fun l => loWord (f l), fun l => hiWord (f l)] := by
  have h := writeWord_wrote w d 0 E fun l => loWord (f l)
  have h2 := writeWord_wrote (writeWord w d.nw d.r 0 E fun l => loWord (f l)) d 1 E fun l => hiWord (f l)
  have hrow : latchRow (writeWord w d.nw d.r 0 E fun l => loWord (f l)) E d 1 (fun l => hiWord (f l)) =
      latchRow w E d 1 fun l => hiWord (f l) := by
    have hv := h.vec
    have hu := h.uni
    unfold latchRow
    obtain ⟨nw, r⟩ := d
    cases r with
    | v m =>
      apply row_congr
      intro l hl
      split
      · rfl
      · have := hv (m.toNat + 1) l hl
        simp only at this ⊢
        rw [this]; simp
    | w m =>
      apply row_congr
      intro l hl
      have := hu (m.toNat + 1)
      simp only at this ⊢
      cases e : lowLane E with
      | some j => rfl
      | none => rw [e] at this; exact this
    | zero => rfl
  refine ⟨fun n l hl => ?_, fun n => ?_, ?_, fun e he => h.marks e (h2.marks e he), ?_, ?_⟩
  · rw [writeDst2, h2.vec n l hl]
    have hv := h.vec n l hl
    unfold newVec
    obtain ⟨nw, r⟩ := d
    cases r with
    | v m =>
      simp only [List.length_cons, List.length_nil] at hv ⊢
      rw [hv]
      by_cases hn : n = m.toNat
      · subst hn; simp
      · by_cases hn1 : n = m.toNat + 1
        · subst hn1; simp
        · have : ¬ (m.toNat ≤ n ∧ n < m.toNat + (0 + 1 + 1)) := by omega
          simp only [Nat.add_zero, hn, hn1, false_and, and_false, if_false]
          rw [if_neg (fun hc => this ⟨hc.2.1, hc.2.2.1⟩)]
    | w m => exact hv
    | zero => exact hv
  · rw [writeDst2, h2.uni n]
    have hu := h.uni n
    unfold newUni
    obtain ⟨nw, r⟩ := d
    cases r with
    | w m =>
      dsimp only at hu ⊢
      cases e : lowLane E with
      | none => rw [e] at hu; exact hu
      | some j =>
        rw [e] at hu
        simp only [List.length_cons, List.length_nil] at hu ⊢
        rw [hu]
        by_cases hn : n = m.toNat
        · subst hn; simp
        · by_cases hn1 : n = m.toNat + 1
          · subst hn1; simp
          · have : ¬ (m.toNat ≤ n ∧ n < m.toNat + (0 + 1 + 1)) := by omega
            simp only [Nat.add_zero, hn, hn1, and_false, if_false]
            rw [if_neg (fun hc => this ⟨hc.2.1, hc.2.2⟩)]
    | v m => exact hu
    | zero => exact hu
  · rw [writeDst2, h2.rest, h.rest]
  · rw [writeDst2, h2.lat, hrow, h.lat]; simp [latchRows, List.map_take, List.take_take]
  · rw [writeDst2, h2.lat, h.lat]; simp [List.map_take, List.take_take]

/-! ## The shared shapes -/

theorem finishNext_delivers {s : State} {c : Ctx} {hd : Hdr} {d : Dst} {fs : List (Nat → Word)} {r : Wave} (fl : Flags)
    (h : Wrote c.w r c.E d fs) : Delivers s (finishNext s c hd (r.raise fl)) c hd d fs fl := by
  have hr := h.rest
  obtain ⟨ho, hv, hw, hp, hf, hl, hk, -⟩ := finish_only s c hd (r.raise fl) (fun _ => nextPc c.pc) (by rw [hr]; rfl)
    h.marks
  unfold finishNext
  refine { toOnlyWave := ho, vec := ?_, uni := ?_, preds := ?_, shift := ?_, valid := ?_, flags := ?_ }
  · intro n l hl'; rw [← h.vec n l hl', Wave.vget, hv]; rfl
  · intro n; rw [← h.uni n, Wave.wget, hw]; rfl
  · rw [hp]; show r.p = _; rw [hr]
  · rw [hl]; exact h.shift
  · intro hy hj; rw [hk _ hy (fun _ _ _ => rfl) hj]; exact h.valid
  · rw [hf]; show r.fstatus ||| fl = _; rw [hr]

theorem raise_zero (w : Wave) : w.raise 0 = w := by simp [Wave.raise]

variable {s : State} {hd : Hdr} {i : Instr} {c : Ctx} {d : Dst}

theorem issue_runs (h : Runs hd i s c) (eff : Ctx → State) : issue s hd (useOf i) eff = eff c := by
  simp only [issue, operate, h.1, h.2.1, h.2.2]

theorem alu_delivers (h : Runs hd i s c) (f : Wave → Nat → Word) :
    Delivers s (alu s hd (useOf i) d f) c hd d [f c.w] 0 := by
  have := finishNext_delivers (s := s) (hd := hd) 0 (writeDst_wrote c.w d c.E (f c.w))
  rw [raise_zero] at this
  rw [alu, issue_runs h]; exact this

theorem alu2_delivers (h : Runs hd i s c) (f : Wave → Nat → DWord) :
    Delivers s (alu2 s hd (useOf i) d f) c hd d [fun l => loWord (f c.w l), fun l => hiWord (f c.w l)] 0 := by
  have := finishNext_delivers (s := s) (hd := hd) 0 (writeDst2_wrote c.w d c.E (f c.w))
  rw [raise_zero] at this
  rw [alu2, issue_runs h]; exact this

theorem falu_delivers (h : Runs hd i s c) (f : Wave → Nat → FRes) :
    Delivers s (falu s hd (useOf i) d f) c hd d [fun l => BitVec.ofNat 32 (f c.w l).bits]
      (joinFlags c.E fun l => (f c.w l).fl) := by
  rw [falu, issue_runs h]
  exact finishNext_delivers _ (writeDst_wrote c.w d c.E _)

theorem falu2_delivers (h : Runs hd i s c) (f : Wave → Nat → FRes) :
    Delivers s (falu2 s hd (useOf i) d f) c hd d
      [fun l => loWord (BitVec.ofNat 64 (f c.w l).bits), fun l => hiWord (BitVec.ofNat 64 (f c.w l).bits)]
      (joinFlags c.E fun l => (f c.w l).fl) := by
  rw [falu2, issue_runs h]
  exact finishNext_delivers _ (writeDst2_wrote c.w d c.E _)

theorem finishNext_decides {s : State} {c : Ctx} {hd : Hdr} (d : PDst) (f : Nat → Bool) (fl : Flags) :
    Decides s (finishNext s c hd ((writePred c.w d c.E f).raise fl)) c hd d f fl := by
  have hw : writePred c.w d c.E f = { c.w with p := (writePred c.w d c.E f).p } := by
    unfold writePred Wave.pput; split <;> [rfl; split <;> rfl]
  obtain ⟨ho, hv, hu, hp, hf, hl, hk, -⟩ :=
    finish_only s c hd ((writePred c.w d c.E f).raise fl) (fun _ => nextPc c.pc) (by rw [hw]; rfl) (by rw [hw]; exact fun _ h => h)
  unfold finishNext
  refine { toOnlyWave := ho, regs := ⟨?_, ?_⟩, preds := ?_, latches := ?_, flags := ?_ }
  · rw [hv]; show (writePred c.w d c.E f).v = _; rw [hw]
  · rw [hu]; show (writePred c.w d c.E f).w = _; rw [hw]
  · intro p l h
    have : ((finish s c hd ((writePred c.w d c.E f).raise fl) fun _ => nextPc c.pc).wave c.id).pget p =
        (writePred c.w d c.E f).pget p := by
      unfold Wave.pget; rw [hp]; rfl
    rw [Wave.pbit, this, Wave.pbit]
    unfold writePred Wave.pput
    by_cases hn : d.nw = true
    · simp [hn]
    · simp only [Bool.not_eq_true] at hn
      simp only [hn, Bool.false_eq_true, if_false]
      by_cases h7 : d.p = 7
      · simp only [h7, if_true]
        rw [if_neg (fun hc => hc.2.2.1 (hc.2.1 ▸ rfl))]
      · simp only [h7, if_false]
        by_cases hpd : p = d.p
        · subst hpd
          simp only [Wave.pget, h7, if_false, tget_tput, if_true, Option.getD_some, ne_eq, not_false_eq_true, true_and]
          rw [laneSet_get _ _ h]
        · have hne : p.toNat ≠ d.p.toNat := fun e => hpd (BitVec.eq_of_toNat_eq e)
          simp [Wave.pget, tget_tput, hne, hpd]
  · intro hy hj; rw [hk _ hy (fun _ _ _ => rfl) hj]; show (writePred c.w d c.E f).latches = _; rw [hw]
  · rw [hf]; show (writePred c.w d c.E f).fstatus ||| fl = _; rw [hw]

theorem setPred_decides (h : Runs hd i s c) (d : PDst) (f : Wave → Nat → Bool) :
    Decides s (setPred s hd (useOf i) d f) c hd d (f c.w) 0 := by
  have := finishNext_decides (s := s) (c := c) (hd := hd) d (f c.w) 0
  rw [raise_zero] at this
  rw [setPred, issue_runs h]; exact this

theorem fset_decides (h : Runs hd i s c) (d : PDst) (f : Wave → Nat → Bool × Flags) :
    Decides s (fset s hd (useOf i) d f) c hd d (fun l => (f c.w l).1) (joinFlags c.E fun l => (f c.w l).2) := by
  rw [fset, issue_runs h]
  exact finishNext_decides d _ _

/-! ## From a meaning to what it gives -/

theorem gives32_of_alu {i : Instr} {hd : Hdr} {d : Dst} {f g : State → Wave → Nat → Word}
    (e : ∀ s, exec i s = .next (alu s hd (useOf i) d (g s))) (h : ∀ s w l, g s w l = f s w l) : Gives32 i hd d f := by
  obtain rfl : g = f := by funext s w l; exact h s w l
  exact fun s c hr => ⟨_, e s, alu_delivers hr (g s)⟩

theorem gives64_of_alu2 {i : Instr} {hd : Hdr} {d : Dst} {f g : State → Wave → Nat → DWord}
    (e : ∀ s, exec i s = .next (alu2 s hd (useOf i) d (g s))) (h : ∀ s w l, g s w l = f s w l) : Gives64 i hd d f := by
  obtain rfl : g = f := by funext s w l; exact h s w l
  exact fun s c hr => ⟨_, e s, alu2_delivers hr (g s)⟩

theorem givesW_of_aluW {wide : Bool} {i : Instr} {hd : Hdr} {d : Dst} {f32 : State → Wave → Nat → Word}
    {f64 g : State → Wave → Nat → DWord} (e : ∀ s, exec i s = .next (aluW s hd (useOf i) wide d (g s)))
    (h32 : wide = false → ∀ s w l, loWord (g s w l) = f32 s w l) (h64 : wide = true → ∀ s w l, g s w l = f64 s w l) :
    GivesW wide i hd d f32 f64 := by
  refine ⟨fun hw => ?_, fun hw => ?_⟩
  · subst hw; exact gives32_of_alu (g := fun s w l => loWord (g s w l)) e (h32 rfl)
  · subst hw; exact gives64_of_alu2 e (h64 rfl)

theorem givesPred_of_setPred {i : Instr} {hd : Hdr} {d : PDst} {f g : State → Wave → Nat → Bool}
    (e : ∀ s, exec i s = .next (setPred s hd (useOf i) d (g s))) (h : ∀ s w l, g s w l = f s w l) :
    GivesPred i hd d f := by
  obtain rfl : g = f := by funext s w l; exact h s w l
  exact fun s c hr => ⟨_, e s, setPred_decides hr d (g s)⟩

theorem givesF32_of_falu {i : Instr} {hd : Hdr} {d : Dst} {f g : State → Wave → Nat → FRes}
    (e : ∀ s, exec i s = .next (falu s hd (useOf i) d (g s))) (h : ∀ s w l, g s w l = f s w l) : GivesF32 i hd d f := by
  obtain rfl : g = f := by funext s w l; exact h s w l
  exact fun s c hr => ⟨_, e s, falu_delivers hr (g s)⟩

theorem loWord_ofNat (n : Nat) : loWord (BitVec.ofNat 64 n) = BitVec.ofNat 32 (n % 2 ^ 32) := by
  apply BitVec.eq_of_toNat_eq
  simp [loWord]

theorem hiWord_ofNat (n : Nat) : hiWord (BitVec.ofNat 64 n) = BitVec.ofNat 32 (n / 2 ^ 32) := by
  apply BitVec.eq_of_toNat_eq
  simp only [hiWord, BitVec.toNat_setWidth, BitVec.toNat_ushiftRight, BitVec.toNat_ofNat, Nat.shiftRight_eq_div_pow]
  omega

theorem givesF64_of_falu2 {i : Instr} {hd : Hdr} {d : Dst} {f g : State → Wave → Nat → FRes}
    (e : ∀ s, exec i s = .next (falu2 s hd (useOf i) d (g s))) (h : ∀ s w l, g s w l = f s w l) : GivesF64 i hd d f := by
  obtain rfl : g = f := by funext s w l; exact h s w l
  refine fun s c hr => ⟨_, e s, ?_⟩
  have := falu2_delivers (d := d) hr (g s)
  simp only [loWord_ofNat, hiWord_ofNat] at this
  exact this

theorem givesFPred_of_fset {i : Instr} {hd : Hdr} {d : PDst} {f g : State → Wave → Nat → Bool × Flags}
    (e : ∀ s, exec i s = .next (fset s hd (useOf i) d (g s))) (h : ∀ s w l, g s w l = f s w l) :
    GivesFPred i hd d f := by
  obtain rfl : g = f := by funext s w l; exact h s w l
  exact fun s c hr => ⟨_, e s, fset_decides hr d (g s)⟩

/-! ## Wave-wide instructions -/

theorem tput_tput {α : Type} (t : Tbl α) (n : Nat) (x y : α) : tput (tput t n x) n y = tput t n y := by
  induction t with
  | nil => simp [tput]
  | cons a t ih =>
    obtain ⟨k, v⟩ := a
    simp only [tput]
    split
    · simp [tput]
    · split
      · simp [tput]
      · rename_i h1 h2
        simp only [tput, h1, h2, if_false, ih]

theorem gathered_some {s s0 : State} {c0 c : Ctx} {hd : Hdr} {m : LaneSet} {keep : Bool}
    (h : gathered s c0 hd m keep = (some c, s0)) : s0 = s.setWave c.id c.w ∧ c.id = c0.id := by
  unfold gathered at h
  dsimp only at h
  generalize (if (keep && (c0.w.gatherAt c0.pc).isNone) = true then c0.w.park c0.pc m
    else (c0.w.park c0.pc m).noLatch) = w at h
  split at h
  · cases h
  · split at h
    · simp only [Prod.mk.injEq, Option.some.injEq] at h
      obtain ⟨rfl, rfl⟩ := h; exact ⟨rfl, rfl⟩
    · cases h

theorem finishNext_gathered (s : State) (c : Ctx) (hd : Hdr) (w : Wave) :
    finishNext (s.setWave c.id c.w) c hd w = finishNext s c hd w := by
  obtain ⟨r, e, -⟩ := finish_wave s c hd w fun _ => nextPc c.pc
  show (s.setWave c.id c.w).setWave c.id _ = s.setWave c.id _
  simp only [State.setWave, tput_tput]

/-- A wave-wide instruction whose gathering is complete runs for the gathered group, the mask read without a fault. -/
theorem issueWide_gathers {s : State} {hd : Hdr} {u mu : Use} {keep : Bool} {c0 c : Ctx} {s1 : State} {f : Wave → LaneSet}
    (eff : Ctx → State → State) (h0 : s.ctx hd = some c0) (hm : MaskRead c0 mu)
    (h1 : gathered s c0 hd (f c0.w) keep = (some c, s1)) :
    issueWide s hd u mu keep f eff = match c.w.checks hd.g u with
      | some (code, info) => trapCtx s1 c code info
      | none => operate s1 c u (eff c) := by
  unfold MaskRead at hm
  by_cases hr : c0.w.readsMask c0.pc = true
  · simp only [issueWide, h0, hr, if_true, (hm hr).1, operate, (hm hr).2, h1]
    try rfl
  · have hn : c0.w.badOperand { regs := [], lats := [] } c0.E = none := by simp [Wave.badOperand]
    simp only [issueWide, h0, hr, operate, Bool.false_eq_true, if_false, hn, h1]
    try rfl

theorem issueWide_runs {hd : Hdr} {i : Instr} {m : MaskSrc} {s : State} {c : Ctx} (h : RunsWide hd i m s c)
    (eff : Ctx → State → State) :
    issueWide s hd (useOf i) (useMask m) false (maskVal · m) eff = eff c (s.setWave c.id c.w) := by
  obtain ⟨c0, s0, h0, hm, h1, h2, h3⟩ := h
  obtain ⟨rfl, -⟩ := gathered_some h1
  rw [issueWide_gathers eff h0 hm h1, h2]
  simp only [operate, h3]

/-! ## Traps, checks and lanes -/

theorem wave_of {s : State} {id : Nat} {w : Wave} (h : tget s.waves id = some w) : s.wave id = w := by
  simp [State.wave, h]

theorem wave_setWave (s : State) (id : Nat) (w : Wave) : (s.setWave id w).wave id = w := by
  simp [State.wave, State.setWave]

theorem noLatch_invalid (w : Wave) : ∀ x ∈ w.noLatch.latches, x.valid = false := by
  intro x hx; simp only [Wave.noLatch, List.mem_map] at hx; obtain ⟨y, -, rfl⟩ := hx; rfl

theorem issue_stops {s : State} {hd : Hdr} {u : Use} {c : Ctx} {code info : Nat} (eff : Ctx → State) (h1 : s.ctx hd = some c)
    (h2 : c.w.checks hd.g u = some (code, info)) : issue s hd u eff = trapCtx s c code info := by
  simp only [issue, h1, h2]

theorem issueWide_stops {s : State} {hd : Hdr} {u mu : Use} {keep : Bool} {c0 c : Ctx} {s1 : State} {code info : Nat}
    {f : Wave → LaneSet} (eff : Ctx → State → State) (h0 : s.ctx hd = some c0) (hm : MaskRead c0 mu)
    (h1 : gathered s c0 hd (f c0.w) keep = (some c, s1)) (h2 : c.w.checks hd.g u = some (code, info)) :
    issueWide s hd u mu keep f eff = trapCtx s1 c code info := by
  rw [issueWide_gathers eff h0 hm h1, h2]


theorem find_split {α : Type} (p : α → Bool) (l : List α) (x : α) :
    l.find? p = some x ↔ ∃ a b, l = a ++ x :: b ∧ p x = true ∧ ∀ n ∈ a, p n = false := by
  rw [List.find?_eq_some_iff_append]
  constructor
  · rintro ⟨h, a, b, rfl, h2⟩; exact ⟨a, b, rfl, h, by simpa using h2⟩
  · rintro ⟨a, b, rfl, h, h2⟩; exact ⟨h, a, b, rfl, by simpa using h2⟩

theorem badLane_some {E : LaneSet} {n : Nat} {f : Nat → DWord} {l : Nat} (h : l < 32) (hE : E.getLsbD l = true)
    (hb : (f l).toNat % n ≠ 0) (hk : ∀ k, k < l → E.getLsbD k = true → (f k).toNat % n = 0) : badLane E n f = some (f l) := by
  unfold badLane
  have : (lanesOf E).find? (fun l => (f l).toNat % n != 0) = some l := by
    unfold lanesOf
    rw [List.find?_filter]
    rw [List.find?_range_eq_some]
    refine ⟨by simp [hE, hb], by simpa using h, fun j hj => ?_⟩
    by_cases hEj : E.getLsbD j = true
    · simp [hEj, hk j hj hEj]
    · simp [hEj]
  rw [this]; rfl

theorem badLane_none {E : LaneSet} {n : Nat} {f : Nat → DWord} (h : ∀ l, l < 32 → E.getLsbD l = true → (f l).toNat % n = 0) :
    badLane E n f = none := by
  unfold badLane
  rw [List.find?_eq_none.mpr]
  · rfl
  · intro x hx
    have := (mem_lanesOf E x).mp hx
    simp [h x this.1 this.2]

end Sys2Proof.Machine
end

