-- ==== Sys2Proof/Laws/Sending.lean ====
section
/-! SUPPORT. Instructions that send requests: what translation leaves, when their lanes send, and what is then in flight. -/

namespace Sys2Proof.Machine

/-! ## Translation changes TLBs alone -/

/-- Two states that differ in TLBs alone. -/
structure TlbOnly (s t : State) : Prop where
  rest : t = { s with cores := t.cores, clusters := t.clusters, dies := t.dies }
  core : ∀ k, t.core k = { s.core k with tlb := (t.core k).tlb }
  cluster : ∀ k, t.cluster k = { s.cluster k with tlb := (t.cluster k).tlb }
  die : ∀ k, t.die k = { s.die k with tlb := (t.die k).tlb }

theorem TlbOnly.refl (s : State) : TlbOnly s s := ⟨rfl, fun _ => rfl, fun _ => rfl, fun _ => rfl⟩

theorem TlbOnly.trans {s t u : State} (h1 : TlbOnly s t) (h2 : TlbOnly t u) : TlbOnly s u :=
  ⟨by rw [h2.rest, h1.rest], fun k => by rw [h2.core k, h1.core k], fun k => by rw [h2.cluster k, h1.cluster k],
    fun k => by rw [h2.die k, h1.die k]⟩

theorem core_updCore (s : State) (n k : Nat) (f : Core → Core) :
    (s.updCore n f).core k = if k = n then f (s.core n) else s.core k := by
  simp only [State.updCore, State.setCore, State.core, tget_tput]; split <;> rfl
theorem cluster_updCluster (s : State) (n k : Nat) (f : Cluster → Cluster) :
    (s.updCluster n f).cluster k = if k = n then f (s.cluster n) else s.cluster k := by
  simp only [State.updCluster, State.setCluster, State.cluster, tget_tput]; split <;> rfl
theorem die_updDie (s : State) (n k : Nat) (f : Die → Die) :
    (s.updDie n f).die k = if k = n then f (s.die n) else s.die k := by
  simp only [State.updDie, State.setDie, State.die, tget_tput]; split <;> rfl

theorem fillTlbs_only (s : State) (core : Nat) (e : TlbEnt) : TlbOnly s (fillTlbs s core e) := by
  refine ⟨rfl, fun k => ?_, fun k => ?_, fun k => ?_⟩
  · have h : (fillTlbs s core e).core k = (s.updCore core fun c => { c with tlb := tlbFill 64 e c.tlb }).core k := rfl
    rw [h, core_updCore]; split
    · rename_i h; subst h; rfl
    · rfl
  · have h : (fillTlbs s core e).cluster k =
      (s.updCluster (coreCluster core) fun c => { c with tlb := clusterFill e c.tlb }).cluster k := rfl
    rw [h, cluster_updCluster]; split
    · rename_i h; subst h; rfl
    · rfl
  · have h : (fillTlbs s core e).die k = (s.updDie (clusterDie (coreCluster core)) fun d =>
      { d with tlb := llFill (fun no => llReserve (s.part no) no (clusterDie (coreCluster core))) e d.tlb }).die k := rfl
    rw [h, die_updDie]; split
    · rename_i h; subst h; rfl
    · rfl

theorem xlatWave_found {s s1 : State} {id : Waiter} {w : Wave} {va pa : Nat} {a : Access} {e : TlbEnt}
    (h : xlatWave s id w va a = (s1, .ok pa e)) : TlbOnly s s1 := by
  have h1 := congrArg Prod.fst h
  have h2 := congrArg Prod.snd h
  unfold xlatWave at h1 h2
  dsimp only at h1 h2
  split at h1
  · rename_i hx; rw [hx] at h2; cases h2
  · rename_i hx
    rw [hx] at h2
    dsimp only at h2
    split at h1
    · rw [← h1]; exact fillTlbs_only _ _ _
    · rename_i hy; rw [hy] at h2; cases h2
    · rename_i hy
      rw [hy] at h2
      dsimp only at h2
      exfalso
      split at h2
      · split at h2 <;> cases h2
      · split at h2 <;> cases h2

theorem Translates.only {s s1 : State} {c : Ctx} {vas : List (Nat × Access)} {xs : List (Nat × TlbEnt)}
    (h : Translates s c vas xs s1) : TlbOnly s s1 := by
  unfold Translates at h
  induction vas generalizing s xs with
  | nil => simp only [xlatAll, Prod.mk.injEq] at h; rw [← h.1]; exact TlbOnly.refl s
  | cons v vs ih =>
    simp only [xlatAll, Prod.mk.injEq] at h
    obtain ⟨h1, h2⟩ := h
    cases xs with
    | nil => cases h2
    | cons x xs =>
      simp only [List.map_cons, List.cons.injEq] at h2
      have a : xlatWave s (.wave c.id) c.w v.1 v.2 = ((xlatWave s (.wave c.id) c.w v.1 v.2).1, .ok x.1 x.2) := by rw [← h2.1]
      exact (xlatWave_found a).trans (ih (by rw [← h1, ← h2.2]))

theorem withXlat_runs {s s1 : State} {c : Ctx} {vas : List (Nat × Access)} {xs : List (Nat × TlbEnt)}
    (h : Translates s c vas xs s1) (k : Ctx → State → List (Nat × TlbEnt) → State) :
    withXlat s c vas k = k { c with w := { c.w with xpages := [], xfault := [] } } s1 xs := by
  have h : xlatAll (.wave c.id) c.w vas s = (s1, xs.map fun x => .ok x.1 x.2) := h
  unfold withXlat
  rw [h]
  dsimp only
  have h1 : (xs.map fun x : Nat × TlbEnt => Xlat.ok x.1 x.2).any (fun x => x == .miss) = false := by
    simp [List.any_eq_false]
  have h2 : xlatFaults vas (xs.map fun x : Nat × TlbEnt => Xlat.ok x.1 x.2) = [] := by
    simp only [xlatFaults, List.filterMap_eq_nil_iff]
    rintro ⟨v, x⟩ hx
    obtain ⟨y, -, rfl⟩ := List.mem_map.mp (List.of_mem_zip hx).2
    rfl
  have h3 : (xs.map fun x : Nat × TlbEnt => Xlat.ok x.1 x.2).filterMap Xlat.found? = xs := by
    induction xs with
    | nil => rfl
    | cons x xs ih => simp [List.filterMap_map, Function.comp_def, Xlat.found?]
  rw [h1, h2, h3]
  simp

theorem TlbOnly.waves {s t : State} (h : TlbOnly s t) : t.waves = s.waves := by rw [h.rest]
theorem TlbOnly.reqs {s t : State} (h : TlbOnly s t) : t.reqs = s.reqs := by rw [h.rest]
theorem TlbOnly.reps {s t : State} (h : TlbOnly s t) : t.reps = s.reps := by rw [h.rest]
theorem TlbOnly.tokens {s t : State} (h : TlbOnly s t) : t.tokens = s.tokens := by rw [h.rest]
theorem TlbOnly.flights {s t : State} (h : TlbOnly s t) : t.flights = s.flights := by rw [h.rest]
theorem TlbOnly.teams {s t : State} (h : TlbOnly s t) : t.teams = s.teams := by rw [h.rest]
theorem TlbOnly.gangs {s t : State} (h : TlbOnly s t) : t.gangs = s.gangs := by rw [h.rest]
theorem TlbOnly.grids {s t : State} (h : TlbOnly s t) : t.grids = s.grids := by rw [h.rest]
theorem TlbOnly.mem {s t : State} (h : TlbOnly s t) : t.mem = s.mem := by rw [h.rest]
theorem TlbOnly.nextId {s t : State} (h : TlbOnly s t) : t.nextId = s.nextId := by rw [h.rest]
theorem TlbOnly.cycle {s t : State} (h : TlbOnly s t) : t.cycle = s.cycle := by rw [h.rest]
theorem TlbOnly.lines {s t : State} (h : TlbOnly s t) : t.lines = s.lines := by rw [h.rest]
theorem TlbOnly.gen {s t : State} (h : TlbOnly s t) (k : Nat) : (t.die k).gen = (s.die k).gen := by rw [h.die k]
theorem TlbOnly.parts {s t : State} (h : TlbOnly s t) : t.parts = s.parts := by rw [h.rest]

theorem peerBusy_congr {s t : State} (hr : t.reqs = s.reqs) (hw : t.waves = s.waves) (id : Nat) (m : LaneSet) :
    peerBusy t id m = peerBusy s id m := by
  simp only [peerBusy, liveReq, State.wave, hr, hw]

theorem roomFor_congr {s t : State} (hr : t.reqs = s.reqs) (hp : t.reps = s.reps) (hw : t.waves = s.waves)
    (ht : t.tokens = s.tokens) (hg : ∀ k, (t.die k).gen = (s.die k).gen) (w : Wave) (id n k : Nat) : roomFor t w id n k = roomFor s w id n k := by
  simp only [roomFor, waveReqs, coreReqs, clusterTokens, liveReq, State.wave, hr, hp, hw, ht, hg]
  rfl

/-- A list of lane addresses of which none is misaligned. -/
theorem misaligned_none {n : Nat} {m : LaneSet} {f : Nat → Nat}
    (h : ∀ l, l < 32 → m.getLsbD l = true → f l % n = 0) : misaligned n (laneAddrs m f) = none := by
  unfold misaligned laneAddrs
  rw [Option.map_eq_none_iff, List.find?_eq_none]
  intro x hx
  obtain ⟨l, hl, rfl⟩ := List.mem_map.mp hx
  have := (mem_lanesOf m l).mp hl
  simp [h l this.1 this.2]

/-- A global memory instruction that runs, aligned, translated and with room, performs its effect. -/
theorem globalOp_runs {s s1 : State} {hd : Hdr} {i : Instr} {c : Ctx} {n : Nat} {acc : Access} {ea : Wave → Nat → Nat}
    {toks : Nat → Nat} {lanes : LaneSet → LaneSet} {xs : List (Nat × TlbEnt)} (h : Runs hd i s c)
    (ha : ∀ l, l < 32 → (lanes c.E).getLsbD l = true → ea c.w l % n = 0)
    (ht : Translates s c ((laneAddrs (lanes c.E) (ea c.w)).map fun e => (e.2, acc)) xs s1)
    (hr : MaySend s c (lanes c.E) (laneAddrs (lanes c.E) (ea c.w)).length (toks (laneAddrs (lanes c.E) (ea c.w)).length))
    (k : Ctx → State → List LaneAcc → State) :
    globalOp s hd (useOf i) n acc ea toks lanes k =
      k { c with w := { c.w with xpages := [], xfault := [] } } s1 (laneAccs (laneAddrs (lanes c.E) (ea c.w)) xs) := by
  have ho := Translates.only ht
  rw [globalOp, issue_runs h]
  dsimp only
  rw [misaligned_none ha]
  dsimp only
  rw [withXlat_runs ht]
  dsimp only
  have hb : peerBusy s1 c.id (lanes c.E) = false := by rw [peerBusy_congr ho.reqs ho.waves]; exact hr.1
  have hroom : ∀ w : Wave, w.core = c.w.core → roomFor s1 w c.id (laneAddrs (lanes c.E) (ea c.w)).length
      (toks (laneAddrs (lanes c.E) (ea c.w)).length) = true := by
    intro w hw
    rw [roomFor_congr ho.reqs ho.reps ho.waves ho.tokens ho.gen, ← hr.2]
    simp only [roomFor, hw]
  rw [hb, hroom { c.w with xpages := [], xfault := [] } rfl]
  simp

end Sys2Proof.Machine
end

