-- ==== Sys2Proof/Tests/Slice0.lean ====
section
/-! SUPPORT. Tests of the model: ill-formed words that the decode checks refuse, words written out from the encoding
tables, single steps on small states, and for every statement with hypotheses a state and operands that meet them. -/

namespace Sys2Proof.Machine.Tests

/-! ## Helpers -/

/-- A header with no guard, no hint, and a scoreboard or none. -/
def go (s : Option (BitVec 2)) : Hdr := ⟨⟨false, 7⟩, ⟨0, false, s, 0⟩⟩
/-- The same under guard p0. -/
def goP : Hdr := ⟨⟨false, 0⟩, ⟨0, false, none, 0⟩⟩
/-- A destination that is written. -/
def toV (n : BitVec 8) : Dst := ⟨false, .v n⟩

/-- Wave 0 of team 0, gang 0 of partition 0 in focus at address 0, as a change of the wave leaves it. Its virtual page 0
is mapped to physical page 0, where every byte reads as zero. -/
def at0 (f : Wave → Wave) : State :=
  let s := waveState State.reset 0
  { s with focus := .wave 0, waves := tput s.waves 0 (f (s.wave 0)) }

/-- The same with a change of its team, of its grid and of its partition. -/
def atTeam (f : Wave → Wave) (t : Team → Team) (g : Grid → Grid := id) (p : Part → Part := id) : State :=
  let s := at0 f
  { s with teams := tput s.teams 0 (t (s.team 0)), grids := tput s.grids 0 (g (s.grid 0)), parts := tput s.parts 0 (p (s.part 0)) }

/-- The lanes of the upper half stand at another address. -/
def halves (w : Wave) : Wave := { w with pc := List.replicate 16 0 ++ List.replicate 16 0x600 }
/-- Every latch is valid. -/
def latched (w : Wave) : Wave := { w with latches := w.latches.map fun l => { l with valid := true } }

/-- The instruction runs now, in a context with a property. -/
def runsTo (hd : Hdr) (i : Instr) (s : State) (p : Ctx → Bool) : Bool :=
  match s.ctx hd with
  | some c => (c.w.checks hd.g (useOf i)).isNone && (c.w.badOperand (useOf i) c.E).isNone && p c
  | none => false

theorem runs_of {hd : Hdr} {i : Instr} {s : State} {P : Ctx → Prop} [DecidablePred P]
    (h : runsTo hd i s (fun c => decide (P c)) = true) : ∃ c, Runs hd i s c ∧ P c := by
  unfold runsTo at h
  split at h
  · next c e =>
    simp only [Bool.and_eq_true, Option.isNone_iff_eq_none] at h
    exact ⟨c, ⟨e, h.1.1, h.1.2⟩, of_decide_eq_true h.2⟩
  · cases h

theorem all_run {hd : Hdr} {s : State} {P : Ctx → Prop} [DecidablePred P] {is : List Instr}
    (h : is.all (fun i => runsTo hd i s fun c => decide (P c)) = true) : ∀ i ∈ is, ∃ c, Runs hd i s c ∧ P c :=
  fun i m => runs_of (List.all_eq_true.1 h i m)

/-- The same for a wave-wide instruction whose gathering is complete under the mask, which is read without a fault. -/
def wideTo (hd : Hdr) (i : Instr) (mu : Use) (keep : Bool) (f : Wave → LaneSet) (s : State) (p : Ctx → Bool) : Bool :=
  match s.ctx hd with
  | some c0 => match (gathered s c0 hd (f c0.w) keep).1 with
    | some c => (!c0.w.readsMask c0.pc || (c0.w.checks plainGuard mu).isNone && (c0.w.badOperand mu c0.E).isNone) &&
        ((c.w.checks hd.g (useOf i)).isNone && (c.w.badOperand (useOf i) c.E).isNone) && p c
    | none => false
  | none => false

theorem mask_of {c0 : Ctx} {mu : Use}
    (h : (!c0.w.readsMask c0.pc || (c0.w.checks plainGuard mu).isNone && (c0.w.badOperand mu c0.E).isNone) = true) : MaskRead c0 mu := by
  intro hr
  simpa [hr] using h

theorem wide_of {hd : Hdr} {i : Instr} {m : MaskSrc} {s : State} {P : Ctx → Prop} [DecidablePred P]
    (h : wideTo hd i (useMask m) false (fun w => maskVal w m) s (fun c => decide (P c)) = true) : ∃ c, RunsWide hd i m s c ∧ P c := by
  unfold wideTo at h
  split at h
  · next c0 e =>
    split at h
    · next c e1 =>
      obtain ⟨⟨hm, hc⟩, hp⟩ := (Bool.and_eq_true_iff.1 h).imp_left Bool.and_eq_true_iff.1
      simp only [Bool.and_eq_true, Option.isNone_iff_eq_none] at hc
      exact ⟨c, ⟨c0, _, e, mask_of hm, Prod.ext e1 rfl, hc.1, hc.2⟩, of_decide_eq_true hp⟩
    · cases h
  · cases h

theorem all_wide {hd : Hdr} {m : MaskSrc} {s : State} {P : Ctx → Prop} [DecidablePred P] {is : List Instr}
    (h : is.all (fun i => wideTo hd i (useMask m) false (fun w => maskVal w m) s fun c => decide (P c)) = true) :
    ∀ i ∈ is, ∃ c, RunsWide hd i m s c ∧ P c := fun i n => wide_of (List.all_eq_true.1 h i n)

theorem gathered_of {hd : Hdr} {i : Instr} {f : Wave → LaneSet} {s : State} {P : Ctx → Prop} [DecidablePred P]
    (g : gatherMask i = some f) (h : wideTo hd i (gatherReads i) (gatherKeeps i) f s (fun c => decide (P c)) = true) : ∃ c, RunsGathered hd i s c ∧ P c := by
  unfold wideTo at h
  split at h
  · next c0 e =>
    split at h
    · next c e1 =>
      obtain ⟨⟨hm, hc⟩, hp⟩ := (Bool.and_eq_true_iff.1 h).imp_left Bool.and_eq_true_iff.1
      simp only [Bool.and_eq_true, Option.isNone_iff_eq_none] at hc
      exact ⟨c, ⟨c0, _, f, g, e, mask_of hm, Prod.ext e1 rfl, hc.1, hc.2⟩, of_decide_eq_true hp⟩
    · cases h
  · cases h

/-- The translations that a list of accesses finds. -/
def found (s : State) (c : Ctx) (vas : List (Nat × Access)) : List (Nat × TlbEnt) :=
  (xlatAll (.wave c.id) c.w vas s).2.filterMap fun x => match x with
    | .ok pa e => some (pa, e)
    | _ => none

theorem sends_of {hd : Hdr} {i : Instr} {s : State} {P : Ctx → Prop} [DecidablePred P] (vas : Ctx → List (Nat × Access))
    (m : Ctx → LaneSet) (n k : Nat)
    (h : runsTo hd i s (fun c => decide ((xlatAll (.wave c.id) c.w (vas c) s).2 = (found s c (vas c)).map (fun x => .ok x.1 x.2) ∧
      peerBusy s c.id (m c) = false ∧ roomFor s c.w c.id n k = true ∧ P c)) = true) :
    ∃ c s1, Runs hd i s c ∧ Translates s c (vas c) (found s c (vas c)) s1 ∧ MaySend s c (m c) n k ∧ P c := by
  obtain ⟨c, r, a, b, d, e⟩ := runs_of h
  exact ⟨c, _, r, Prod.ext rfl a, ⟨b, d⟩, e⟩

theorem prefs_of {hd : Hdr} {i : Instr} {s : State} {P : Ctx → Prop} [DecidablePred P] (vas : Ctx → List (Nat × Access))
    (h : runsTo hd i s (fun c => decide (P c ∧
      (xlatAll (.pref c.id) c.w (vas c) s).2 = (found s c (vas c)).map fun x => .ok x.1 x.2)) = true) :
    ∃ c s1, Runs hd i s c ∧ P c ∧ xlatAll (.pref c.id) c.w (vas c) s = (s1, (found s c (vas c)).map fun x => .ok x.1 x.2) := by
  obtain ⟨c, r, p, a⟩ := runs_of h
  exact ⟨c, _, r, p, Prod.ext rfl a⟩

/-! ## States and operands that meet the hypotheses of the statements -/

theorem witness_IntegerSumsAndProducts : ∀ i ∈
    [Instr.iadd (go none) (toV 5) (.v 1) (.latch 3) true .i32, .iaddImm (go none) ⟨true, .zero⟩ (.v 255) 0x80000000 true .i32,
     .isub (go none) ⟨false, .w 127⟩ (.w 0) .zero true .n32, .imad (go none) (toV 5) (.v 1) (.v 2) (.v 3) false .i32,
     .imad (go none) (toV 254) (.v 1) (.v 2) (.v 4) true .i32, .imadImm (go none) ⟨true, .zero⟩ (.v 1) 0xFFFFFFFF .n32,
     .imulh (go none) (toV 0) (.v 1) (.v 2) .i32, .iadd64 (go none) (toV 4) (.v 2) (.w 6),
     .iadd64Imm (go none) (toV 4) (.v 2) 0x80000000, .lea (go none) (toV 4) (.v 2) (.v 6) 15 .i32,
     .leaImm (go none) (toV 4) (.v 2) 0xFFFFFFFF 0 .n32, .isetp (go none) ⟨false, 6⟩ (.v 2) (.v 4) 7 .le .and .n64,
     .isetpImm (go none) ⟨true, 7⟩ (.v 2) 0x80000000 .gt .n64],
    ∃ c, Runs (go none) i (at0 latched) c ∧ c.E = BitVec.allOnes 32 := all_run (by decide)

theorem witness_MinimaMaximaAndAbsoluteValues : ∀ i ∈
    [Instr.imin (go none) (toV 5) (.v 1) (.v 2) .i32, .imax (go none) (toV 4) (.v 2) (.v 6) .n64,
     .iminImm (go none) (toV 5) (.v 1) 0x80000000 .n32, .imaxImm (go none) (toV 4) (.v 2) 0xFFFFFFFF .i64,
     .iabs (go none) (toV 5) (.v 1) false .i32, .iabs (go none) (toV 4) (.v 2) true .i64],
    ∃ c, Runs (go none) i (at0 id) c ∧ c.E ≠ 0 := all_run (by decide)

theorem witness_CountsAndReversalOfBits : ∀ i ∈
    [Instr.popc (go none) (toV 5) (.v 2) .b64, .clz (go none) (toV 5) .zero .b32, .brev (go none) (toV 5) (.v 1) .b32,
     .brev (go none) (toV 4) (.v 2) .b64],
    ∃ c, Runs (go none) i (at0 id) c ∧ c.E ≠ 0 := all_run (by decide)

theorem witness_SelectionOfWordsAndBytes : ∀ i ∈
    [Instr.isel (go none) (toV 5) (.v 1) (.v 2) true 7 .b32, .isel (go none) (toV 4) (.v 2) (.v 6) false 0 .b64,
     .iselImm (go none) (toV 5) (.v 1) 0x80000000 true 6 .b32, .bsel (go none) (toV 5) (.v 1) (.v 2) (.v 3)],
    ∃ c, Runs (go none) i (at0 id) c ∧ c.E ≠ 0 := all_run (by decide)

theorem witness_ShiftsAndBitFields : ∀ i ∈
    [Instr.shl (go none) (toV 5) (.v 1) (.v 2) .b32, .shr (go none) (toV 4) (.v 2) (.v 6) .b64, .sar (go none) (toV 5) (.v 1) (.v 2) .b32,
     .shlImm (go none) (toV 5) (.v 1) 32 .b32, .shrImm (go none) (toV 4) (.v 2) 63 .b64, .sarImm (go none) (toV 5) (.v 1) 63 .b32,
     .rot (go none) (toV 5) (.v 1) (.v 2) true .b32, .bool3 (go none) (toV 5) (.v 1) (.v 2) (.v 3) false 0xFF,
     .bool3 (go none) (toV 4) (.v 2) (.v 6) (.v 8) true 0x80, .bool3Imm (go none) (toV 5) (.v 1) 0x80000000 1,
     .bfe (go none) (toV 5) (.v 1) (.v 2) .i32, .bfi (go none) (toV 5) (.v 1) (.v 2) (.v 3)],
    ∃ c, Runs (go none) i (at0 id) c ∧ c.E ≠ 0 := all_run (by decide)

theorem witness_MovesAndPredicateLogic :
    (∀ i ∈ [Instr.mov (go none) (toV 4) (.v 2) .b64, .movi (go none) (toV 4) 0x80000000 .n64, .s2v (go none) (toV 5) 96,
        .movw (go none) ⟨false, .w 127⟩ (.v 1) 31, .movw (go none) ⟨true, .w 0⟩ (.latch 0) 0,
        .psetp (go none) ⟨false, 6⟩ (.v 1) (.v 2) 7 true .xor .b32, .plop (go none) ⟨false, 0⟩ 1 2 7 0xFE],
      ∃ c, Runs (go none) i (at0 latched) c ∧ c.E ≠ 0) ∧
    ∃ c, Runs goP (.movw goP ⟨false, .w 127⟩ (.v 1) 31) (at0 id) c ∧ c.E = 0 := ⟨all_run (by decide), runs_of (by decide)⟩

/-- A wave whose upper half has parked at 0x600 under a mask of all lanes. -/
def halfParked (w : Wave) : Wave := { halves w with gathers := [{ pc := 0x600, mask := BitVec.allOnes 32, lanes := 0xFFFF0000, old := false }] }
/-- A quarter of a wave comes after a pre-emption to lanes parked at address 0, of which the last quarter is missing. -/
def resumed (w : Wave) : Wave :=
  { halves w with
    gathers := [{ pc := 0, mask := 0xF, lanes := 0xFF, old := true }], w := [(5, 0xFFFFFFFF)] }

theorem witness_CrossLaneInstructionsAnswer :
    (∀ i ∈ [Instr.shfl (go none) (toV 5) (.v 1) (.v 2) .all .rot, .vote (go none) ⟨false, 0⟩ 7 .all .uni,
        .ballot (go none) (toV 5) 0 .all, .matchv (go none) (toV 5) (.v 2) .all true .b64, .redux (go none) (toV 5) (.v 1) .all .add .f32],
      ∃ c, RunsWide (go none) i .all (at0 id) c ∧ c.E = BitVec.allOnes 32) ∧
    (∃ c, (at0 halves).ctx (go none) = some c ∧ MaskRead c (useMask .all) ∧ c.w.gatherAt c.pc = none ∧
      maskVal c.w .all &&& c.w.live &&& ~~~(c.w.freeAt c.pc) ≠ 0) ∧
    (∃ c, (at0 halfParked).ctx (go none) = some c ∧ MaskRead c (useMask .all) ∧ c.w.gatherAt c.pc = none ∧
      maskVal c.w .all &&& c.w.live &&& ~~~(c.w.freeAt c.pc) ≠ 0 ∧ c.w.live &&& ~~~(c.w.parked ||| c.w.freeAt c.pc) = 0) ∧
    ∃ c g, (at0 resumed).ctx (go none) = some c ∧ MaskRead c (useMask (.w 5)) ∧ c.w.gatherAt c.pc = some g ∧ g.old = true ∧
      c.w.freeAt c.pc ≠ 0 ∧ maskVal c.w (.w 5) &&& c.w.live &&& ~~~(g.lanes ||| c.w.freeAt c.pc) ≠ 0 :=
  ⟨all_wide (by decide), ⟨_, rfl, mask_of (by decide), by decide⟩, ⟨_, rfl, mask_of (by decide), by decide⟩,
    ⟨_, _, rfl, mask_of (by decide), rfl, by decide⟩⟩

theorem witness_FloatingPointResults :
    (∀ i ∈ [Instr.fadd (go none) (toV 5) (.v 1) (.v 2) ⟨.rd, true, true, true⟩ .bf16, .fmul (go none) (toV 5) (.v 1) (.v 2) ⟨.ru, false, false, true⟩ .f32,
        .ffma (go none) (toV 5) (.v 1) (.v 2) (.v 3) ⟨.rz, false, false, true⟩ .f16, .faddImm (go none) (toV 5) (.v 1) 0x7F800001 .rn false true .f32,
        .fmulImm (go none) (toV 5) (.v 1) 0 .rn true false .f32, .ffmaImm (go none) ⟨true, .zero⟩ (.v 1) 0x3F800000 .rn false false .f32,
        .hadd2 (go none) (toV 5) (.v 1) (.v 2) ⟨.rn, false, false, false⟩ .f16x2, .hfma2 (go none) (toV 5) (.v 1) (.v 2) (.v 3) ⟨.rn, true, false, true⟩ .bf16x2,
        .dadd (go none) (toV 4) (.v 2) (.v 6) .rd true true, .dmul (go none) (toV 4) (.v 2) (.v 6) .rn false false,
        .dfma (go none) (toV 4) (.v 2) (.v 6) (.v 8) .ru true false, .fmin (go none) (toV 5) (.v 1) (.v 2) true false false .f32,
        .fmax (go none) (toV 5) (.v 1) (.v 2) false true true .f16, .fsetp (go none) ⟨false, 0⟩ (.v 1) (.v 2) 7 .and false .num .f32,
        .dsetp (go none) ⟨false, 0⟩ (.v 2) (.v 4) 7 .or .geu, .fclass (go none) (toV 5) (.v 2) .f64, .fclass (go none) (toV 5) (.v 1) .bf16,
        .dot4 (go none) (toV 5) (.v 1) (.v 2) (.v 3) true .i8, .dot2 (go none) (toV 5) (.v 1) (.v 2) (.v 3) .rz .bf16x2],
      ∃ c, Runs (go none) i (at0 id) c ∧ c.E ≠ 0) ∧
    (let v (n : Nat) : FVal := fval f32 false false n
     (v 0x7FC00000).isNan = true ∧ (v 0x7FC00000).isSnan = false ∧ (v 0x7F800001).isSnan = true ∧
     (v 0x7F800000).isInf = true ∧ (v 0xFF800000).isInf = true ∧ (v 0x7F800000).neg? ≠ (v 0xFF800000).neg? ∧
     (v 0x80000000).isZero = true ∧ (v 0x3F800000).isNan = false) := ⟨all_run (by decide), by decide⟩

/-- A special function of wave 0 that has two lanes to return. -/
def sfuFlight (d : DReg) : Flight :=
  { wave := 0, sb := some 3, regs := [5], left := 0x80000001, dest := .words 1, d := d, pd := 7, cur := none, pc := 0, first := 0,
    lanes := 0x80000001, vals := List.replicate 32 1 }

theorem witness_SpecialFunctionsReturnLater :
    (∀ i ∈ [Instr.frcp (go (some 0)) (.v 5) (.v 1) .rz true, .fsqrt (go (some 3)) (.w 5) (.v 1) .ru false, .frsq (go (some 0)) (.v 255) (.v 1) false,
        .fex2 (go (some 0)) .zero (.v 1) true, .flg2 (go (some 0)) (.v 5) (.v 1) false, .fsin (go (some 0)) (.v 5) (.v 1) false,
        .fcos (go (some 0)) (.v 5) (.v 1) false],
      ∃ c, Runs (go (some 0)) i (at0 id) c ∧ c.E ≠ 0) ∧
    ∀ d ∈ [DReg.v 5, .w 127, .zero],
      let s : State := { at0 id with flights := [(9, sfuFlight d)] }
      tget s.flights 9 = some (sfuFlight d) ∧ (sfuFlight d).vals ≠ [] ∧ (sfuFlight d).dest = .words 1 ∧
      (tget s.waves 0).isSome ∧ (s.teamOf (s.wave 0)).life = .resident := ⟨all_run (by decide), by decide⟩

/-- Format register 0 holds e4m3, register 1 a nibble format; the others are not valid. -/
def fmtRegs : Tbl FmtEnt := [(0, { stamp := 1, val := 0x1C063, own := true }), (1, { stamp := 0, val := 0x4051, own := false })]
def formats (w : Wave) : Wave := { w with fmts := fmtRegs }

theorem witness_ConversionsBetweenFormats :
    (∀ i ∈ [Instr.cvt (go none) (toV 5) (.v 2) .rn false true .i64 .n8, .cvt (go none) (toV 4) (.v 1) .rd false false .f16 .f64,
        .pack (go none) (toV 5) (.v 1) (.v 2) .rn true .bf16x2, .unpack (go none) (toV 4) (.v 1) false .f16x2,
        .bscale (go none) (toV 5) (.v 1) (.v 2) 0 .apply, .bscale (go none) (toV 5) (.v 1) (.v 2) 0 .unscale],
      ∃ c, Runs (go none) i (at0 id) c ∧ c.E ≠ 0) ∧
    (∀ i ∈ [Instr.cvtn (go none) (toV 5) (.v 1) 3 .rn 0 false .f32, .cvtn (go none) (toV 5) (.v 1) 0 .rn 0 true .bf16,
        .cvtw (go none) (toV 5) (.v 1) 2 .rn 0 .bf16x2, .bscale (go none) (toV 5) (.v 1) (.v 0) 0 .derive,
        .cvtef (go none) (toV 5) (.v 1) 6 3 0 .fmt, .cvtef (go none) (toV 5) (.v 1) 6 1 0 .f16],
      ∃ c, Runs (go none) i (at0 formats) c ∧ (fmtReg c.w 0).valid = true ∧ boxOk (fmtReg c.w 0) 3 = true ∧
        boxOk (fmtReg c.w 0) 4 = false ∧ (fmtReg c.w 1).valid = true ∧ boxOk (fmtReg c.w 1) 7 = true ∧ (fmtReg c.w 2).valid = false) := ⟨all_run (by decide), all_run (by decide)⟩

/-- Predicate p0 in some lanes, and a value in every lane of a vector register. -/
def p0 (m : LaneSet) (w : Wave) : Wave := { w with p := tput w.p 0 m }
def val (n : Nat) (f : Nat → Word) (w : Wave) : Wave := w.vput n (BitVec.allOnes 32) f

/-- A return address that has been loaded, for the lanes of the lower half, as `f` says. -/
def retDone (f : Nat → Word) : Flight :=
  { wave := 0, sb := none, regs := [], left := 0, dest := .ret, d := .zero, pd := 7, cur := none, pc := 0, first := 0, lanes := 0xFFFF,
    vals := (List.range 64).map f }

theorem witness_BranchesCallsAndExits :
    -- targets that are aligned, in every lane and in none
    (∀ i ∈ [Instr.bra (go none) 0xFFFFFFFF, .brx (go none) (.v 2), .nop (go none), .yield (go none), .exit (go none)],
      ∃ c, Runs (go none) i (at0 id) c ∧ c.E ≠ 0 ∧ (c.pc + 12 * BitVec.signExtend 64 (0xFFFFFFFF : Word)).toNat % 4 = 0 ∧
        ∀ l, l < 32 → (rd64 (at0 id) c.w l (.v 2)).toNat % 4 = 0) ∧
    (∀ i ∈ [Instr.bra goP 1, .exit goP, .yield goP], ∃ c, Runs goP i (at0 id) c ∧ c.E = 0) ∧
    (∃ c, RunsWide (go none) (.conv (go none) .all) .all (at0 id) c ∧ c.E ≠ 0) ∧
    -- the lowest of two failing lanes, for a target and for a stack pointer
    (∃ c, Runs (go none) (.brx (go none) (.v 2)) (at0 (val 2 fun l => if l < 30 then 4 else 2)) c ∧ c.E.getLsbD 30 = true ∧
      (rd64 (at0 (val 2 fun l => if l < 30 then 4 else 2)) c.w 30 (.v 2)).toNat % 4 ≠ 0 ∧
      ∀ k, k < 30 → (rd64 (at0 (val 2 fun l => if l < 30 then 4 else 2)) c.w k (.v 2)).toNat % 4 = 0) ∧
    (∀ i ∈ [Instr.call (go none) 1, .ret (go none)],
      ∃ c, Runs (go none) i (at0 fun w => { w with csp := List.replicate 31 8 ++ [4] }) c ∧ c.E.getLsbD 31 = true ∧
        (c.w.cspOf 31).toNat % 8 ≠ 0 ∧ (∀ k, k < 31 → (c.w.cspOf k).toNat % 8 = 0) ∧
        retFlight (at0 fun w => { w with csp := List.replicate 31 8 ++ [4] }) c.id c.pc = none) ∧
    (∃ c s1, Runs goP (.call goP 1) (at0 (p0 0x80000001 ∘ fun w => { w with csp := List.replicate 32 8 })) c ∧
      Translates (at0 (p0 0x80000001 ∘ fun w => { w with csp := List.replicate 32 8 })) c [(0, .write), (0, .write)]
        (found (at0 (p0 0x80000001 ∘ fun w => { w with csp := List.replicate 32 8 })) c [(0, .write), (0, .write)]) s1 ∧
      MaySend (at0 (p0 0x80000001 ∘ fun w => { w with csp := List.replicate 32 8 })) c c.E 2 2 ∧
      (lanesOf c.E).map (fun l => ((c.w.cspOf l - 8).toNat, Access.write)) = [(0, .write), (0, .write)]) ∧
    (let s : State := { at0 id with flights := [(3, retDone fun _ => 12)] }
     ∃ c, Runs (go none) (.ret (go none)) s c ∧ retFlight s c.id c.pc = some (3, retDone fun _ => 12) ∧
       (retDone fun _ => 12).left = 0 ∧ c.E = BitVec.allOnes 32 ∧ c.path &&& (retDone fun _ => 12).lanes ≠ 0 ∧
       (∀ l, l < 32 → (retAddr (retDone fun _ => 12) l).toNat % 4 = 0) ∧ (retDone fun _ => 12).lanes.getLsbD 15 = true ∧
       (retAddr (retDone fun k => if k < 30 then 12 else 13) 15).toNat % 4 ≠ 0 ∧
       ∀ k, k < 15 → (retAddr (retDone fun k => if k < 30 then 12 else 13) k).toNat % 4 = 0) ∧
    -- EXIT of all lanes but the highest
    ∃ c, Runs goP (.exit goP) (at0 (p0 0x7FFFFFFF)) c ∧ c.w.live.getLsbD 31 = true ∧ c.E.getLsbD 31 = false ∧
      (({ c.w with gathers := c.w.gathers.filter fun g => g.pc != c.pc } : Wave).parked).getLsbD 31 = false :=
  ⟨all_run (by decide), all_run (by decide), wide_of (by decide), runs_of (by decide), all_run (by decide),
    sends_of _ (·.E) 2 2 (by decide), runs_of (by decide), runs_of (by decide)⟩

theorem witness_ChecksStopAnInstruction :
    (∃ c, (at0 fun w => { w with blocks := 1 }).ctx (go none) = some c ∧
      c.w.checks (go none).g (useOf (.iadd (go none) (toV 7) (.v 8) (.v 1) false .i32)) = some (5, 8)) ∧
    (∃ c, (at0 fun w => { w with pend := [384] }).ctx goP = some c ∧ c.w.checks goP.g (useOf (.nop goP)) = some (6, 384)) ∧
    (∃ c, (at0 id).ctx (go none) = some c ∧ c.w.checks (go none).g (useOf (.mov (go none) (toV 1) (.latch 3) .b32)) = some (7, 3)) ∧
    gatherMask (.nop goP) = none ∧ gatherMask (.mov (go none) (toV 1) (.latch 3) .b32) = none ∧
    (∃ c0 s1 c, (at0 fun w => { w with pend := [1] }).ctx (go none) = some c0 ∧ MaskRead c0 (useMask .all) ∧
      gathered (at0 fun w => { w with pend := [1] }) c0 (go none) (maskVal c0.w .all) false = (some c, s1) ∧
      c.w.checks (go none).g (useOf (.shfl (go none) (toV 2) (.v 1) (.v 3) .all .abs)) = some (6, 1)) ∧
    -- an operand with an error in lane 31, and a uniform one
    (∀ x ∈ [(Src.v 1, (1, 31), 1), (.w 9, (265, 0), 5)], ∃ c, (at0 fun w => { w with bad := [x.2.1] }).ctx (go none) = some c ∧
      c.w.checks (go none).g (useOf (.mov (go none) (toV 1) x.1 .b32)) = none ∧
      c.w.badOperand (useOf (.mov (go none) (toV 1) x.1 .b32)) c.E = some x.2.2) ∧
    (∃ c, (at0 id).ctx plainHdr = some c) ∧ (Raw.unpack 0xE80000000000000000000000).op.toNat / 16 = 14 ∧
    (Raw.unpack 0xF00000000000000000000000).op.toNat / 16 ≠ 14 :=
  ⟨⟨_, rfl, by decide⟩, ⟨_, rfl, by decide⟩, ⟨_, rfl, by decide⟩, rfl, rfl,
    ⟨_, _, _, rfl, mask_of (by decide), rfl, by decide⟩,
    List.forall_mem_cons.2 ⟨⟨_, rfl, by decide, by decide⟩, List.forall_mem_cons.2 ⟨⟨_, rfl, by decide, by decide⟩, nofun⟩⟩, ⟨_, rfl⟩,
    by decide, by decide⟩

theorem witness_TrapsAreTakenAndReturnedFrom :
    (∀ i ∈ [Instr.trap (go none) 0xFFF, .bkpt (go none) 0], ∃ c, Runs (go none) i (at0 id) c ∧ c.E ≠ 0) ∧
    (∀ i ∈ [Instr.trap goP 0xFFF, .bkpt goP 0], ∃ c, Runs goP i (at0 id) c ∧ c.E = 0) ∧
    -- the handler is enabled, and the lanes of the upper half stand elsewhere
    (let s := atTeam halves fun t => { t with trapVec := 0x1001 }
     (tget s.waves 0).isSome ∧ (s.teamOf (s.wave 0)).trapVec.getLsbD 0 = true ∧ (s.wave 0).trap.inn = false ∧
       ∃ l, l < 32 ∧ (s.wave 0).live.getLsbD l = true ∧ (s.wave 0).parked.getLsbD l = false ∧ (s.wave 0).held.getLsbD l = false ∧
         (s.wave 0).pcOf l = 0x600) ∧
    -- a trap for the policy: no handler, or in the handler already
    (let s := at0 id
     (tget s.waves 0).isSome ∧ (tget s.parts (s.partNo (s.wave 0))).isSome ∧ (s.teamOf (s.wave 0)).trapVec.getLsbD 0 = false) ∧
    (let s := atTeam (fun w => { w with trap := { w.trap with inn := true } }) fun t => { t with trapVec := 1 }
     (tget s.waves 0).isSome ∧ (tget s.parts (s.partNo (s.wave 0))).isSome ∧ (s.wave 0).trap.inn = true) ∧
    -- ERET in the handler with an aligned and a misaligned target, outside it, and with no lane enabled
    (∃ c, RunsGathered (go none) (.eret (go none) true)
      (at0 fun w => { w with trap := { inn := true, code := 19, pc := 0x40, lanes := BitVec.allOnes 32, info := 0 } }) c ∧
      c.E ≠ 0 ∧ c.w.trap.inn = true ∧ (c.w.trap.pc + 12).toNat % 4 = 0) ∧
    (∃ c, RunsGathered (go none) (.eret (go none) false)
      (at0 fun w => { w with trap := { inn := true, code := 19, pc := 0x42, lanes := BitVec.allOnes 32, info := 0 } }) c ∧
      c.E ≠ 0 ∧ c.w.trap.inn = true ∧ c.w.trap.pc.toNat % 4 ≠ 0) ∧
    (∃ c, RunsGathered (go none) (.eret (go none) false) (at0 id) c ∧ c.E ≠ 0 ∧ c.w.trap.inn = false) ∧
    ∃ c, RunsGathered goP (.eret goP false) (at0 id) c ∧ c.E = 0 :=
  ⟨all_run (by decide), all_run (by decide), by decide, by decide, by decide, gathered_of rfl (by decide),
    gathered_of rfl (by decide), gathered_of rfl (by decide), gathered_of rfl (by decide)⟩

theorem witness_SystemInstructions :
    (∀ i ∈ [0x000, 0x001, 0x004, 0x005, 0x0FF, 0x100, 0x107, 0x108, 0x110, 0x120, 0x200, 0x202, 0x203, 0x211, 0x230, 0x406, 0x407, 0x50F,
        0x510, 0x605, 0x606, 0xFFF].map (Instr.rdsys (go (some 0)) (.v 2)),
      ∃ c, Runs (go (some 0)) i (at0 id) c ∧ c.E ≠ 0 ∧ ((at0 id).part ((at0 id).partNo c.w)).regs.fHead < 2 ^ 32 ∧
        ((at0 id).part ((at0 id).partNo c.w)).regs.decHead < 2 ^ 32) ∧
    (∀ i ∈ [0, 4, 5, 0xFF, 0x100, 0x107, 0x108, 0x110, 0x120, 0x230, 0x500, 0x50F, 0x510, 0x605, 0x606].map
        (fun n => Instr.wrsys (go none) n (.v 2)),
      ∃ c, Runs (go none) i (at0 id) c ∧ lowLane c.E = some 0 ∧ (tget (at0 id).teams c.w.team).isSome) ∧
    (∃ c, Runs (go (some 0)) (.rdts (go (some 0)) (.v 2)) (at0 id) c ∧ c.E ≠ 0 ∧ lanesAwait (at0 id) c.id c.path = false) ∧
    (∃ c, Runs (go (some 0)) (.rdclk (go (some 0)) (.w 126)) (at0 id) c ∧ c.E ≠ 0) ∧
    ∃ c, Runs (go none) (.setprio (go none) 15) (at0 id) c ∧ c.E ≠ 0 ∧ (tget (at0 id).gangs ((at0 id).teamOf c.w).gang).isSome :=
  ⟨all_run (by decide), all_run (by decide), runs_of (by decide), runs_of (by decide), runs_of (by decide)⟩

/-- Lane 3 has a bad offset, lane 4 another one. -/
def badLanes (x y : Word) : State := atTeam (val 1 (fun l => if l = 3 then x else if l = 4 then y else 0) ∘ val 2 fun l => if l = 3 then x else 0) id
  fun g => { g with loc := 1 }

theorem witness_MisalignedAndOutOfRangeAccessesTrap :
    (∀ i ∈ [Instr.ldl (go (some 0)) (.v 5) (.v 1) 0 .b32, .stl (go (some 0)) (.v 1) 0 (.v 5) .b32,
        .atomLocal (go (some 0)) (.v 5) (.v 1) 0 (.v 6) .add .i32, .ld (go (some 0)) (.v 5) (.v 2) 0 ⟨0, 0⟩ .b32,
        .st (go (some 0)) (.v 2) 0 (.v 5) ⟨0, 0⟩ .b32, .atom (go (some 0)) (.v 5) (.v 2) 0 (.v 6) ⟨0, 0⟩ .add .i32],
      ∃ c, Runs (go (some 0)) i (badLanes 2 0x2000) c ∧ c.E.getLsbD 3 = true ∧ (rd32 (badLanes 2 0x2000) c.w 3 (.v 1)).toNat % 4 ≠ 0 ∧
        (rd64 (badLanes 2 0x2000) c.w 3 (.v 2)).toNat % 4 ≠ 0 ∧ ∀ k, k < 3 → (rd32 (badLanes 2 0x2000) c.w k (.v 1)).toNat % 4 = 0) ∧
    -- out of range just behind the local memory, in the window by a store, and behind the window
    ∀ x ∈ [(256 : Word), 0xFF000000, 0xFF010000], ∃ c, Runs (go none) (.stl (go none) (.v 1) 0 (.v 5) .b32) (badLanes x 0) c ∧
      c.E.getLsbD 3 = true ∧ (∀ k, k < 32 → (rd32 (badLanes x 0) c.w k (.v 1)).toNat % 4 = 0) ∧
      (rd32 (badLanes x 0) c.w 3 (.v 1)).toNat = x.toNat ∧ localSize (badLanes x 0) ((badLanes x 0).teamOf c.w).gang = 256 :=
  ⟨all_run (by decide), fun x m => by
    rcases List.mem_cons.1 m with rfl | m
    · exact runs_of (by decide)
    rcases List.mem_cons.1 m with rfl | m
    · exact runs_of (by decide)
    rcases List.mem_cons.1 m with rfl | m
    · exact runs_of (by decide)
    · cases m⟩

/-- Every lane has an offset of its own in local memory of 256 bytes, but lane 31 that of lane 30. -/
def localState : State := atTeam (val 1 fun l => BitVec.ofNat 32 (8 * min l 30)) id fun g => { g with loc := 1 }
/-- Lane 0 reads the residual window, the others local memory. -/
def windowState : State := atTeam (val 1 fun l => if l = 0 then 0xFF00FFFC else 0xFC) id fun g => { g with loc := 1 }

theorem witness_LocalMemoryAccesses :
    (∀ i ∈ [Instr.ldl (go (some 0)) (.v 6) (.v 1) 0 .b64, .stl (go (some 0)) (.v 1) 0 (.v 6) .b64,
        .atomLocal (go (some 0)) (.v 6) (.v 1) 0 (.v 8) .cas .b64],
      ∃ c, Runs (go (some 0)) i localState c ∧ c.E = BitVec.allOnes 32 ∧ lanesBusy localState c.id c.E = false ∧
        peerBusy localState c.id c.E = false ∧
        ∀ l, l < 32 → (rd32 localState c.w l (.v 1)).toNat % 8 = 0 ∧ (rd32 localState c.w l (.v 1)).toNat < 256 ∧
          (localState.gang (localState.teamOf c.w).gang).badAt (rd32 localState c.w l (.v 1)).toNat 8 = false) ∧
    (∃ c, Runs (go (some 0)) (.ldl (go (some 0)) (.v 6) (.v 1) 0 .b32) windowState c ∧ lanesBusy windowState c.id c.E = false ∧
      peerBusy windowState c.id c.E = false ∧ ∀ l, l < 32 → (rd32 windowState c.w l (.v 1)).toNat % 4 = 0 ∧
        ((rd32 windowState c.w l (.v 1)).toNat < 256 ∨ (rd32 windowState c.w l (.v 1)).toNat = 0xFF00FFFC)) ∧
    (0xFFFFFFFF : DWord).toNat < 2 ^ 32 ∧ Ty.i32 ∈ [Ty.i32, .n32, .i64, .n64] ∧ Ty.b64 ∈ [Ty.b32, .b64] :=
  ⟨all_run (by decide), runs_of (by decide), by decide, by decide, by decide⟩

/-- The addresses that the enabled lanes give, as accesses of one kind. -/
def byLanes (s : State) (a : Access) (c : Ctx) : List (Nat × Access) := (lanesOf c.E).map fun l => ((rd64 s c.w l (.v 2)).toNat, a)

theorem witness_StoresAtomicsAndAccumulatesAreSent :
    (∃ c s1, Runs (go (some 1)) (.st (go (some 1)) (.v 2) 0 (.v 4) ⟨0, 0⟩ .b128) (at0 id) c ∧
      Translates (at0 id) c (byLanes (at0 id) .write c) (found (at0 id) c (byLanes (at0 id) .write c)) s1 ∧
      MaySend (at0 id) c c.E 32 32 ∧ c.E = BitVec.allOnes 32) ∧
    (∃ c s1, Runs (go (some 1)) (.atom (go (some 1)) (.v 6) (.v 2) 0 (.v 4) ⟨0, 0⟩ .cas .b64) (at0 id) c ∧
      Translates (at0 id) c (byLanes (at0 id) .rmw c) (found (at0 id) c (byLanes (at0 id) .rmw c)) s1 ∧
      MaySend (at0 id) c c.E 32 32 ∧ c.E = BitVec.allOnes 32) ∧
    -- one enabled lane, whose addend finds no entry
    (let s := at0 (p0 0x80000000)
     ∃ c s1, Runs goP (.acc goP (.v 2) 0 (.v 4) ⟨0, 0⟩ .add .f32) s c ∧
      Translates s c (byLanes s .rmw c) (found s c (byLanes s .rmw c)) s1 ∧ MaySend s c c.E 1 1 ∧
      c.E ≠ 0 ∧ lanesBusy s c.id c.path = false ∧ classCount c.w .acc < 63 ∧
      (s.cluster (c.w.core / 4)).comb.length + (laneAccs [(31, 0)] (found s c (byLanes s .rmw c))).length ≤ 64 ∧
      (lanesOf c.E).map (fun l => (l, (rd64 s c.w l (.v 2)).toNat)) = [(31, 0)] ∧
      ∀ x ∈ laneAccs [(31, 0)] (found s c (byLanes s .rmw c)), homeOf x.pa x.e.ms < 1024) :=
  ⟨sends_of (byLanes _ _) (·.E) 32 32 (by decide), sends_of (byLanes _ _) (·.E) 32 32 (by decide), sends_of (byLanes _ _) (·.E) 1 1 (by decide)⟩

/-- The core holds a copy of line 0, valid up to `rts`. -/
def copied (rts : Nat) (s : State) : State :=
  s.updCore 0 fun c => { c with
    pts := 5, l1 := [(0, { bad := false, wts := 3, rts := rts, data := List.replicate 128 9, pref := false, last := 0, hint := 0 })] }

theorem witness_LoadsReadOrUseCopies :
    -- no copy, and an expired one
    (∀ s ∈ [at0 id, copied 4 (at0 id)],
      ∃ c s1, Runs (go (some 1)) (.ld (go (some 1)) (.v 4) (.v 2) 0 ⟨0, 0⟩ .b128) s c ∧
        Translates s c (byLanes s .read c) (found s c (byLanes s .read c)) s1 ∧ MaySend s c c.E 32 0 ∧ c.E ≠ 0 ∧
        ∀ x ∈ laneAccs ((lanesOf c.E).map fun l => (l, (rd64 s c.w l (.v 2)).toNat)) (found s c (byLanes s .read c)),
          ∀ cp ∈ (tget (s.core c.w.core).l1 (x.pa / 128)).toList, cp.rts < (s.core c.w.core).pts) ∧
    (∃ c s1, Runs (go (some 1)) (.ldw (go (some 1)) 4 2 0 ⟨0, 0⟩ .b64) (at0 id) c ∧
      Translates (at0 id) c [(0, .read)] (found (at0 id) c [(0, .read)]) s1 ∧
      MaySend (at0 id) c (laneSet fun l => ((lanesOf c.E).take 1).contains l) 1 0 ∧ c.E ≠ 0 ∧ (c.w.wget2 2).toNat = 0) ∧
    -- a copy that is valid just now
    (let s := copied 5 (at0 id)
     ∃ c s1, Runs (go (some 1)) (.ld (go (some 1)) (.v 4) (.v 2) 0 ⟨0, 0⟩ .b128) s c ∧
       Translates s c (byLanes s .read c) (found s c (byLanes s .read c)) s1 ∧ MaySend s c c.E 32 0 ∧ c.E ≠ 0 ∧
       c.E &&& ~~~c.w.live = 0 ∧ (s.core c.w.core).pts ≤ 5 ∧ s.reps = [] ∧ s.reqs = [] ∧
       ∀ x ∈ laneAccs ((lanesOf c.E).map fun l => (l, (rd64 s c.w l (.v 2)).toNat)) (found s c (byLanes s .read c)),
         homeOf x.pa x.e.ms < 1024 ∧ laneBusy s c.id x.lane = false ∧ x.pa % 16 = 0 ∧
         ((tget (s.core c.w.core).l1 (x.pa / 128)).any fun cp => cp.wts ≤ 5 && 5 ≤ cp.rts && !cp.bad && cp.data.length == 128) = true) := by
  exact ⟨List.forall_mem_cons.2 ⟨sends_of (byLanes _ _) (·.E) 32 0 (by decide), List.forall_mem_cons.2 ⟨sends_of (byLanes _ _) (·.E) 32 0 (by decide), nofun⟩⟩,
    sends_of _ (fun c => laneSet fun l => ((lanesOf c.E).take 1).contains l) 1 0 (by decide), sends_of (byLanes _ _) (·.E) 32 0 (by decide +kernel)⟩

theorem witness_MonitoredWaitsAndCacheControl :
    (∃ c s1, Runs (go (some 1)) (.mwait (go (some 1)) (.v 6) (.v 2) 0 (.v 4) ⟨0, 0⟩ .ge .n64) (at0 id) c ∧
      Translates (at0 id) c (byLanes (at0 id) .read c) (found (at0 id) c (byLanes (at0 id) .read c)) s1 ∧
      MaySend (at0 id) c c.E 32 0 ∧ c.E ≠ 0) ∧
    (∀ i ∈ [Instr.cctlL1drop (go none) (.v 2) 0 ⟨0, 0⟩, .cctlWb (go none) (.v 2) 0 ⟨0, 0⟩],
      ∃ c s1, Runs (go none) i (at0 id) c ∧
        Translates (at0 id) c (byLanes (at0 id) .read c) (found (at0 id) c (byLanes (at0 id) .read c)) s1 ∧
        MaySend (at0 id) c c.E 32 0 ∧ c.E ≠ 0 ∧ lanesBusy (at0 id) c.id c.E = false ∧
        ∀ x ∈ found (at0 id) c (byLanes (at0 id) .read c), homeOf x.1 x.2.ms < 768 ∧ homeOffline (at0 id) (homeOf x.1 x.2.ms) = false) ∧
    (∃ c s1, Runs (go none) (.pref (go none) (.v 2) 0 ⟨3, 0⟩) (at0 id) c ∧ (roomFor (at0 id) c.w c.id 32 0 = true ∧ c.E ≠ 0) ∧
      xlatAll (.pref c.id) c.w (byLanes (at0 id) .read c) (at0 id) = (s1, (found (at0 id) c (byLanes (at0 id) .read c)).map fun x => .ok x.1 x.2)) ∧
    -- the highest lane of CCTL.use marks its line dead on its last read, or does not
    ∀ x ∈ [((0x1FF : Word), Access.rmw), (0xFF, .read)],
      ∃ c s1, Runs (go none) (.cctlUse (go none) (.v 2) 0 (.v 4) ⟨0, 2⟩) (at0 (val 4 fun _ => x.1)) c ∧
        Translates (at0 (val 4 fun _ => x.1)) c (byLanes (at0 id) x.2 c) (found (at0 (val 4 fun _ => x.1)) c (byLanes (at0 id) x.2 c)) s1 ∧
        MaySend (at0 (val 4 fun _ => x.1)) c c.E 32 32 ∧ c.E ≠ 0 ∧ lanesBusy (at0 (val 4 fun _ => x.1)) c.id c.E = false ∧
        (∀ l, l < 32 → (rd32 (at0 (val 4 fun _ => x.1)) c.w l (.v 4)).getLsbD 8 = (x.2 == .rmw)) ∧
        ∀ y ∈ found (at0 (val 4 fun _ => x.1)) c (byLanes (at0 id) x.2 c), homeOf y.1 y.2.ms < 768 ∧ homeOffline (at0 id) (homeOf y.1 y.2.ms) = false := by
  refine ⟨sends_of (byLanes _ _) (·.E) 32 0 (by decide), fun i m => ?_, prefs_of (byLanes _ _) (by decide), fun x m => ?_⟩
  · rcases List.mem_cons.1 m with rfl | m
    · exact sends_of (byLanes _ _) (·.E) 32 0 (by decide)
    rcases List.mem_cons.1 m with rfl | m
    · exact sends_of (byLanes _ _) (·.E) 32 0 (by decide)
    · cases m
  · rcases List.mem_cons.1 m with rfl | m
    · exact sends_of (byLanes _ _) (·.E) 32 32 (by decide +kernel)
    rcases List.mem_cons.1 m with rfl | m
    · exact sends_of (byLanes _ _) (·.E) 32 32 (by decide +kernel)
    · cases m

/-- A request of wave 0 for the line of address 0, at its home. -/
def req0 (k : ReqKind) (n : Nat) : Req :=
  { kind := k, core := 0, wave := 0, part := 0, gen := 0, lane := 0, flight := 9, pa := 0, va := 0, size := n, home := homeOf 0 false,
    l1 := 0, hhint := 0, token := none, orphan := false, armed := false, held := none, low := 0, agen := 0, acks := 0, got := [] }
/-- The state in which only that request is out, with a line that its home holds or not. -/
def asked (r : Req) (l : Option Line) : State :=
  { at0 id with reqs := [(7, r)], lines := (l.map fun x => (lineKey (homeOf 0 false) 0, x)).toList }

theorem witness_HomeReadsFollowTheirLease :
    ∀ k ∈ [ReqKind.read none, .read (some 0), .read (some 9), .pref true],
    ∀ l ∈ [none, some { Line.fresh with wts := 0x100000, rts := 0x100000 }, some { Line.fresh with use := 1, wts := 0x100001 },
      some { Line.fresh with use := 2, wts := 4 }],
      let s := asked (req0 k 4) l
      tget s.reqs 7 = some (req0 k 4) ∧ mayPerform s 7 (req0 k 4) = true ∧ (req0 k 4).held = none ∧ (req0 k 4).armed = false ∧
        (req0 k 4).pa < 2 ^ 52 := by decide

theorem witness_HomeWritesFollowEveryRead :
    (∀ k ∈ [ReqKind.write [1, 2, 3, 4], .atom .add .i32 1 0],
     ∀ l ∈ [none, some { Line.fresh with rts := 0x100000 }, some { Line.fresh with hostMark := true }],
      let s := asked (req0 k 4) l
      tget s.reqs 7 = some (req0 k 4) ∧ mayPerform s 7 (req0 k 4) = true ∧ (req0 k 4).held = none ∧ (req0 k 4).armed = false ∧
        overShare s (homeOf 0 false) 0 = false ∧ deadTier s 0 = false ∧
        writeWaits s (homeOf 0 false) 0 = (match l with | some x => x.hostMark | none => false)) ∧
    -- a token that has been performed before
    (let r := { req0 (.write [1, 2, 3, 4]) 4 with token := some 5 }
     let s := { asked r none with toks := [(5, { home := homeOf 0 false, result := [], t := 3 })] }
     tget s.reqs 7 = some r ∧ mayPerform s 7 r = true ∧ (tget s.toks 5).isSome) ∧
    -- a waiter's monitor on the last byte that the write touches
    (let r := req0 (.write [1, 2, 3, 4]) 4
     let e := { req0 (.mwait .ne .i32 0 1) 4 with wave := 1, armed := true }
     let s := { asked r none with reqs := [(3, e), (7, r)], monitors := [(2, { home := homeOf 0 false, pa := 3, req := 3 })] }
     tget s.reqs 7 = some r ∧ mayPerform s 7 r = true ∧ writeWaits s (homeOf 0 false) 0 = false ∧ deadTier s 0 = false ∧
       tget s.reqs 3 = some e ∧ 3 < r.pa + 4 ∧ r.pa < 3 + e.size ∧ waitHolds e 1 = true ∧ waitHolds e 0 = false) := by decide

/-- An MWAIT's read whose compare is with zero, performed before or not, and one of a peer's word. -/
def waiter (again : Bool) (home : Nat) : Req := { req0 (.mwait .eq .n32 0 3) 4 with armed := again, home := home }
/-- A request that the ceiling holds. -/
def heldReq (k : ReqKind) : Req := { req0 k 4 with held := some 0x100000 }

theorem witness_HomesServeWaitersHoldsAndFills :
    (∀ again ∈ [true, false], tget (asked (waiter again (homeOf 0 false)) none).reqs 7 = some (waiter again (homeOf 0 false)) ∧
      (waiter again (homeOf 0 false)).kind.isMwait = true ∧ mayPerform (asked (waiter again (homeOf 0 false)) none) 7 (waiter again (homeOf 0 false)) = true ∧
      watched (asked (waiter again (homeOf 0 false)) none) 7 = false ∧ homeOffline (asked (waiter again (homeOf 0 false)) none) (homeOf 0 false) = false ∧
      ((asked (waiter again (homeOf 0 false)) none).monitors.filter fun m => m.2.home == homeOf 0 false).length +
        (mwaitMates (asked (waiter again (homeOf 0 false)) none) (waiter again (homeOf 0 false))).length ≤ monitorRoom (homeOf 0 false) ∧
      (waiter again (homeOf 0 false)).held = none ∧ (waiter again (homeOf 0 false)).orphan = false ∧
      waitHolds (waiter again (homeOf 0 false)) 0 = true ∧ waitHolds (waiter again (homeOf 0 false)) 1 = false) ∧
    (tget (asked (waiter false 1024) none).reqs 7 = some (waiter false 1024) ∧ (waiter false 1024).kind.isMwait = true ∧
      1024 ≤ (waiter false 1024).home) ∧
    (∀ k ∈ [ReqKind.read none, .pref true, .read (some 3), .write [1], .atom .exch .b32 1 0],
      tget (asked (heldReq k) none).reqs 7 = some (heldReq k) ∧ (heldReq k).held = some 0x100000 ∧ 0x100000 ≤ (asked (heldReq k) none).ceil ∧
        mayPerform (asked (heldReq k) none) 7 (heldReq k) = true ∧ (heldReq k).armed = false ∧
        overShare (asked (heldReq k) none) (heldReq k).home (heldReq k).part = false) ∧
    (∀ line ∈ [0, Config.hbmEnd / 128 - 1], let r := { req0 (.read none) 4 with pa := 128 * line, home := homeOf (128 * line) true }
      let s := { State.reset with reqs := [(7, r)] }
      r.home < 796 ∧ (∃ e ∈ s.reqs, e.2.home = r.home ∧ e.2.pa / 128 = line) ∧ homeOffline s r.home = false ∧ tget s.lines (lineKey r.home (128 * line)) = none) ∧
    ∀ line ∈ [0, 2 ^ 52 / 128 - 1], homeOf (128 * line) false < 796 ∧ homeOffline State.reset (homeOf (128 * line) false) = false ∧
      tget State.reset.lines (lineKey (homeOf (128 * line) false) (128 * line)) = none := by decide

/-- An instruction of wave 0 that waits for the lanes of `left`. -/
def flight0 (left : LaneSet) (dest : DestKind) (d : DReg) : Flight :=
  { wave := 0, sb := some 1, regs := [4], left := left, dest := dest, d := d, pd := 7, cur := none, pc := 0, first := 0, lanes := left,
    vals := List.replicate 64 0 }
/-- A reply to a request. -/
def rep0 (r : Req) (ws : List Word) : Reply :=
  { req := r, words := ws, t := 6, wts := 2, rts := 9, line := List.replicate 128 0, status := 0, poisoned := false }
/-- The reply is on its way to a wave in some wait. -/
def replied (r : Reply) (f : Flight) (b : Blocked) : State :=
  { at0 (fun w => { w with blocked := b }) with reps := [(8, r)], flights := [(9, f)], tokens := [(5, { cluster := 0, wave := some 0, consumed := false })] }

theorem witness_RepliesReachTheirWaves :
    (∀ x ∈ [(ReqKind.read none, (1 : LaneSet), DestKind.words 1, Blocked.none), (.read none, 3, .ext true 8, .none), (.cctl, 1, .none, .none),
        (.mwait .eq .i32 0 3, 7, .words 1, .mwait 9), (.write [1], 1, .none, .none), (.atom .add .i32 0 0, 3, .words 1, .none)],
      let s := replied (rep0 (req0 x.1 4) [0x80]) (flight0 x.2.1 x.2.2.1 (.v 4)) x.2.2.2
      liveReq s (req0 x.1 4) = true ∧ (req0 x.1 4).agen = (s.die (coreDie (req0 x.1 4).core)).gen ∧ (tget s.waves 0).isSome ∧
        (req0 x.1 4).lanes ≠ 0 ∧ (rep0 (req0 x.1 4) [0x80]).poisoned = false ∧ (s.wave 0).iss.runPc.isSome ∧ tget s.flights 8 = none) ∧
    (∀ r f b, tget (replied r f b).reps 8 = some r ∧ tget (replied r f b).flights 9 = some f) ∧
    -- an older tag, an older generation of the die, and no wave
    (let s := replied (rep0 { req0 (.read none) 4 with gen := 255 } []) (flight0 1 (.words 1) (.v 4)) .none
     liveReq s { req0 (.read none) 4 with gen := 255 } = false) ∧
    (let s := replied (rep0 { req0 (.read none) 4 with agen := 255 } []) (flight0 1 (.words 1) (.v 4)) .none
     (255 : Nat) ≠ (s.die (coreDie 0)).gen) ∧
    (let s := replied (rep0 { req0 (.read none) 4 with wave := 1 } []) (flight0 1 (.words 1) (.v 4)) .none
     tget s.waves 1 = none) ∧
    -- kept results, of a lane that has exited meanwhile too
    (let s := { at0 (fun w => { w with exited := 2 }) with flights := [(9, flight0 3 (.kept 2) (.v 4))] }
     tget s.flights 9 = some (flight0 3 (.kept 2) (.v 4)) ∧ (flight0 3 (.kept 2) (.v 4)).vals.length = 32 * 2 ∧
       (flight0 3 (.kept 2) (.v 4)).wave = 0 ∧ tget s.waves 0 = some (s.wave 0)) ∧
    -- a return address, and poisoned data
    (let s := replied (rep0 (req0 (.read none) 8) [12, 0]) (flight0 1 .ret .zero) .none
     liveReq s (req0 (.read none) 8) = true ∧ (flight0 1 .ret .zero).vals.length = 64) ∧
    (let r := { rep0 (req0 (.read none) 4) [0] with poisoned := true }
     let s := replied r (flight0 1 (.words 1) (.v 4)) .none
     r.poisoned = true ∧ liveReq s r.req = true ∧ (tget s.teams (s.wave 0).team).isSome ∧ (tget s.parts (s.gang (s.team (s.wave 0).team).gang).part).isSome) ∧
    -- a token whose reply is consumed
    (let s := { State.reset with tokens := [(0xFFFFFFFF, { cluster := 127, wave := none, consumed := true })] }
     ∃ x, tget s.tokens (BitVec.toNat (0xFFFFFFFF : BitVec 32)) = some x ∧ x.consumed = true ∧ s.reqs = []) ∧
    -- a peer's answers to an access of sixteen bytes, and a peer that cannot be reached
    (∀ x ∈ [(0, ([] : List Byte)), (1, [9, 9, 9, 9, 9, 9, 9, 9])], let r := { req0 (.read none) 16 with home := 1279, acks := x.1, got := x.2 }
     let s := { asked r none with parts := [(0, { Part.fresh with peers := [(255, 0x8000000000000000)] })] }
     tget s.reqs 7 = some r ∧ 1024 ≤ r.home ∧ r.kind.isMwait = false ∧ tget s.hops r.wave = none ∧ r.core ≠ xdCore ∧
       tget (s.part r.part).peers (r.home - 1024) = some 0x8000000000000000 ∧ (0x8000000000000000 : BitVec 128).getLsbD (48 + 15) = true ∧
       15 ∉ s.ctrl.retPort ∧ earlierReq s 7 r = false ∧ ([1, 2, 3, 4, 5, 6, 7, 8] : List Byte).length = min 8 r.size ∧
       (8 * (r.acks + 1) < r.size ↔ x.1 = 0)) ∧
    (let r := { req0 (.read none) 4 with home := 1024, orphan := true }
     tget (asked r none).reqs 7 = some r ∧ tget (asked r none).hops r.flight = none ∧ r.core ≠ xdCore) ∧
    -- a home of a die under reset, with a request that it holds and one that it does not
    (∀ h ∈ [none, some 5], let r := { req0 (.read none) 4 with held := h }
     let s := { asked r none with dies := [(0, { Die.fresh with st := .reset 3 })] }
     homeOffline s r.home = true ∧ r.holds = h.isSome ∧ watched s 7 = false ∧ liveReq s r = true ∧ r.agen = (s.die (coreDie r.core)).gen ∧
       r.kind.isPref = false ∧ (tget s.waves 0).isSome ∧ (s.wave 0).susp = .none) := by
  refine ⟨by decide, fun _ _ _ => ⟨rfl, rfl⟩, by decide, by decide, by decide, by decide, by decide, by decide, ⟨_, rfl, by decide, rfl⟩, by decide, by decide, by decide⟩

/-- Accumulate groups, and cluster 0 with an entry in each of its tables. -/
def key0 (part : Nat) : AccKey := { part := part, line := 0, aop := .add, ty := .i32 }
def comb0 (born : Nat) (due : Bool) : CombEnt :=
  { key := key0 0, home := homeOf 0 false, hint := 1, words := [{ off := 0, val := 1, carried := false, due := false }], born := born, pts := 0, due := due,
    waits := [(0, 3)], flush := [] }
def res0 (part refusals : Nat) (due : Bool) (flying : Option DWord) : ResEnt :=
  { key := key0 part, home := homeOf 0 false, off := 4, val := 2, refusals := refusals, born := 0, flying := flying, mixed := false, pts := 0, due := due,
    again := false, waits := [] }
def atCluster (comb : Tbl CombEnt) (resid : Tbl ResEnt) (cycle : Nat := 0) : State :=
  { at0 id with clusters := [(0, { Cluster.fresh with comb := comb, resid := resid })], cycle := cycle }

theorem witness_AccumulatesBecomeDueAndAreSent :
    (∃ c, Runs (go none) (.flushres (go none)) (atCluster [(3, comb0 0 false)] [(5, res0 0 0 false none)]) c ∧ c.E ≠ 0 ∧
      lanesBusy (atCluster [(3, comb0 0 false)] [(5, res0 0 0 false none)]) c.id c.path = false ∧ classCount c.w .acc < 63) ∧
    -- no entry of the partition is left to deliver
    (∃ c, Runs (go none) (.flushres (go none)) (atCluster [] [(5, res0 1 0 false none)]) c ∧ c.E ≠ 0 ∧
      lanesBusy (atCluster [] [(5, res0 1 0 false none)]) c.id c.path = false ∧ classCount c.w .acc < 63 ∧ (at0 id).partNo c.w = 0 ∧
      opHeld (atCluster [] [(5, res0 1 0 false none)]) (at0 id).nextId = false) ∧
    -- ages at their bounds
    (let s := atCluster [(3, comb0 0 false)] [(5, res0 0 0 false none)] 4096
     (tget (s.cluster 0).comb 3).isSome ∧ (comb0 (4096 - 64) false).born + 64 ≤ s.cycle ∧ (tget (s.cluster 0).resid 5).isSome ∧
       (res0 0 0 false none).born + 4096 ≤ s.cycle) ∧
    (∃ c, Runs goP (.flushres goP) (at0 id) c ∧ c.E = 0) ∧
    -- due entries that may be sent, after the third refusal and before: the residual group first
    ∀ n ∈ [2, 3], (let s := atCluster [(3, comb0 0 true)] [(5, res0 0 n false none)]
      tget (s.cluster 0).comb 3 = some (comb0 0 true) ∧ (comb0 0 true).due = true ∧
        maySend s 0 (homeOf 0 false) (foldAll (s.cluster 0) (key0 0) (comb0 0 true).words).length = true ∧
        (∀ x ∈ (s.cluster 0).resid, x.2.due = true → x.2.flying ≠ none) ∧ maySendNow s 0 = true ∧ (tget s.parts 0).isSome ∧
        ((comb0 0 true).words.map (·.off)).Nodup ∧
        (((s.cluster 0).resid.filter fun e => e.2.key == key0 0 && e.2.flying.isNone).map (·.2.off)).Nodup) ∧
      let s := atCluster [(3, comb0 0 true)] [(5, res0 0 n true none)]
      tget (s.cluster 0).resid 5 = some (res0 0 n true none) ∧ sendNext (s.cluster 0) (key0 0) = true ∧ maySendNow s 0 = true :=
  ⟨runs_of (by decide), runs_of (by decide), by decide, runs_of (by decide), by decide⟩

/-- An accumulate request of cluster 0 for the line of address 0. -/
def areq0 (must : Bool) (stage off : Nat) : AccReq :=
  { cluster := 0, agen := 0, key := key0 0, words := [{ off := off, val := 1, carried := true, due := false }], hint := 0, must := must, pts := 0,
    home := homeOf 0 false, deliver := false, waits := [], flush := [], stage := stage, t := 0, token := 5 }
/-- The request at its home, in a queue of it, with a line that has had some requests in this window. -/
def accAt (r : AccReq) (count : Nat) (unitQ mustQ : List Nat) : State :=
  { at0 id with
    areqs := [(7, r)], lines := [(lineKey (homeOf 0 false) 0, { Line.fresh with count := count })]
    unitQ := [(homeOf 0 false, unitQ)], mustQ := [(128 * homeOf 0 false, mustQ)], tokens := [(5, { cluster := 0, wave := none, consumed := false })] }

theorem witness_HomesPerformAccumulates :
    -- the last request that the quota admits, and the first that it refuses; with the must-accept mark
    (∀ must ∈ [true, false], ∀ n ∈ [7, 8], let s := accAt (areq0 must 0 0) n [] []
      tget s.areqs 7 = some (areq0 must 0 0) ∧ homeOffline s (homeOf 0 false) = false ∧ (s.part 0).regs.accQuota = 8 ∧
        s.cycle / 32 ≤ (s.part 0).regs.quotaWin ∧ overShare s (homeOf 0 false) 0 = false ∧ (unitQueue s (homeOf 0 false)).length < 32) ∧
    (let s := accAt (areq0 false 1 124) 0 [7, 9] []
     unitQueue s (homeOf 0 false) = 7 :: [9] ∧ (∀ e ∈ s.mustQ, e.1 / 128 = homeOf 0 false → e.2 = []) ∧
       writeWaits s (homeOf 0 false) 0 = false ∧ deadTier s 0 = false ∧ (124 % 4 = 0 ∧ 124 + 4 ≤ 128) ∧ 1 ≤ s.ceil) ∧
    (let s := accAt (areq0 true 1 0) 0 [] [7]
     mustQueue s (homeOf 0 false) 0 = 7 :: [] ∧ writeWaits s (homeOf 0 false) 0 = false ∧ deadTier s 0 = false) := by decide

/-- The request's answer is on its way to its cluster, which holds an entry for its word or none. -/
def answered (stage : Nat) (resid : Tbl ResEnt) : State :=
  { accAt (areq0 false stage 4) 0 [] [] with clusters := [(0, { Cluster.fresh with resid := resid })] }

theorem witness_ClustersTakeTheAnswers :
    (let s := answered 2 [(5, res0 0 1 false (some 9)), (6, res0 1 0 false none)]
     tget s.areqs 7 = some (areq0 false 2 4) ∧ ((areq0 false 2 4).words.map (·.off)).Nodup ∧
       tget (s.cluster 0).resid 5 = some (res0 0 1 false (some 9)) ∧ tget (s.cluster 0).resid 6 = some (res0 1 0 false none) ∧
       (∀ x ∈ (s.cluster 0).resid, x.2.key = key0 0 → x.2.off = 4 → x.1 = 5) ∧ (areq0 false 2 4).agen = (s.die (clusterDie 0)).gen ∧ (res0 1 0 false none).key ≠ key0 0) ∧
    (∀ resid ∈ [[], [(5, res0 0 2 false (some 9))], [(5, res0 0 3 false (some 9))]], let s := answered 3 resid
      tget s.areqs 7 = some (areq0 false 3 4) ∧ (areq0 false 3 4).agen = (s.die (clusterDie 0)).gen ∧ (s.cluster 0).resid.length < 3072 ∧
        (tget s.parts 0).isSome) ∧
    -- an older generation of the die
    ∀ stage ∈ [2, 3], let r := { areq0 false stage 4 with agen := 1 }
      let s := accAt r 0 [] []
      tget s.areqs 7 = some r ∧ r.agen ≠ (s.die (clusterDie 0)).gen := by decide

/-- A handle in a state, and a team with 4 handles of which it is number 3. -/
def handle (st : HState) (releases : Nat) : Handle := { st := st, readers := 2, releases := releases, status := 0, t := 4, op := 1 }
def withHandle (st : HState) (releases : Nat) (f : Wave → Wave := id) : State :=
  atTeam f (fun t => { t with handles := [(3, handle st releases)] }) fun g => { g with handles := 4 }
/-- An operation of wave 0 in a class. -/
def aop (n : Nat) (done : Bool) : AOp := { id := n, cls := .copy, touch := { loc := true, glob := true, grph := false }, done := done, t := 0, pc := 0, lanes := 1, names := [] }

theorem witness_WaitsAndHandles :
    (∀ i ∈ [Instr.fence (go none) .wave ⟨false, false, false, true⟩, .fence (go none) .team ⟨false, false, true, false⟩,
        .fence (go none) .gang ⟨true, false, false, false⟩, .fence (go none) .partition ⟨false, true, false, false⟩,
        .waitc (go none) .copy 1, .waitc (go none) .copy 2, .waitc (go none) .gather 0, .nap (go none) 0, .nap (go none) 0xFFF],
      ∃ c, Runs (go none) i (at0 fun w => { w with ops := [aop 1 true, aop 2 false] }) c ∧ c.E ≠ 0 ∧
        (c.w.ops.filter fun o => o.cls == .copy).length = 2) ∧
    (∀ st ∈ [HState.free, .filling, .full, .draining],
     ∀ i ∈ [Instr.hwaitFull (go (some 0)) (.v 4) 3, .hwaitFree (go (some 0)) 3, .hrel (go (some 0)) 3],
      ∃ c, Runs (go (some 0)) i (withHandle st 0) c ∧ c.E ≠ 0 ∧ c.E &&& ~~~c.w.live = 0 ∧
        3 < ((withHandle st 0).gridOf c.w).handles ∧ (handleOf ((withHandle st 0).teamOf c.w) 3).st = st ∧
        (tget (withHandle st 0).teams c.w.team).isSome) ∧
    -- the last reader's release, and a number that the grid does not have
    (∃ c, Runs (go none) (.hrel (go none) 3) (withHandle .draining 1) c ∧ (handleOf ((withHandle .draining 1).teamOf c.w) 3).readers ≤ 2 ∧
      (handleOf ((withHandle .draining 1).teamOf c.w) 3).releases = 1) ∧
    (∀ i ∈ [Instr.hwaitFull (go none) .zero 4, .hwaitFree (go none) 4, .hrel (go none) 4],
      ∃ c, Runs (go none) i (withHandle .full 0) c ∧ c.E ≠ 0 ∧ ((withHandle .full 0).gridOf c.w).handles ≤ 4) ∧
    (let s := { at0 (fun w => { w with blocked := .nap 16 }) with cycle := 16 }
     (s.wave 0).blocked = .nap 16 ∧ (s.wave 0).susp = .none ∧ (s.teamOf (s.wave 0)).life = .resident ∧ (s.wave 0).iss.runPc = some 0 ∧
       (s.wave 0).iss.blockedAt + 16 ≤ s.cycle) :=
  ⟨all_run (by decide), List.forall_mem_cons.2 ⟨all_run (by decide), List.forall_mem_cons.2 ⟨all_run (by decide),
    List.forall_mem_cons.2 ⟨all_run (by decide), List.forall_mem_cons.2 ⟨all_run (by decide), nofun⟩⟩⟩⟩,
   runs_of (by decide), all_run (by decide), by decide⟩

/-- A second wave of the team and gang, of stage 1, that waits at barrier n; and phases of the barriers. -/
def twoWaves (ph : Phase) (b : Blocked) : State :=
  let s := atTeam id (fun t => { t with bars := [(15, ph)], reserve := 3 })
  { s with waves := tput s.waves 1 { Wave.fresh with idx := 1, stage := 1, blocked := b }, gangs := tput s.gangs 0 { s.gang 0 with gbars := [(3, ph)] } }
def phase (stages : Option Nat) (arrived : List Nat) : Phase := { stages := stages, arrived := arrived, pts := 0, carried := [], roller := false, fmts := [] }

/-- A BAR and a GBAR of both stages run in a phase. -/
def barsRun (ph : Phase) : Prop :=
  (∃ c, RunsGathered (go none) (.bar (go none) 15 3 false) (twoWaves ph (.bar 15 false 3 false)) c ∧ c.E ≠ 0 ∧ c.w.stage = 0 ∧
    lanesBusy (twoWaves ph (.bar 15 false 3 false)) c.id c.path = false ∧ (tget (twoWaves ph (.bar 15 false 3 false)).teams c.w.team).isSome ∧
    getPhase (twoWaves ph (.bar 15 false 3 false)) (.team c.w.team 15) = ph) ∧
  ∃ c, RunsGathered (go none) (.gbar (go none) 3 3 true) (twoWaves ph (.gbar 3 false 3 false)) c ∧ c.E ≠ 0 ∧
    lanesBusy (twoWaves ph (.gbar 3 false 3 false)) c.id c.path = false ∧
    (tget (twoWaves ph (.gbar 3 false 3 false)).gangs ((twoWaves ph (.gbar 3 false 3 false)).teamOf c.w).gang).isSome ∧
    getPhase (twoWaves ph (.gbar 3 false 3 false)) (.gang ((twoWaves ph (.gbar 3 false 3 false)).teamOf c.w).gang 3) = ph

/-- The first arrival, the last, a second one in the phase, one with another mask, and one without its stage. -/
theorem witness_BarriersAndRegisterReserves_barriers :
    (barsRun Phase.fresh ∧ barsRun (phase (some 3) [1]) ∧ barsRun (phase (some 3) [0]) ∧ barsRun (phase (some 1) [])) ∧
    ∃ c, RunsGathered (go none) (.bar (go none) 15 2 false) (twoWaves Phase.fresh .none) c ∧ c.E ≠ 0 ∧ lanesBusy (twoWaves Phase.fresh .none) c.id c.path = false ∧
      (2 : Nat).testBit c.w.stage = false :=
  ⟨⟨⟨gathered_of rfl (by decide), gathered_of rfl (by decide)⟩, ⟨gathered_of rfl (by decide), gathered_of rfl (by decide)⟩,
    ⟨gathered_of rfl (by decide), gathered_of rfl (by decide)⟩, ⟨gathered_of rfl (by decide), gathered_of rfl (by decide)⟩⟩,
   gathered_of rfl (by decide)⟩

/-- CLAIM of what the reserve holds, of one more, and past 32 blocks; RELEASE of all blocks but one, of all, and of one with a
pending register. -/
theorem witness_BarriersAndRegisterReserves :
    (∃ c, RunsGathered (go none) (.claim (go none) 3) (atTeam (fun w => { w with blocks := 29 }) fun t => { t with reserve := 3 }) c ∧
      c.E ≠ 0 ∧ c.w.blocks + 3 ≤ 32 ∧ (tget (atTeam (fun w => { w with blocks := 29 }) fun t => { t with reserve := 3 }).teams c.w.team).isSome) ∧
    (∃ c, RunsGathered (go none) (.claim (go none) 4) (atTeam (fun w => { w with blocks := 28 }) fun t => { t with reserve := 3 }) c ∧
      c.E ≠ 0 ∧ c.w.blocks + 4 ≤ 32) ∧
    (∃ c, RunsGathered (go none) (.claim (go none) 1) (at0 id) c ∧ c.E ≠ 0 ∧ 32 < c.w.blocks + 1) ∧
    (∃ c, RunsGathered (go none) (.release (go none) 31) (at0 id) c ∧ c.E ≠ 0 ∧ 31 + 1 ≤ c.w.blocks ∧ c.w.pend = [] ∧
      (tget (at0 id).teams c.w.team).isSome) ∧
    (∃ c, RunsGathered (go none) (.release (go none) 1) (at0 fun w => { w with blocks := 1 }) c ∧ c.E ≠ 0 ∧ c.w.blocks < 1 + 1 ∧ (tget (at0 id).teams c.w.team).isSome) ∧
    ∃ c, RunsGathered (go none) (.release (go none) 31) (at0 fun w => { w with pend := [8] }) c ∧ c.E ≠ 0 ∧
      (c.w.pend.find? fun r => r < 256 && 8 * (c.w.blocks - 31) ≤ r) = some 8 :=
  ⟨gathered_of rfl (by decide), gathered_of rfl (by decide), gathered_of rfl (by decide), gathered_of rfl (by decide),
    gathered_of rfl (by decide), gathered_of rfl (by decide)⟩

/-- Graph 5 of partition 0: vertices 0, 1 and 2 allocated, one edge from 0 to 1, vertex 3 free. -/
def edge0 (o : Nat) : Edge := { key := 1, other := o, flags := 0, pay := 7, birth := 1, death := none, eid := 1 }
def list0 (es : List Edge) : EList := { wts := 1, rts := 1, recs := es }
def vert0 (o i : List Edge) : Vertex :=
  { Vertex.fresh with alloc := true, hist := [(1, true)], out := list0 o, inn := list0 i }
def graph0 : Graph :=
  { vcap := 4, psize := 16, eps := true, base := 0x100000, size := 0x30000, pasid := 0, segs := [{ off := 0, pa := 0x100000, len := 0x30000, code := 0 }],
    t := 0, awts := 0, arts := 0, h := 0, maxT := 1, verts := [(0, vert0 [edge0 1] []), (1, vert0 [] [edge0 0]), (2, vert0 [] [])] }
/-- A graph operation of lane 0 of wave 0 is at its engine. -/
def greq (op : GOp) (tok : Option Nat) : Req :=
  { kind := .graph 5 op, core := 0, wave := 0, part := 0, gen := 0, lane := 0, flight := 9, pa := 0, va := 0, size := 0, home := graph0.owner (some 0),
    l1 := 0, hhint := 0, token := tok, orphan := false, armed := false, held := none, low := 1, agen := 0, acks := 0, got := [] }
def lathState (r : Req) (f : Wave → Wave := id) : State :=
  { atTeam f id id fun p => { p with graphs := [(5, graph0)] } with reqs := [(7, r)] }

theorem graph0_wts (v : Nat) (d : Dir) : (graph0.list v d).wts ≤ 1 := by
  cases d <;> (match v with
    | 0 | 1 | 2 => decide
    | n + 3 => simp [graph0, Graph.list, Graph.vtx, tget, Vertex.fresh, EList.fresh])

theorem witness_GraphInstructionsSendOperations : ∀ i ∈
    [Instr.gnewv (go (some 0)) 6 (.v 4) (.imm 5) (.v 1), .gfreev (go (some 0)) 7 .zero (.w 3) (.v 1), .gadd (go (some 0)) 0 (.v 4) (.imm 5) (.v 1) (.v 2) (some (.v 8)),
     .gdel (go (some 0)) 0 (.v 4) (.imm 5) (.v 1) (.v 2) .inn true, .gswap (go (some 0)) 0 (.v 4) (.imm 5) (.v 1) (.v 2) (.v 3) .out,
     .gswapShared (go (some 0)) 0 (.v 4) (.imm 0xFFFF) (.v 1) (.v 2) (.v 3) .out, .glde (go (some 0)) 0 (.v 4) (.imm 5) (.v 1) (.v 2) .out,
     .gdeg (go (some 0)) 0 (.v 4) (.imm 5) (.v 1) .out, .gldv (go (some 0)) 0 (.v 8) (.imm 5) (.v 1) true 30, .gstv (go (some 0)) 0 (.v 4) (.imm 5) (.v 1) (.v 8) true 0,
     .gopen (go (some 0)) 0 (.v 4) (.imm 5) (.v 1) .out 3, .gnext (go (some 0)) 0 (.v 4) 0, .gseek (go (some 0)) 0 (.v 4) (.v 1) 3],
    ∃ c, Runs (go (some 0)) i (lathState (greq (.deg 0 .out) none)) c ∧ c.E ≠ 0 ∧ peerBusy (lathState (greq (.deg 0 .out) none)) c.id c.E = false ∧
      roomFor (lathState (greq (.deg 0 .out) none)) c.w c.id 32 32 = true := all_run (by decide)

theorem witness_EnginesMutateGraphs :
    (∀ op ∈ [GOp.newv 3, .newv 0, .freev 2, .freev 0, .add 0 0 (some 7), .add 2 1 none, .add 0 3 none, .add 4 0 none, .del 0 0 .out false, .del 0 1 .out false,
        .del 0 1 .out true, .del 0 2 .out true, .swap 0 0 2 .out true, .swap 0 0 2 .out false, .stv 2 true 0 0xFF, .stv 2 false 1 0xFF], ∀ tok ∈ [none, some 5],
      let s := lathState (greq op tok)
      tget s.reqs 7 = some (greq op tok) ∧ (greq op tok).held = none ∧ earlierReq s 7 (greq op tok) = false ∧
        offlineOwners s (greq op tok) 5 op = [] ∧ tget (s.part 0).graphs 5 = some graph0 ∧ s.toks = [] ∧
        graph0.t ≤ max (s.core 0).pts 1 ∧ max (s.core 0).pts 1 ≤ s.ceil) ∧
    (∀ v d, (graph0.list v d).wts ≤ (lathState (greq (.newv 0) none)).ceil) ∧
    (graph0.vtx 3).alloc = false ∧ (∀ k, k < 3 → (graph0.vtx k).alloc = true) ∧ (graph0.list 2 .out).degree = 0 ∧ (graph0.list 2 .inn).degree = 0 ∧
      (graph0.list 0 .out).degree = 1 ∧ (graph0.list 1 .inn).degree = 1 ∧ (graph0.list 0 .out).now[0]? = some (edge0 1) ∧
      (∀ e ∈ (graph0.list 0 .out).recs, e.key ≤ 2) ∧ ((graph0.list 0 .out).recs.map (·.eid)).Nodup ∧
      (((graph0.list 0 .out).now).map (·.key)).Nodup ∧ 8 * 0 + 16 ≤ graph0.psize ∧ 8 * 1 + 8 ≤ graph0.psize ∧
      (graph0.list 0 .out).now = [edge0 1] ∧ (edge0 1).other = 1 ∧ graph0.used + 2 ≤ graph0.pages ∧ twf graph0.verts = true ∧ graph0.awts ≤ 1 :=
  ⟨by decide, fun v d => Nat.le_trans (graph0_wts v d) (by decide), by decide, by decide, by decide, by decide, by decide, by decide, rfl,
    by decide, by decide, by decide, by decide, by decide, rfl, rfl, by decide, by decide, by decide⟩

/-- Cursor k3 of lane 0 on the list of vertex 0, before its one edge or behind it. -/
def cursor0 (pos : Nat) : Cursor := { snap := 1, vtx := 0, pos := pos, sdeg := 1, gid := 5, dir := .out, slot := 2 }

theorem witness_EnginesReadGraphs :
    (∀ op ∈ [GOp.lde 0 0 .out, .lde 0 1 .out, .deg 1 .inn, .ldv 2 false 1, .ldv 2 true 0, .opn 0 .out 0, .opn 3 .inn 2, .opn 0 .out 3, .opn 4 .out 0,
        .lde 3 0 .out, .deg 4 .inn, .ldv 3 true 0],
      let s := lathState (greq op none) fun w => { w with cur := [(3, cursor0 0)] }
      tget s.reqs 7 = some (greq op none) ∧ (greq op none).held = none ∧ earlierReq s 7 (greq op none) = false ∧
        offlineOwners s (greq op none) 5 op = [] ∧ tget (s.part 0).graphs 5 = some graph0 ∧ graph0.t ≤ max (s.core 0).pts 1 ∧
        max (s.core 0).pts 1 ≤ s.ceil ∧ (tget s.waves 0).isSome ∧ tget (s.wave 0).cur (4 * 0 + 2) = none ∧ (s.part 0).snaps.length < 16384) ∧
    (∀ op ∈ [GOp.next 3, .seek 3 0, .seek 3 1], ∀ pos ∈ [0, 1],
      let s := lathState (greq op none) fun w => { w with cur := [(3, cursor0 pos)] }
      tget s.reqs 7 = some (greq op none) ∧ earlierReq s 7 (greq op none) = false ∧ offlineOwners s (greq op none) 5 op = [] ∧
        tget (s.wave 0).cur (4 * 0 + 3) = some (cursor0 pos) ∧ tget (s.part 0).graphs (cursor0 pos).gid = some graph0) ∧
    (∀ v d, (graph0.list v d).wts ≤ (lathState (greq (.deg 0 .out) none)).ceil) ∧
    (let s := { at0 id with reqs := [(7, greq (.deg 0 .out) none)] }
     tget s.reqs 7 = some (greq (.deg 0 .out) none) ∧ earlierReq s 7 (greq (.deg 0 .out) none) = false ∧
       offlineOwners s (greq (.deg 0 .out) none) 5 (.deg 0 .out) = [] ∧ tget (s.part 0).graphs 5 = none) :=
  ⟨by decide, by decide, fun v d => Nat.le_trans (graph0_wts v d) (by decide), by decide⟩

/-- A page table of PASID 0 whose leaf maps the first GiB to itself, for ordinary accesses or for graphs. -/
def paged (gb : Bool) (s : State) : State :=
  let s := s.updPart 0 fun p => { p with regs := { p.regs with pasidTab := 0x1021 } }
  ((s.wr 0x1000 (natBytes 0x20001 8)).wr 0x20000 (natBytes 0x30001 8)).wr 0x30000 (natBytes (0x3B + if gb then 2 ^ 56 else 0) 8)
/-- A graph descriptor: three pages of 64 KiB at 0x100000, four vertices of sixteen bytes with edge payloads, gid 6. -/
def desc0 : Nat := 0x100000 + 2 ^ 64 * 0x30000 + 2 ^ 128 * 4 + 2 ^ 168 * 2 + 2 ^ 171 + 2 ^ 176 * 6
/-- GNEWG of lane 0 on a descriptor at address 0. -/
def gnewgState (gb : Bool) : State :=
  paged gb (atTeam (p0 1) id id fun p => { p with graphs := [(5, { graph0 with segs := [{ off := 0, pa := 0x400000, len := 0x30000, code := 0 }] })] })
/-- The descriptor has come, and its lane's request is at the engines. -/
def descFlight (x : Nat) : Flight := { flight0 2 .desc (.v 4) with vals := (List.range 256).map fun k => BitVec.ofNat 32 (x / 2 ^ (32 * k)) }
def newgReq : Req := { greq (.newg 0) none with kind := .graph 0 (.newg 0), home := 800 }
def newgState (x : Nat) (gb : Bool) : State := { gnewgState gb with reqs := [(7, newgReq)], flights := [(9, descFlight x)] }
def seg0 : RegSeg := { off := 0, pa := 0x100000, len := 0x30000, code := 2 }
theorem newgState_has (x : Nat) (gb : Bool) : tget (newgState x gb).reqs 7 = some newgReq ∧ tget (newgState x gb).flights 9 = some (descFlight x) ∧
    (descFlight x).left.getLsbD 0 = false := by
  refine ⟨?_, ?_, ?_⟩ <;> simp [newgState, tget, descFlight, flight0]

theorem regionSegs_is {s : State} {o : Option (List RegSeg)} (h : (regionSegs 0 0 0x100000 (0x30000 / 65536) 0 [] s).2 = o) :
    ∃ u, regionSegs 0 0 0x100000 (0x30000 / 65536) 0 [] s = (u, o) := ⟨_, Prod.ext rfl h⟩

/-- GNEWG on descriptors that are valid, malformed, of a graph that is live, and of pages that are not fit. -/
theorem witness_GraphResultsReturn_gnewg :
    (∃ c s1, Runs goP (.gnewg goP 7 (.v 4) (.v 2)) (gnewgState true) c ∧
      Translates (gnewgState true) c [(0, .read)] (found (gnewgState true) c [(0, .read)]) s1 ∧
      MaySend (gnewgState true) c c.E 2 1 ∧ c.E = 1 <<< 0 ∧ (rd64 (gnewgState true) c.w 0 (.v 2)).toNat = 0 ∧
      tget ((gnewgState true).core c.w.core).l1 0 = none) ∧
    (∀ x gb, tget (newgState x gb).reqs 7 = some newgReq ∧ tget (newgState x gb).flights 9 = some (descFlight x) ∧ (descFlight x).left.getLsbD 0 = false) ∧
    (let s := newgState desc0 true
     earlierReq s 7 newgReq = false ∧ offlineOwners s newgReq 0 (.newg 0) = [] ∧ (tget s.parts 0).isSome ∧ descOfLane (descFlight desc0) 0 = desc0 ∧
       max (max (s.core 0).pts 1) ((tget (s.part 0).gtab 6).getD 0 + 1) ≤ s.ceil ∧ tget (s.part 0).graphs 6 = none ∧
       (∀ g ∈ (s.part 0).graphs, segsMeet g.2.segs [seg0] = false) ∧ (tget (s.part 0).graphs 5).isSome ∧ tget (s.part 0).graphs 1 = none) ∧
    badDesc desc0 = false ∧ desc0 / 2 ^ 176 % 2 ^ 16 = 6 ∧ badDesc (desc0 + 2 ^ 255) = true ∧ (desc0 - 2 ^ 176) / 2 ^ 176 % 2 ^ 16 = 5 ∧
    (desc0 - 6 * 2 ^ 176) / 2 ^ 176 % 2 ^ 16 = 0 ∧ badDesc (desc0 - 2 ^ 176) = false ∧
    (∃ u, regionSegs 0 0 0x100000 (0x30000 / 65536) 0 [] (newgState desc0 true) = (u, some [seg0])) ∧
    (∃ u, regionSegs 0 0 0x100000 (0x30000 / 65536) 0 [] (newgState desc0 false) = (u, none)) := by
  refine ⟨sends_of (fun _ => [(0, .read)]) (·.E) 2 1 (by decide +kernel), newgState_has, by decide +kernel, by decide +kernel,
    by decide +kernel, by decide +kernel, by decide +kernel, by decide +kernel, by decide +kernel, regionSegs_is (by decide +kernel), regionSegs_is (by decide +kernel)⟩

theorem witness_GraphResultsReturn :
    (∀ r f b, tget (replied r f b).reps 8 = some r ∧ tget (replied r f b).flights 9 = some f) ∧
    (∀ x ∈ [(GOp.opn 0 .out 3, (1 : LaneSet)), (.next 3, 3), (.seek 3 4, 1), (.deg 0 .out, 0x80000001), (.close 3, 1)],
      let s := replied (rep0 (greq x.1 none) [0, 1, 1, 0, 2]) (flight0 x.2 .graphRes (.v 4)) .none
      x.1.isNewg = false ∧ liveReq s (greq x.1 none) = true ∧ (greq x.1 none).agen = (s.die (coreDie 0)).gen ∧ (tget s.waves 0).isSome ∧
        (s.wave 0).live.getLsbD 0 = true ∧ (flight0 x.2 .graphRes (.v 4)).vals.length = 64) ∧
    -- the answers of two lanes' GNEWGs
    (let f := { flight0 0 .desc (.v 4) with lanes := 0x80000001 }
     let rs : Tbl Reply := [(8, rep0 newgReq [0, 6]), (11, rep0 { newgReq with lane := 31 } [7, 0])]
     let s := { at0 id with flights := [(9, f)], reps := rs }
     tget s.flights 9 = some f ∧ f.left = 0 ∧ tget s.waves f.wave = some (s.wave 0) ∧ (s.reps.filter fun e => e.2.req.flight == 9 && accepted s e.2.req) = rs ∧
       (rs.map fun e => e.2.req.lane).Nodup ∧ (∀ e ∈ rs, e.2.req.wave = f.wave ∧ e.2.req.lane < 32 ∧ e.2.words.length = 2) ∧ s.reqs = []) ∧
    (∃ c, Runs (go (some 0)) (.gclose (go (some 0)) 6 (.v 4) 3) (at0 fun w => { w with cur := [(3, cursor0 1)] }) c ∧ c.E ≠ 0 ∧
      lanesBusy (at0 fun w => { w with cur := [(3, cursor0 1)] }) c.id c.E = false ∧ peerBusy (at0 fun w => { w with cur := [(3, cursor0 1)] }) c.id c.E = false ∧
      roomFor (at0 fun w => { w with cur := [(3, cursor0 1)] }) c.w c.id 32 32 = true) ∧
    (∃ c, Runs goP (.gclose { goP with h := ⟨0, false, some 0, 0⟩ } 6 (.v 4) 3) (at0 id) c ∧ c.E = 0) ∧
    -- GWAITLOW on no graph, on one of a later time, on a graph without snapshots, and on one with a snapshot
    (∀ gs ∈ [[], [(5, { graph0 with t := 9 })]], let s := atTeam id id id fun p => { p with graphs := gs }
      ∃ c, Runs (go (some 0)) (.gwaitlow (go (some 0)) 7 (.v 4) (.imm 5) (.v 2)) s c ∧ c.E ≠ 0 ∧
        ∀ g ∈ (tget (s.partOf c.w).graphs 5).toList, ¬ g.t ≤ (lanesOf c.E).foldl (fun m l => max m (lanePts s c.w.core c.id l)) 0) ∧
    (∀ snaps ∈ [[], [(2, ({ gid := 5, s := 0, count := 1 } : Snap))]],
      let s := atTeam id id id fun p => { p with graphs := [(5, graph0)], snaps := snaps }
      ∃ c, Runs (go (some 0)) (.gwaitlow (go (some 0)) 7 (.v 4) (.imm 5) (.v 2)) s c ∧ c.E ≠ 0 ∧
        tget (s.partOf c.w).graphs 5 = some graph0 ∧ graph0.t = 0 ∧ (s.partOf c.w).snaps = snaps ∧ (rd64 s c.w 0 (.v 2)).toNat = 0) ∧
    (let s := atTeam id id id fun p => { p with graphs := [(5, graph0)], snaps := [(2, { gid := 5, s := 1, count := 1 })] }
     tget (s.part 0).graphs 5 = some graph0 ∧ (tget graph0.verts 0).isSome) :=
  ⟨fun _ _ _ => ⟨rfl, rfl⟩, by decide, by decide, runs_of (by decide), runs_of (by decide),
    List.forall_mem_cons.2 ⟨runs_of (by decide), List.forall_mem_cons.2 ⟨runs_of (by decide), nofun⟩⟩,
    List.forall_mem_cons.2 ⟨runs_of (by decide), List.forall_mem_cons.2 ⟨runs_of (by decide), nofun⟩⟩, by decide⟩

/-- A translation of a page of PASID 0 to the same physical page. -/
def cached (va : Nat) : TlbEnt :=
  { part := 0, pasid := 0, va := va, pa := va, size := 65536, tier := 0, ms := false, gb := false, x := true, w := true, r := true, last := 0 }

/-- A Hod operation of team 0 with some parts. -/
def hop0 (parts : Tbl HPart) (expect : List Nat) (gather : Option GatherSt) : HodOp :=
  { cluster := 0, team := 0, grp := .team, seq := 0, dir := .g2l, len := 16, handle := some 3, readers := 1, segs := [], expect := expect,
    started := expect == [], parts := parts, gather := gather, status := 0, t := 3, pts := 1 }
/-- The grid has local memory of 256 bytes and handles, and Hod holds operations. -/
def hodState (hops : Tbl HodOp) (f : Wave → Wave := id) : State :=
  { atTeam f id (fun g => { g with loc := 1, handles := 4 }) (fun p => { p with graphs := [(5, graph0)] }) with hops := hops }

/-- A snapshot table that is full. -/
def fullSnaps (n : Nat) (x : Snap) : Tbl Snap := (List.range n).map fun i => (i, x)
theorem fullSnaps_has (n : Nat) (x : Snap) (k : Nat) (hk : k < n) : (tget (fullSnaps n x) k).isNone = false := by
  have h : ∀ m a, a ≤ k → k < a + m → (tget ((List.range' a m).map fun i => (i, x)) k).isNone = false := by
    intro m
    induction m with
    | zero => intro a h1 h2; omega
    | succ m ih =>
      intro a h1 h2
      simp only [List.range'_succ, List.map_cons, tget]
      split
      · rfl
      · exact ih (a + 1) (by omega) (by omega)
  rw [fullSnaps, List.range_eq_range']
  exact h n 0 (by omega) (by omega)
theorem fullSnaps_free (n : Nat) (x : Snap) : ∀ m a, a + m ≤ n → tfree (fullSnaps n x) a m = none
  | 0, _, _ => rfl
  | m + 1, a, h => by
    simp only [tfree, fullSnaps_has n x a (by omega), Bool.false_eq_true, if_false]
    exact fullSnaps_free n x m (a + 1) (by omega)
theorem fullSnaps_find (n : Nat) (x : Snap) (g s : Nat) (h : (x.gid == g) = false) :
    (fullSnaps n x).find? (fun e => e.2.gid == g && e.2.s == s) = none := by
  rw [List.find?_eq_none]
  intro e he
  obtain ⟨i, -, rfl⟩ := List.mem_map.1 he
  simp [h]
theorem fullSnaps_full (x : Snap) (g s : Nat) (h : (x.gid == g) = false) : snapAdd (fullSnaps 16384 x) g s = none := by
  rw [snapAdd, fullSnaps_find _ _ _ _ h, fullSnaps_free 16384 x 16384 0 (by omega)]

/-- A GOPEN that finds the snapshot table full. -/
theorem witness_EnginesReadGraphs_full :
    (∃ snaps, snapAdd snaps 5 (max (max 0 1) graph0.h) = none) ∧
    ∀ snaps, let r := greq (.opn 0 .out 0) none
      let s := { atTeam id id id fun p => { p with graphs := [(5, graph0)], snaps := snaps } with reqs := [(7, r)] }
      tget s.reqs 7 = some r ∧ r.held = none ∧ earlierReq s 7 r = false ∧ offlineOwners s r 5 (.opn 0 .out 0) = [] ∧
        tget (s.part 0).graphs 5 = some graph0 ∧ tget (s.wave 0).cur (4 * 0 + 0) = none ∧ 0 < graph0.vcap ∧
        (s.part 0).snaps = snaps ∧ (s.core 0).pts = 0 :=
  ⟨⟨_, fullSnaps_full { gid := 1, s := 0, count := 1 } _ _ rfl⟩, fun _ => ⟨rfl, rfl, rfl, rfl, rfl, rfl, by decide, rfl, rfl⟩⟩

theorem witness_CopiesAndGathersBegin :
    (∃ c, RunsGathered (go none) (.cpy (go none) (.v 2) (.v 4) 0xF 3 true 0 .g2l .team) (hodState []) c ∧ c.E ≠ 0 ∧
      3 < ((hodState []).gridOf c.w).handles ∧ lanesBusy (hodState []) c.id c.E = false ∧ peerBusy (hodState []) c.id c.E = false ∧
      classCount c.w .copy < 63 ∧ (tget (hodState []).teams c.w.team).isSome ∧ hodCount (hodState []) (c.w.core / 4) < 64 ∧
      joinOp (hodState []) c.id c.w .team = none ∧
      (handleOf ((hodState []).teamOf c.w) 3).st = .free ∧ 256 * ((hodState []).gridOf c.w).loc = 16 * (0xF + 1) ∧
      ∀ l, l < 32 → (rd64 (hodState []) c.w l (.v 2)).toNat = 0 ∧ (rd32 (hodState []) c.w l (.v 4)).toNat = 0) ∧
    (∃ c, RunsGathered (go none) (.cpy (go none) (.v 2) (.v 4) 0 3 true 0 .g2l .team) (hodState [(4, hop0 [] [0] none)]) c ∧
      hodCount (hodState [(4, hop0 [] [0] none)]) (c.w.core / 4) < 64 ∧
      joinOp (hodState [(4, hop0 [] [0] none)]) c.id c.w .team = some (4, hop0 [] [0] none) ∧ (hop0 [] [0] none).started = false ∧
      (hop0 [] [0] none).len = 16 * (0 + 1) ∧ (hop0 [] [0] none).readers = 0 + 1) ∧
    -- with no segment, alone and as the last wave of an operation
    (∀ hops ∈ [[], [(4, hop0 [] [0] none)]], ∃ c, RunsGathered goP (.cpy goP (.v 2) (.v 4) 0 3 true 0 .g2l .team) (hodState hops) c ∧ c.E = 0 ∧
      ((hodState hops).teamWaves c.w.team).filter (· != c.id) = [] ∧ joinOp (hodState hops) c.id c.w .team = hops.head?) ∧
    (∀ i ∈ [Instr.ggath (go none) 3 (.imm 5) (.v 1) (.v 2) (.v 4) .edge true .out, .ggath (go none) 3 (.imm 6) (.v 1) (.v 2) (.v 4) .block false .inn,
        .ggath (go none) 3 (.imm 6) (.v 1) (.v 2) (.v 4) .vpay true .inn],
      ∃ c, Runs (go none) i (hodState [] fun w => { w with w := [(3, 0x43000)] }) c ∧ c.E ≠ 0 ∧
        (c.w.wget 3).toNat.testBit 18 = true ∧ (c.w.wget 3).toNat / 2 ^ 12 % 64 = 3 ∧ 3 < ((hodState []).gridOf c.w).handles ∧
        (handleOf ((hodState []).teamOf c.w) 3).st = .free ∧ lanesBusy (hodState []) c.id c.E = false ∧ peerBusy (hodState []) c.id c.E = false ∧
        classCount c.w .gather < 63 ∧ (tget (hodState []).teams c.w.team).isSome ∧
        (∀ l, l < 32 → (rd64 (hodState []) c.w l (.v 4)).toNat = 0) ∧ graph0.t ≤ ((hodState []).core c.w.core).pts ∧
        (snapAdd ((hodState []).part ((hodState []).partNo c.w)).snaps 5 0).isSome ∧ tget ((hodState []).part 0).graphs 5 = some graph0 ∧
        tget ((hodState []).part 0).graphs 6 = none) ∧
    snapAdd (fullSnaps 16384 { gid := 1, s := 0, count := 1 }) 5 0 = none := by
  refine ⟨gathered_of rfl (by decide), gathered_of rfl (by decide), ?_, all_run (by decide), fullSnaps_full _ _ _ rfl⟩
  exact List.forall_mem_cons.2 ⟨gathered_of rfl (by decide), List.forall_mem_cons.2 ⟨gathered_of rfl (by decide), nofun⟩⟩

/-- A part of sixteen bytes between spaces, and a gather in a mode. -/
def part0 (src : Option Nat) (srcLoc dstLoc : Bool) : HPart :=
  { wave := 0, lane := 0, src := src, dst := 240, srcLoc := srcLoc, dstLoc := dstLoc, bytes := List.replicate 16 9, waits := none }
def gather0 (mode : GMode) (n : Nat) (fails : List (Nat × Nat)) : GatherSt :=
  { wave := 0, gid := 5, dir := .out, mode := mode, loc := true, snap := 1, slot := 2, off := 8,
    todo := [{ lane := 31, u := 0, n := n, dst := 0, waits := none }], fails := fails }
/-- The cluster translates page 0 and the home holds its first line. -/
def moving (o : HodOp) : State :=
  let s := hodState [(4, o)]
  { s with
    clusters := [(0, { Cluster.fresh with tlb := [{ part := 0, pasid := 0, va := 0, pa := 0, size := 65536, tier := 0, ms := false, gb := false,
                                                    x := true, w := true, r := true, last := 0 }] })]
    lines := [(lineKey (homeOf 0 false) 0, Line.fresh), (lineKey (homeOf 128 false) 128, Line.fresh)] }

theorem witness_EnginesPerformTheirOperations :
    (∀ p ∈ [part0 none false true, part0 (some 0) true true, part0 (some 16) false true, part0 (some 0) true false],
      let s := moving (hop0 [(0, p)] [] none)
      tget s.hops 4 = some (hop0 [(0, p)] [] none) ∧ (hop0 [(0, p)] [] none).started = true ∧ tget (hop0 [(0, p)] [] none).parts 0 = some p ∧
        p.waits = none ∧ (s.gang (s.team 0).gang).badAt 0 16 = false ∧ homeOffline s (homeOf 0 false) = false ∧ (s.team 0).life = .resident ∧ (s.team 0).stopped = false ∧ p.bytes.length = 16 ∧ poisoned s 16 16 = false ∧
        tget s.lines (lineKey (homeOf 0 false) 16) = some Line.fresh ∧ Line.fresh.use = 0 ∧
        max (max 1 Line.fresh.wts) Line.fresh.rts + (s.part 0).regs.lease ≤ s.ceil ∧ writeWaits s (homeOf 240 false) 240 = false ∧
        deadTier s 240 = false ∧ ((hodXlat s 4 0 (hop0 [(0, p)] [] none) 16 .read).2 matches .ok 16 _) = true ∧
        ((hodXlat s 4 0 (hop0 [(0, p)] [] none) 240 .write).2 matches .ok 240 _) = true) ∧
    (∀ g ∈ [gather0 .edge 0 [], gather0 .vpay 0 [], gather0 .block 0 [], gather0 .edge 1 [(3, 4)]],
      let s := hodState [(4, hop0 [] [] (some g))]
      tget s.hops 4 = some (hop0 [] [] (some g)) ∧ (g.todo.find? fun x => x.lane == 31 && x.waits.isNone) = g.todo.head? ∧ g.todo.isEmpty = false ∧
        (∀ l ∈ g.todo, ∀ x ∈ rankOwners graph0 g l, homeOffline s x.1 = false) ∧
        tget (s.part 0).graphs g.gid = some graph0 ∧ g.snap ≤ s.ceil ∧ g.off + 8 ≤ graph0.psize ∧
        bytesNat ((graph0.vtx 1).rdPay g.off 8) % 16 = 0) ∧
    ((graph0.list 0 .out).asOf 1)[0]? = some (edge0 1) ∧ ((graph0.list 0 .out).asOf 1)[1]? = none ∧
    (∀ v, (graph0.vtx v).pwts ≤ 0x100000) ∧
    (∀ g ∈ [none, some { gather0 .edge 0 [] with todo := [] }, some { gather0 .edge 0 [(31, 4)] with todo := [] }],
      let s := hodState [(4, hop0 [] [] g)] fun w => { w with blocked := .hwait 3 true 9 }
      tget s.hops 4 = some (hop0 [] [] g) ∧ (hop0 [] [] g).started = true ∧ (tget s.teams 0).isSome ∧ (s.wave 0).blocked = .hwait 3 true 9) := by
  refine ⟨by decide +kernel, by decide +kernel, by decide, by decide, fun v => ?_, by decide⟩
  match v with
  | 0 | 1 | 2 => decide
  | n + 3 => simp [graph0, Graph.vtx, tget, Vertex.fresh]

/-- A team of a grid with matrix engines, and a stream of its Roller in focus. -/
def stream0 (loops : List MLoopEnt) : Stream :=
  { addr := 0, wave := 0, slot := 0, gen := 0, words := List.replicate 6 0xE70000000000000000000000, pc := 0, loops := loops, table := 0, mask := 8,
    waiting := none, t := 5 }
def rolling (loops : List MLoopEnt) (t : Team → Team := id) (loc : Tbl Byte := []) : State :=
  let s := atTeam id (fun x => t { x with stream := some (stream0 loops), tiles := [(15, [(0, 0x3F800000)])] }) fun g => { g with mat := true, loc := 255 }
  { s with focus := .roller 0, gangs := tput s.gangs 0 { s.gang 0 with loc := loc } }
def loop0 (left : Nat) : MLoopEnt := { start := 0, stop := 1, left := left, iter := 0, step := 255 }

theorem witness_StreamsAndRollerWords :
    (∀ t ∈ [none, some (stream0 [])],
      (∃ c, Runs (go none) (.mstart (go none) (.v 2) (.v 4) 0xFF 0xFFFF) (atTeam id (fun x => { x with stream := t }) fun g => { g with mat := true }) c ∧
        lowLane c.E = some 0 ∧ (rd64 (at0 id) c.w 0 (.v 2)).toNat % 4 = 0) ∧
      ∃ c, Runs (go none) (.mstop (go none)) (atTeam id (fun x => { x with stream := t }) fun g => { g with mat := true }) c ∧ c.E ≠ 0) ∧
    (∃ c, Runs (go none) (.mstop (go none)) (at0 id) c ∧ c.E ≠ 0 ∧ ((at0 id).gridOf c.w).mat = false) ∧
    (∃ c, Runs (go none) (.mstart (go none) (.v 2) (.v 4) 0 0) (atTeam (val 4 fun _ => 8) id fun g => { g with mat := true }) c ∧
      (rd32 (at0 id) c.w 0 (.v 4)).toNat % 16 ≠ 0) ∧
    (∃ c, Runs (go none) (.mstart (go none) (.v 2) (.v 4) 0 0) (atTeam (val 2 fun _ => 2) id fun g => { g with mat := true }) c ∧
      (rd64 (at0 id) c.w 0 (.v 2)).toNat % 4 ≠ 0) ∧
    -- a stream at the end of one line of one page, which is fetched now
    (let f : MFetch := { addr := 0xFFF4, wave := 0, count := 1, table := 0, mask := 0 }
     let s := { atTeam id (fun x => { x with mfetch := some f }) fun g => { g with mat := true } with lines := [(lineKey (homeOf 0xFFF4 false) 0xFFF4, Line.fresh)] }
     let e := { cached 0 with last := 0 }
     ∃ s1, xlatAll (.wave 0) (s.wave 0) [(f.addr.toNat, .fetch)] s = (s1, [.ok 0xFFF4 e]) ∧
       (rollerTeam s 0).map (·.1) = some 0 ∧ (s.team 0).mfetch = some f ∧ (tget s.waves 0).isSome ∧
       f.addr.toNat / 65536 = (f.addr.toNat + (12 * f.count - 1)) / 65536 ∧ 0 < f.count ∧ homeOf 0xFFF4 e.ms < 1024 ∧
       homeOffline s (homeOf 0xFFF4 e.ms) = false ∧ 0xFFF4 % 128 + 12 * f.count ≤ 128 ∧ tget (s.core 0).l1 (0xFFF4 / 128) = none ∧
       tget s.lines (lineKey (homeOf 0xFFF4 e.ms) 0xFFF4) = some Line.fresh ∧ Line.fresh.use = 0 ∧ poisoned s 0xFFF4 12 = false ∧
       max (max (s.core 0).pts Line.fresh.wts) Line.fresh.rts + (s.part 0).regs.lease ≤ s.ceil ∧
       ((fetchRuns 0 0 0 [{ va := 0xFFF4, pa := 0xFFF4, n := 12, e := e }] s1).2 matches .ok _) = true) ∧
    -- words at a body's end with iterations left or none, and with no loop
    (∀ loops ∈ [[], [loop0 1], [loop0 2], List.replicate 4 (loop0 2)],
      (rolling loops).roll = some (0, stream0 loops) ∧ ((rolling loops).team 0).stream = some (stream0 loops)) ∧
    (stream0 []).mask.getLsbD 3 = true ∧ (stream0 []).mask.getLsbD 15 = false ∧ (getPhase (rolling []) (.team 0 3)).roller = false ∧ 15 ∉ ((rolling []).team 0).badTiles ∧
    (rolling []).waves.any (fun e => e.2.team == 0 && e.2.live != 0) = true :=
  ⟨List.forall_mem_cons.2 ⟨⟨runs_of (by decide), runs_of (by decide)⟩, List.forall_mem_cons.2 ⟨⟨runs_of (by decide), runs_of (by decide)⟩, nofun⟩⟩,
    runs_of (by decide), runs_of (by decide), runs_of (by decide), ⟨_, Prod.ext rfl (by decide), by decide +kernel⟩, by decide, by decide, by decide, by decide,
    by decide, by decide⟩

/-- Descriptor 0: rows at 256 with a stride of 256 bytes, in a format. -/
def desc1 (fmt : Nat) : Nat := 256 + 2 ^ 32 * 256 + 2 ^ 64 * fmt
def descBytes (fmt : Nat) : Tbl Byte := (List.range 16).map fun k => (k, BitVec.ofNat 8 (desc1 fmt / 256 ^ k))

theorem witness_TilesAreMultipliedAndStored :
    (∀ x ∈ [(RTy.bf16, 0), (.f16, 1), (.f32, 2), (.f64, 3), (.narrow, 4)],
      let s := rolling [] (fun t => { t with fmts := fmtRegs }) (descBytes x.2)
      let d := descOf ((s.gang 0).locValue 0 16)
      s.roll = some (0, stream0 []) ∧ d.ok = true ∧ d.fmt = x.1.code.toNat ∧ 16 ≤ localSize s 0 ∧
        (s.gang 0).badAt 0 16 = false ∧ operandBad s 0 d x.1 (mmaShape x.1 false).1 (mmaShape x.1 false).2 = false ∧ 15 ∉ (s.team 0).badTiles ∧
        operandOk (localSize s 0) x.1 false (mmaShape x.1 false).1 (mmaShape x.1 false).2 (s.team 0) d = true ∧
        destOk (localSize s 0) x.1 (if x.1 = .f64 then 32 else 64) (s.team 0) d = true ∧
        (if x.1 = .f64 then 32 else 64) * elemBits x.1 (descFmt (s.team 0) d) / 8 ≤ d.stride) ∧
    (rolling [{ loop0 1 with iter := 1 }]).roll = some (0, stream0 [{ loop0 1 with iter := 1 }]) ∧
    255 < 1 + (([{ loop0 1 with iter := 1 }] : List MLoopEnt).map fun e => e.iter * e.step).foldl (· + ·) 0 := by decide

/-- A decision of partition 0 in progress, of which a Trowel is in focus. -/
def deciding (d : Decision) (f : Part → Part := id) : State :=
  let s := policyState State.reset 0
  { s with focus := .trowel 0, parts := tput s.parts 0 (f { s.part 0 with dec := some d }) }
/-- A decision: no cycle used, at the first word of a program. -/
def dec0 : Decision :=
  { req := .dispatch, start := 0, version := 0, image := [0], pc := 0, regs := List.replicate 16 0, loop := none, count := 0,
    views := { vq := [], vs := [], vp := [], vf := [], vg := [], fits := [[0]], ages := [],
               gangs := [{ id := 0, gang := 0, vtx := 0, prio := 0, age := 0, clus := 0 }], nclus := 8 }, outcome := 0, action := none }
/-- The same in a loop of one word, and with its budget used up. -/
def looped (iter : Nat) : Decision := { dec0 with loop := some { d := 2, first := 0, after := 1, iter := iter } }

theorem witness_PolicyWordsRun :
    (∀ d f, let s := deciding d f
      s.focus = .trowel 0 ∧ tget s.parts 0 = some (f { (policyState State.reset 0).part 0 with dec := some d })) ∧
    (∀ d ∈ [dec0, { dec0 with count := 1022 }, { dec0 with count := 1024 }, { dec0 with req := .preempt true 0 }, { dec0 with req := .fault 4 }, looped 0, looped 15,
      { dec0 with loop := some { d := 2, first := 0, after := 3, iter := 1 } }], d.action = none) ∧
    dec0.count + 9 ≤ 1024 ∧ 1024 < 1024 + 1 ∧ (looped 0).pc + 1 = 1 ∧ (looped 0).count + 1 + 1 ≤ 1024 ∧
    -- END_PLACE and END_PREEMPT of what fits and what runs, and of what does not
    (0 ∈ dec0.views.fits.getD 0 [] ∧ 1 ∉ dec0.views.fits.getD 0 []) ∧ (dec0.views.gangs.map (·.id)) = [0] := by
  refine ⟨fun d f => ⟨rfl, rfl⟩, by decide, by decide, by decide, rfl, by decide, by decide, rfl⟩

/-- A page waits for its walk by wave 0, with the table that maps the first GiB or without. -/
def missing (mapped : Bool) (x : Part → Part := id) : State :=
  let s := atTeam (fun w => { w with xpages := [1] }) id id x
  let s := if mapped then paged false s else s
  { s with dies := [(0, { Die.fresh with queue := [{ part := 0, pasid := 0, va := 0x10000, waiters := [(.wave 0, .read)] }] })] }
/-- A fault record that waits for its decision. -/
def frec0 (code kind : Nat) (written : Bool) : FRec :=
  { pages := [], pc := 0, lanes := 1, grid := 0, pasid := 0, part := 0, gen := 0, core := 0, wave := 0, more := 0, dup := false, pts := 0, code := code,
    kind := kind, info := 0, team := 0, waveId := 0, hod := none, under := none, written := written, resume := false }
theorem witness_WalksAndInvalidations :
    (∀ mapped, let s := missing mapped
      (s.die 0).queue[0]? = some { part := 0, pasid := 0, va := 0x10000, waiters := [(.wave 0, .read)] } ∧
        tget s.waves 0 = some (s.wave 0) ∧ (s.wave 0).core / 96 = 0 ∧ (s.wave 0).xfault = [] ∧ 0x10000 % 65536 = 0 ∧
        (s.wave 0).xpages = [0x10000 / 65536] ∧ (s.wave 0).susp = .none ∧ (s.wave 0).blocked = .none ∧ (s.wave 0).iss.runPc = some 0 ∧
        (s.die 0).queue.eraseIdx 0 = [] ∧ (tget s.parts 0).isSome ∧ pagePending (s.die 0) 0 (s.gridOf (s.wave 0)).pasid (pageKey 1 (pageWord 0x10000 0 1 .read)) = false ∧
        (s.die 0).pages = []) ∧
    (∃ e ws s1, walk (missing true) 0 0 0 0x10000 = (s1, .leaf e, ws) ∧ accessFault e .read = none) ∧
    (∃ cause size ws s1, walk (missing false) 0 0 0 0x10000 = (s1, .fault cause size, ws)) ∧
    (∀ held ∈ [[], [3]], ∃ x, tget (atTeam id id id fun p => { p with faults := [(3, frec0 0 0 false)], heldF := held }).parts 0 = some x ∧
      x.heldF = held ∧ (∀ e ∈ x.faults, e.2.written = true → e.2.resume = false) ∧ tget x.faults 3 = some (frec0 0 0 false) ∧
      (frec0 0 0 false).resume = false ∧ (x.regs.fHead + 2 ^ 32 - 0) % 2 ^ 32 < 2 ^ (x.regs.faultRing.toNat % 16 + 6) ∧
      homeOf (64 * x.regs.fHead) false < 1024 ∧ writeWaits (at0 id) (homeOf (64 * x.regs.fHead) false) 0 = false ∧
      homeOffline (at0 id) (homeOf (64 * x.regs.fHead) false) = false ∧ (at0 id).lines = [] ∧ ((at0 id).home (homeOf 0 false)).rd + 1 ≤ (at0 id).ceil ∧
      x.regs.trapRing.getLsbD 0 = false) ∧
    (∀ b, ∃ x, tget (atTeam id id id fun p => { p with regs := { p.regs with tlbBusy := b } }).parts 0 = some x ∧ x.regs.tlbBusy = b) ∧
    (∀ sc ∈ [(0, 0, 1), (1, 0, 0), (2, 0, 0)], let s := { atTeam id id id fun p => { p with inval := some sc } with
        cores := [(0, { Core.fresh with tlb := [cached 0x10000, cached 0x20000] })] }
      (∃ x, tget s.parts 0 = some x ∧ x.inval = some sc) ∧ invPending s 0 sc.1 sc.2.1 sc.2.2 = false) := by
  refine ⟨fun m => ?_, ⟨_, _, _, rfl, by decide⟩, ⟨_, _, _, _, rfl⟩, List.forall_mem_cons.2 ⟨⟨_, rfl, rfl, by decide, rfl, by decide⟩,
    List.forall_mem_cons.2 ⟨⟨_, rfl, rfl, by decide, rfl, by decide⟩, nofun⟩⟩, fun b => ⟨_, rfl, rfl⟩, ?_⟩
  · cases m <;> exact ⟨rfl, rfl, by decide, rfl, rfl, rfl, rfl, rfl, rfl, rfl, rfl, by decide, rfl⟩
  · exact List.forall_mem_cons.2 ⟨⟨⟨_, rfl, rfl⟩, by decide⟩, List.forall_mem_cons.2 ⟨⟨⟨_, rfl, rfl⟩, by decide⟩,
      List.forall_mem_cons.2 ⟨⟨⟨_, rfl, rfl⟩, by decide⟩, nofun⟩⟩⟩

/-- A wave that is blocked since cycle 0, at a cycle. -/
def stuck (cycle : Nat) (b : Blocked) (t : Team → Team := id) (p : Part → Part := id) : State :=
  { atTeam (fun w => { w with blocked := b, iss := { w.iss with refusedAt := some 0 } }) t id p with cycle := cycle }

theorem witness_ClocksAndWatchdog :
    (let s := { stuck 256 .none with cores := [(0, Core.fresh)] }
     s.ticked < s.cycle ∧ s.halved / 256 < s.cycle / 256 ∧ (s.die (0 / 96)).ticks = true ∧ (∀ e ∈ s.parts, (s.part e.1).heldF = [] ∧ (s.part e.1).decQ = [] ∧ (s.part e.1).portQ = []) ∧ (s.die 0).clk < s.cycle ∧ (s.cycle - (s.die 0).clk) % 256 = 0) ∧
    (∃ w, tget (stuck 4096 .none).waves 0 = some w ∧ w.iss.refusedAt = some 0 ∧ 0 + 4096 ≤ (stuck 4096 .none).cycle) ∧
    (∀ q ∈ [[], [({ vertex := 1, since := 0, reent := false } : QEnt)]], ∃ x,
      tget (stuck 1024 .none id fun p => { p with regs := { p.regs with quantum := 1 }, queues := [(0, q)] }).parts 0 = some x ∧
        x.regs.quantum = 1 ∧ x.quantumAt + 1024 * 1 ≤ 1024 ∧ x.queues = [(0, q)]) ∧
    -- the watchdog with a wave that waits inside, and with one that waits on a word of the host
    (∀ reqs, let s := { stuck 1500 (.mwait 9) id fun p => { p with regs := { p.regs with wdPeriod := 1 } } with reqs := reqs }
      (∃ x, tget s.parts 0 = some x ∧ x.regs.wdPeriod = 1 ∧ x.wdSince ≤ 0) ∧ residentWaves s 0 = [(0, s.wave 0)] ∧ tget s.waves 0 = some (s.wave 0) ∧
        countsBlocked s (s.wave 0) = true ∧ (s.wave 0).iss.blockedAt ≤ 0 ∧ 0 + 1500 * 1 ≤ s.cycle ∧ (tget s.teams (s.wave 0).team).isSome ∧
        (reqs = [] → waitsOutside s (s.wave 0) = false) ∧
        (reqs = [(4, { greq (.deg 0 .out) none with pa := Config.hostBase })] → waitsOutside s (s.wave 0) = true)) ∧
    (let s := stuck 0 (.claim 40)
     (∃ x, tget s.teams 0 = some x ∧ (tget s.parts (s.gang x.gang).part).isSome = true) ∧ claimDeadlocked s 0 = true) := by
  refine ⟨by decide, ⟨_, rfl, rfl, by decide⟩, List.forall_mem_cons.2 ⟨⟨_, rfl, rfl, by decide, rfl⟩, List.forall_mem_cons.2 ⟨⟨_, rfl, rfl, by decide, rfl⟩, nofun⟩⟩,
    fun reqs => ⟨⟨_, rfl, rfl, Nat.le_refl 0⟩, rfl, rfl, rfl, Nat.le_refl 0, Nat.le_refl 1500, rfl, ?_, ?_⟩, ⟨_, rfl, by decide⟩, by decide⟩
  · rintro rfl; decide
  · rintro rfl; decide

/-- Decisions asked for at partition 0, with or without an active image. -/
def asking (rs : List DecReq) (img : Option (List Word)) (force : Bool) : State :=
  atTeam id id id fun p => { p with decReqs := rs, active := img, faults := [(4, frec0 1 1 true)], regs := { p.regs with forceFb := force } }
/-- Views in which the head of queue 0 is vertex 7 and gang 0 runs. -/
def views0 : Views := { dec0.views with vq := [[1, 0, 0, 0, 0, 0, 0, 0, 0, 7]] }
/-- Partition 0 of one stack, with a grid of one gang of one team of one wave in queue 0, and a decision to apply. -/
def applying (d : Decision) (life : Life) (w : Wave → Wave := id) : State :=
  let s := deciding d fun p => { p with size := 1, imgSize := 2 ^ 26, queues := [(0, [{ vertex := 7, since := 0, reent := false }])], faults := [(4, frec0 1 1 true)] }
  { s with
    grids := [(gridKey 0 0, Grid.fresh), (gridKey 0 7, { Grid.fresh with vertex := 7, tx := 32, ty := 1, tz := 1, stages := [1, 0, 0, 0], nteam := 1, base := 4, gx := 1, gy := 1, gz := 1 })]
    gangs := [(0, { Gang.fresh with life := life })], teams := [(0, Team.fresh)], waves := [(0, w { Wave.fresh with blocks := 4 })] }

theorem witness_DecisionsStartAndAreApplied :
    (∀ x ∈ [(DecReq.dispatch, [DecReq.dispatch]), (.preempt true 0, [.dispatch, .preempt true 0]), (.fault 4, [.dispatch, .preempt false 1, .fault 4])],
      ∀ y ∈ [(none, false), (some [(0 : Word)], false), (some [0], true)], let s := asking x.2 y.1 y.2
      (tget s.parts 0).isSome ∧ (s.part 0).dec = none ∧ (s.part 0).commit = none ∧ ((s.part 0).decReqs.find? fun r => r.kind == x.1.kind) = some x.1 ∧
        (∀ r ∈ (s.part 0).decReqs, r.kind ≤ x.1.kind) ∧ (s.part 0).active = y.1 ∧ (s.part 0).regs.forceFb = y.2 ∧
        (tget (s.part 0).faults 4).map (·.team) = some 0 ∧ (tget s.teams 0).isSome) ∧
    (let s := { asking [.dispatch] none false with cycle := 2 ^ 22, grids := [(gridKey 0 0, { Grid.fresh with tx := 32, ty := 1, tz := 1, nteam := 1, base := 4, gx := 1, gy := 1, gz := 1 })] }
     let s := s.updPart 0 fun p => { p with queues := [(0, [{ vertex := 0, since := 0, reent := false }])] }
     (freeze s 0 .dispatch).head 0 = true ∧ 2 ^ 22 ≤ (freeze s 0 .dispatch).ages.getD 0 0) ∧
    (∀ d life w, ∃ x, tget (applying d life w).parts 0 = some x ∧ x.dec = some d ∧ x.regs.decRing.getLsbD 4 = false) ∧
    (dec0.views.gangs.find? fun y => y.id == 0) = some { id := 0, gang := 0, vtx := 0, prio := 0, age := 0, clus := 0 } ∧
    (∀ life, tget (applying dec0 life).gangs 0 = some { Gang.fresh with life := life }) ∧
    (let s := applying { dec0 with views := views0, action := some (.place 0 0) } .resident
     views0.vtx 0 = 7 ∧ hasEntry s 0 7 = true ∧ fits s 0 7 0 = some 0 ∧ againGang s (s.grid (gridKey 0 7)) = none ∧ (s.part 0).graphs = []) ∧
    -- the record of a node that fired above the ceiling may not be written yet
    (let s := applying { dec0 with views := views0, action := some (.place 0 0) } .resident
     let s := { s with grids := tput s.grids (gridKey 0 7) { s.grid (gridKey 0 7) with fired := 2 ^ 30 }
                       parts := tput s.parts 0 { s.part 0 with graphs := [(0, graph0)] } }
     hasEntry s 0 7 = true ∧ fits s 0 7 0 = some 0 ∧ againGang s (s.grid (gridKey 0 7)) = none ∧ (s.grid (gridKey 0 7)).placed = 0 ∧
       tget (s.part 0).graphs 0 = some graph0 ∧ s.ceil < max (s.grid (gridKey 0 7)).fired ((graph0.vtx 7).prts + 1)) ∧
    (let s := applying { dec0 with req := .fault 4, action := some .resume } .resident fun w => { w with susp := .trap 1 }
     (∃ x, tget s.parts 0 = some x ∧ tget x.faults 4 = some (frec0 1 1 true) ∧ ∀ y ∈ x.faults, y.1 = 4) ∧ s.dies = [] ∧
       (∃ w, tget s.waves 0 = some w ∧ w.team = 0 ∧ s.partNo w = 0 ∧ w.susp = .trap 1 ∧ w.packets = []) ∧ (tget s.teams 0).isSome) := by
  refine ⟨by decide, by decide, fun d life w => ⟨_, rfl, rfl, (by decide : (0 : DWord).getLsbD 4 = false)⟩, by decide, fun l => rfl, by decide, by decide, ⟨_, rfl, rfl, by decide⟩, rfl, ⟨_, rfl, rfl, rfl, rfl, rfl⟩, rfl⟩

/-- A commit of partition 0 whose source is at an address, with a word there. -/
def committing (c : Commit) (w : Word) : State :=
  (atTeam id id id fun p => { p with commit := some c, regs := { p.regs with busy := true } }).wr c.src (natBytes w.toNat 4)
def commit0 (src : Nat) (ready : Option (List Word)) : Commit := { version := 3, src := src, len := 1, ready := ready }
def commitWord (src : Nat) (w : Word) : Word :=
  BitVec.ofNat 32 (bytesNat ((List.range 4).map fun j => memGet (committing (commit0 src none) w).mem (src + 4 * 0 + j)))

theorem witness_ImagesAreCommitted :
    (∀ b, ∃ x, tget (atTeam id id id fun p => { p with regs := { p.regs with busy := b } }).parts 0 = some x ∧ x.regs.busy = b) ∧
    (0x700000001 : DWord).getLsbD 0 = true ∧
    (∀ c w, ∃ x, tget (committing c w).parts 0 = some x ∧ x.commit = some c ∧ x.dec = none) ∧
    canRead (committing (commit0 Config.physEnd none) 0) (Config.physEnd + 4 * 0) = false ∧
    (∀ w, w = 0xFFFFFFFF ∨ w = 0x10C84000 ∨ encodePolicy .policyEndNone = some w → canRead (committing (commit0 0x2000 none) w) (0x2000 + 4 * 0) = true ∧
      decodePolicy (commitWord 0x2000 w) = decodePolicy w) ∧
    (∃ r, decodePolicy 0xFFFFFFFF = .reject r) ∧
    (decodePolicy 0x10C84000 = .ok (.policyAdd 3 2 1) ∧ isEnd (.policyAdd 3 2 1) = false ∧ branchOffset (.policyAdd 3 2 1) = none) ∧
    (∃ w, encodePolicy .policyEndNone = some w ∧ decodePolicy w = .ok .policyEndNone) := by
  refine ⟨fun b => ⟨_, rfl, rfl⟩, rfl, fun c w => ⟨_, rfl, rfl, rfl⟩, by decide, fun w h => ?_, ⟨_, rfl⟩, by decide, ⟨_, rfl, by decide⟩⟩
  rcases h with rfl | rfl | h
  · decide
  · decide
  · obtain rfl := Option.some.inj h
    decide

/-- A wave of team 0 whose threads have exited; with a second wave, with a second team, or alone. -/
def exiting (waves : Tbl Wave) (teams : Tbl Team) : State :=
  let s := atTeam (fun w => { w with exited := BitVec.allOnes 32 }) id fun g => { g with tx := 32, ty := 1, tz := 1, gx := 1, gy := 1, gz := 1 }
  { s with waves := s.waves ++ waves, teams := s.teams ++ teams }

theorem witness_WavesTeamsAndGridsEnd :
    (∀ x ∈ [([], []), ([(1, Wave.fresh)], []), ([], [(1, Team.fresh)])], let s := exiting x.1 x.2
      let g := s.gang (s.teamOf (s.wave 0)).gang
      (tget s.waves 0).isSome ∧ (s.wave 0).live = 0 ∧ (s.wave 0).ops = [] ∧ (s.wave 0).packets = [] ∧ s.hops = [] ∧ (s.teamOf (s.wave 0)).life = .resident ∧
        (s.teamOf (s.wave 0)).stream = none ∧ (tget s.gangs (s.teamOf (s.wave 0)).gang).isSome ∧ (tget s.grids (gridKey g.part g.vertex)).isSome ∧ (tget s.parts g.part).isSome) ∧
    (exiting [] []).teamWaves 0 = [0] ∧ (exiting [(1, Wave.fresh)] []).teamWaves 0 = [0, 1] ∧ (exiting [] []).gangTeams 0 = [0] ∧
    (exiting [] [(1, Team.fresh)]).gangTeams 0 = [0, 1] ∧
    (∃ G, tget (atTeam id id fun g => { g with drained := true, waitFor := [5] }).grids (gridKey 0 0) = some G ∧ G.drained = true ∧ G.done = false ∧
      ∀ op ∈ G.waitFor, opHeld (atTeam id id fun g => { g with drained := true, waitFor := [5] }) op = false) := by
  refine ⟨by decide, by decide, by decide, by decide, by decide, ⟨_, rfl, rfl, rfl, by decide⟩⟩

/-- Team 0 halts or is halted, its gang halting, beside another team of the gang or alone. -/
def halting (tl gl : Life) (other : Option Life) : State :=
  let s := atTeam id (fun t => { t with life := tl }) id
  { s with gangs := tput s.gangs 0 { s.gang 0 with life := gl, goal := .saved }
           teams := match other with
             | none => s.teams
             | some l => s.teams ++ [(1, { Team.fresh with life := l })] }

theorem witness_GangsHaltAndAreSaved :
    (let s := { halting .halting .halting none with
        reqs := [(7, req0 (.read none) 4)], flights := [(9, flight0 1 (.ext false 32) (.v 4))]
        clusters := [(0, { Cluster.fresh with comb := [(0, comb0 0 false)] })] }
     ∃ m w, tget s.teams 0 = some m ∧ m.life = .halting ∧ m.resumedAt = 0 ∧ s.teamWaves 0 = [0] ∧ tget s.waves 0 = some w ∧ w.susp = .none ∧ w.blocked = .none ∧
       (∀ e ∈ s.flights, ∀ k, e.2.dest ≠ .kept k) ∧ (∀ e ∈ s.reqs, e.2.kind.isPref = false) ∧ s.reps = []) ∧
    (let s := { halting .halting .halting none with cycle := 2049, teams := [(0, { Team.fresh with life := .halting, resumedAt := 1 })] }
     ∃ m, tget s.teams 0 = some m ∧ m.life = .halting ∧ m.resumedAt = 1 ∧ m.resumedAt + 2048 ≤ s.cycle) ∧
    (∀ o ∈ [none, some Life.saved, some .halting], let s := halting .halted .halting o
      let g := s.gang (s.team 0).gang
      (tget s.teams 0).isSome ∧ (s.team 0).life = .halted ∧ (tget s.gangs (s.team 0).gang).isSome ∧ g.life = .halting ∧ (tget s.grids (gridKey g.part g.vertex)).isSome ∧
        s.reqs = [] ∧ s.clusters = []) ∧
    (halting .halted .halting none).gangTeams 0 = [0] ∧ (halting .halted .halting (some .saved)).gangTeams 0 = [0, 1] ∧
    ((halting .halted .halting (some .saved)).team 1).life = .saved ∧ ((halting .halted .halting (some .halting)).team 1).life = .halting := by
  refine ⟨⟨_, _, rfl, rfl, rfl, by decide, rfl, rfl, rfl, fun e he k => by obtain rfl := List.mem_singleton.1 he; nofun, by decide, rfl⟩,
    ⟨_, rfl, rfl, rfl, by decide⟩, by decide, by decide, by decide, by decide, by decide⟩

/-- The task graph with a record at vertex 0 and an arrival at it. -/
def noding (r : Nat) (G : Grid → Grid := id) (firings : Tbl Firing := []) : State :=
  paged false (atTeam id id G fun p => { p with
    imgSize := 2 ^ 26, arrivals := [(0, 5)], firings := firings
    graphs := [(0, { graph0 with psize := 256, verts := [(0, { vert0 [edge0 1] [] with pay := payPut [] 0 (natBytes r 256) })] })] })
/-- The part of a record that a kernel of one gang of one wave needs, and a state, a kind and PEND. -/
def kernel : Nat := 2 ^ 512 + 2 ^ 528 + 2 ^ 544 + 2 ^ 672 + 2 ^ 684 + 2 ^ 712 + 2 ^ 720 + 2 ^ 736 + 32 * 2 ^ 752
def rec0 (st kind pend : Nat) (rearm : Bool) : Nat := pend + 2 ^ 32 * kind + 2 ^ 40 * rearm.toNat + 2 ^ 41 * st

theorem witness_NodesFireAndComplete :
    (∀ r G fs, ∃ x g, tget (noding r G fs).parts 0 = some x ∧ tget x.graphs 0 = some g ∧ x.migr.st < 3 ∧ x.arrivals = [(0, 5)]) ∧
    (let s := noding 0
     nodeBusy s 0 0 = false ∧ homeOffline s (((tget (s.part 0).graphs 0).getD graph0).owner (some 0)) = false ∧ max (5 + 1) ((((tget (s.part 0).graphs 0).getD graph0).vtx 0).prts + 1) + 2 ≤ s.ceil) ∧
    (∀ x ∈ [(0, 5, 0, false), (1, 2, 0, false), (1, 1, 9, false), (1, 1, 1, false), (2, 3, 0, false), (3, 1, 0, true), (3, 2, 0, true), (3, 0, 0, false)],
      let r := recOf (noding (rec0 x.1 x.2.2.1 x.2.1 x.2.2.2)) 0 0
      recState r = x.1 ∧ recPend r = x.2.1 ∧ recKind r = x.2.2.1 ∧ recRearm r = x.2.2.2 ∧ recNotify r = 0 ∧ recAgain r = 0 ∧
        badKind r = decide (x.2.2.1 = 9)) ∧
    recAgain (recOf (noding (2 ^ 56 * 255 + rec0 3 0 1 true)) 0 0) = 255 ∧
    -- firings that are rejected, of a conditional node, and of a kernel
    (∀ y ∈ [(0, 2, rec0 1 0 1 false), (1, 0, rec0 1 1 1 false), (2, 0, rec0 1 2 1 false), (0, 0, kernel + rec0 1 0 1 false)], let s := noding y.2.2
      recKind (recOf s 0 0) = y.1 ∧ recState (recOf s 0 0) = 1 ∧ recPend (recOf s 0 0) = 1 ∧ recNotify (recOf s 0 0) = 0 ∧
        ((recWrite (s.updPart 0 fun x => { x with arrivals := [] }) 0 0 6 fun r => setBits r 31 0 0).map fun s0 => (fireCheck s0 0 0 6).2) =
          some (some (y.2.1, []))) ∧
    -- a complete grid of a kernel node that is done, and of one that owes a firing of a broken record
    (∀ y ∈ [(rec0 2 0 0 false, true), (2 ^ 56 + rec0 2 0 0 true, false), (2 ^ 56 + rec0 2 9 0 true, true)],
      let f : Firing := { kind := 0, pasid := 0, cond := 0, notify := 0, killed := false, t := 6, stage := 0, sent := 0, answer := none, tc := 0, val := 0 }
      let s := noding y.1 (fun g => { g with done := true }) [(0, f)]
      let g := (tget (s.part 0).graphs 0).getD graph0
      (tget s.grids (gridKey 0 0)).map (·.done) = some true ∧ tget (s.part 0).firings 0 = some f ∧ homeOffline s (g.owner (some 0)) = false ∧
        max (s.grid (gridKey 0 0)).top ((g.vtx 0).prts + 1) + 2 ≤ s.ceil ∧ max (s.grid (gridKey 0 0)).top (g.list 0 .out).wts ≤ s.ceil ∧
        (y.2 = true → recRearm (recOf s 0 0) = false ∨ (0 < recAgain (recOf s 0 0) ∧ badKind (recOf s 0 0) = true ∧ recNotify (recOf s 0 0) = 0))) := by
  refine ⟨fun r G fs => ⟨_, _, rfl, rfl, (by decide : 0 < 3), rfl⟩, by decide +kernel, by decide +kernel, by decide +kernel, by decide +kernel, by decide +kernel⟩

/-- The arguments of a PART_CREATE that succeeds: one stack from 0, an image area, a task graph of four vertices. -/
def createArgs : List DWord := [0x100, 0x10000000, 0x4000000, 0x8000000, 0x30000, 4]

theorem witness_ControllerCommandsRun :
    (∀ recovery parts, let s := { State.reset with parts := parts, ctrl := { Ctrl.reset with recovery := recovery } }
      (s.mbox 0).busy = false ∧ tget s.ctrl.ends 0 = none ∧ s.ctrl.recovery = recovery ∧ resetDie s = none) ∧
    createCode State.reset createArgs = 0 ∧ createCode State.reset (createArgs.set 5 (2 ^ 32)) = 2 ∧
    createCode { State.reset with parts := [(0, Part.fresh)] } createArgs = 4 ∧
    (∃ x, tget { State.reset with parts := [(0, Part.fresh)] }.parts 0 = some x ∧ x.faults = [] ∧ partWork { State.reset with parts := [(0, Part.fresh)] } 0 = false) ∧
    tget State.reset.parts 11 = none ∧ ((0x1000 : DWord).toNat % 4096 = 0 ∧ Config.hostBase + (0x1000 : DWord).toNat + (16 : DWord).toNat ≤ Config.physEnd) := by
  refine ⟨fun r p => ⟨rfl, rfl, rfl, rfl⟩, by decide, by decide, by decide, ⟨_, rfl, rfl, by decide⟩, by decide, by decide⟩

/-- Partition 0 with gang 0 of node 0 in some status, and its mailbox. -/
def gangOf (life : Life) (m : Mbox) (grid : Bool := true) (ctrl : Ctrl := Ctrl.reset) : State :=
  let s := atTeam id id
  { s with gangs := tput s.gangs 0 { s.gang 0 with life := life }, grids := if grid then s.grids else [], mboxes := [(1, m)], ctrl := ctrl }

theorem witness_PartitionCommandsRun :
    (∀ life grid, let s := gangOf life Mbox.fresh grid
      (∃ x, tget s.parts 0 = some x ∧ x.faults = []) ∧ (s.mbox (0 + 1)).busy = false ∧ tget s.ctrl.ends (0 + 1) = none ∧ (0 : DWord).toNat < 2 ^ 32 ∧
        (0xFFFFFFFF : DWord).toNat < 2 ^ 32 ∧ ∃ g, s.gangs = [(0, g)] ∧ g.part = 0 ∧ g.vertex = (0 : DWord).toNat ∧ g.life = life) ∧
    (∃ G, tget (gangOf .suspended Mbox.fresh).grids (gridKey 0 (0 : DWord).toNat) = some G ∧ G.drained = false) ∧
    tget (gangOf .resident Mbox.fresh false).grids (gridKey 0 (0 : DWord).toNat) = none ∧
    (∃ m w, tget (gangOf .resident Mbox.fresh).teams 0 = some m ∧ m.gang = 0 ∧ tget (gangOf .resident Mbox.fresh).waves 0 = some w ∧ w.team = 0) ∧
    (∀ b, ((gangOf .resident { Mbox.fresh with busy := b }).mbox 1).busy = b ∧ (tget (gangOf .resident { Mbox.fresh with busy := b }).parts (1 - 1)).isSome = true) ∧
    ((0x7700FF : DWord).toNat % 256 ∉ [1, 2, 3, 4, 5] ∧ (0x7700FF : DWord).toNat % 256 ∉ [0x10, 0x11]) ∧
    (let s := gangOf .resident { Mbox.fresh with busy := true, run := some (0x70010, [0, 1]) } true { Ctrl.reset with ends := [(1, { code := 0, res := [3] })] }
     (s.mbox 1).run = some (0x70010, [0, 1]) ∧ tget s.ctrl.ends 1 = some { code := 0, res := [3] } ∧ ([3] : List DWord).length ≤ 7) := by
  refine ⟨fun l g => ⟨⟨_, rfl, rfl⟩, rfl, rfl, by decide, by decide, ⟨_, rfl, rfl, rfl, rfl⟩⟩, ⟨_, rfl, rfl⟩, rfl,
    ⟨_, _, rfl, rfl, rfl, rfl⟩, fun b => ⟨rfl, rfl⟩, by decide, rfl, rfl, by decide⟩

theorem witness_RegistersAreWrittenByTheHost :
    (∃ x, tget (gangOf .resident Mbox.fresh).parts 0 = some x) ∧ ((gangOf .resident Mbox.fresh).mbox (0 + 1)).args.length ≤ 7 ∧
    ((gangOf .resident { Mbox.fresh with args := createArgs ++ [0] }).mbox (0 + 1)).args.length ≤ 7 ∧ 0x1004 % 8 ≠ 0 ∧ 0x1004 < 0x10000 ∧
    (0xC000000000000000 : DWord).toNat / 2 ^ 62 % 2 ^ 2 = 3 ∧
    (let x := (gangOf .resident Mbox.fresh).part 0
     x.regs.lease < 2 ^ 64 ∧ (x.migr.seq - 1) % 2 ^ 16 * 2 ^ 16 + x.migr.err.toNat * 2 ^ 12 + x.migr.st * 2 ^ 8 < 2 ^ 64 ∧
       ((gangOf .resident Mbox.fresh).mbox 1).cmd.toNat < 2 ^ 64) :=
  ⟨⟨_, rfl⟩, by decide, by decide, by decide, by decide, by decide, by decide⟩

theorem witness_GraphPortRecordsAreAnswered :
    (∃ x, tget (atTeam id id id fun p => { p with graphs := [(5, graph0)] }).parts 0 = some x ∧ x.migr.st ≠ 3 ∧ tget x.graphs 5 = some graph0 ∧ tget x.graphs 6 = none ∧ tget x.portQ 0 = none) ∧
    (∃ x, tget (atTeam id id id fun p => { p with portQ := [(0, [.portGdeg 0 0 5 0])] }).parts 0 = some x ∧
      tget x.portQ 0 = some [.portGdeg 0 0 5 0] ∧ [Instr.portGdeg 0 0 5 0] ≠ []) ∧
    (atTeam id id id fun p => { p with graphs := [(5, graph0)] }).dies = [] ∧ graph0.t ≤ (0 : Nat) ∧
    ((graph0.vtx 3).alloc = false ∧ 3 < graph0.vcap ∧ ∀ k, k < 3 → (graph0.vtx k).alloc = true) ∧ max (max 0 (max (graph0.arts + 1) ((graph0.vtx 3).prts + 1)))
      (max ((graph0.list 3 .out).rts + 1) ((graph0.list 3 .inn).rts + 1)) ≤ 0x100000 ∧
    ((graph0.list 0 .out).degree = 1 ∧ (graph0.list 2 .inn).degree = 0 ∧ graph0.used + 2 ≤ graph0.pages ∧ twf graph0.verts = true ∧
      (∀ e ∈ (graph0.list 0 .out).recs, e.key ≤ max 0 (max ((graph0.list 0 .out).rts + 1) ((graph0.list 2 .inn).rts + 1))) ∧
      ∀ e ∈ (graph0.list 2 .inn).recs, e.key ≤ max 0 (max ((graph0.list 0 .out).rts + 1) ((graph0.list 2 .inn).rts + 1))) ∧
    ((graph0.list 0 .out).now[0]? = some (edge0 1) ∧ ((graph0.list 0 .out).recs.map (·.eid)).Nodup) ∧ 8 * 0 + 16 ≤ graph0.psize ∧
    ((graph0.vtx 0).alloc = true ∧ 0 < graph0.vcap ∧ max 0 (graph0.vtx 0).pwts ≤ 0x100000 ∧ max 0 (graph0.list 0 .out).wts ≤ 0x100000) := by
  refine ⟨⟨_, rfl, by decide, rfl, rfl, rfl⟩, ⟨_, rfl, rfl, by decide⟩, rfl, by decide, by decide, by decide, by decide, ⟨rfl, by decide⟩, by decide, by decide⟩

/-- A home's line of HBM or of the host, marked, and a write request that waits for its ownership. -/
def outside (mark : Bool) (req : Option Req) : State :=
  { at0 id with
    lines := [(lineKey (homeOf 0 false) 0, { Line.fresh with hostMark := mark, rts := 3 })]
    reqs := match req with
      | none => []
      | some r => [(7, r)] }
def waitingWrite : Req :=
  { req0 (.write [1, 2, 3, 4]) 4 with pa := Config.hostBase, home := homeOf Config.hostBase false, armed := true }

theorem witness_HostAndPeersReachMemory :
    (∀ mark ∈ [false, true], let s := outside mark none
     (tget s.lines (lineKey (extHome s 0) 0)).map (fun l => (l.use, l.hostMark, l.rts, l.wts)) = some (0, mark, 3, 0)) ∧
    (let s := outside false none
     inWindow s (fun _ => true) 0 4 = true ∧ homeOffline s (extHome s 0) = false ∧ deadTier s 0 = false ∧ max s.xts (3 + 1) ≤ s.ceil ∧ max (max s.xts 0) 3 ≤ s.ceil ∧
       (s.parts.map (·.1)) = [0]) ∧
    (let s := { outside false none with parts := [(0, { Part.fresh with size := 1 })] }
     inWindow s (· == 0) 0 4 = true ∧ inWindow s (· == 0) (Config.stackBytes - 2) 4 = false ∧
       inWindow s (· == 1) 0 (peerSize (.read 4)) = false) ∧
    (let pa := Config.hostBase + 128
     isHost pa = true ∧ [1, 2].length ≤ 128 ∧ tget (outside false none).lines (lineKey (homeOf pa false) pa) = none ∧
       keyHome (lineKey (homeOf pa false) pa) = homeOf pa false ∧ max 0 ((max 0 0) + 1) ≤ (outside false none).ceil) ∧
    (let line := Config.hostBase / 128
     isHost (128 * line) = true ∧ (∀ e ∈ (outside true none).reqs, e.2.armed = false) ∧
       (let s := outside false (some waitingWrite)
        s.reqs = [(7, waitingWrite)] ∧ waitingWrite.armed = true ∧ waitingWrite.home = homeOf (128 * line) false ∧ waitingWrite.pa / 128 = line ∧
          waitingWrite.held = none ∧ waitingWrite.token = none ∧ mayPerform s 7 waitingWrite = true ∧
          tget s.lines (lineKey (homeOf (128 * line) false) (128 * line)) = none ∧ Line.fresh.hostMark = false ∧
          max (max (s.core waitingWrite.core).pts waitingWrite.low) (0 + 1) ≤ s.ceil)) := by
  exact ⟨by decide, by decide, by decide, by decide, rfl, by decide⟩

theorem witness_ErrorsPoisonTrapAndRetire :
    isHbm 0 = true ∧ isTier Config.tierBase = true ∧
    (∀ n ∈ [0, 15, 16], let s := { atTeam id id with ctrl := { Ctrl.reset with errs := [(0, List.replicate n 0)] } }
      (((tget s.ctrl.errs 0).getD []).filter fun c => decide (s.cycle < c + 129600000000000)).length = n) ∧
    (∃ cp, tget ((copied 4 (at0 id)).core 0).l1 0 = some cp) ∧
    (∃ m g w, tget (atTeam id id).teams 0 = some m ∧ m.core = 0 ∧ tget (atTeam id id).gangs m.gang = some g ∧ (atTeam id id).teamWaves 0 = [0] ∧
      tget (atTeam id id).waves 0 = some w ∧ w.idx = 255 / 512) :=
  ⟨by decide, by decide, by decide, ⟨_, rfl⟩, ⟨_, _, _, rfl, rfl, rfl, by decide, rfl, by decide⟩⟩

theorem witness_LimitsAndAlarms :
    State.reset.ctrl.deleting = [] ∧
    (∃ x, tget (atTeam id id id fun p => { p with regs := { p.regs with floors := [(1, 256)], busy := true }, commit := some (commit0 0 none), migr := { Migr.fresh with st := 1 } }).parts 0 = some x ∧
      x.commit = some (commit0 0 none) ∧ x.migr.st = 1) ∧
    (∃ m, tget (gangOf .resident { Mbox.fresh with busy := true, run := some (0x10, []) }).mboxes 1 = some m ∧ m.busy = true) :=
  ⟨rfl, ⟨_, rfl, rfl, rfl⟩, ⟨_, rfl, rfl⟩⟩

/-- Die 0 at a step of its warm reset, with a gang and a line of one of its homes and of another die's. -/
def resetting (k : Nat) (gangs : Bool) : State :=
  let s := atTeam id id
  { s with
    gangs := if gangs then s.gangs else [], teams := if gangs then s.teams else [], waves := if gangs then s.waves else []
    dies := [(0, { Die.fresh with st := .reset k })], cores := [(0, { Core.fresh with pts := 9 }), (96, { Core.fresh with pts := 4 })]
    lines := [(lineKey (homeOf 0 false) 0, Line.fresh), (lineKey 600 0x5000000000, Line.fresh)] }

theorem witness_ResetsAndReadmission :
    (∀ e ∈ (resetting 1 true).lines, e.2.dirty = false) ∧
    (∀ k ∈ [1, 2, 3, 4, 6], ∀ gangs, ((resetting k gangs).die 0).st = .reset k ∧ ((resetting k gangs).die 0).unrec = []) ∧
    (∃ g m, tget (resetting 1 true).gangs 0 = some g ∧ g.life = .resident ∧ g.core0 / 96 = 0 ∧ tget (resetting 1 true).teams 0 = some m ∧
      ((resetting 1 true).gang m.gang).life = .resident ∧ tget (resetting 1 true).gangs m.gang = some ((resetting 1 true).gang m.gang)) ∧
    dieGangs (resetting 2 false) 0 = [] ∧ dieGangs (resetting 2 true) 0 ≠ [] ∧ (∀ g ∈ (resetting 6 false).gangs, g.2.awaits 0 = false) ∧ (∀ e ∈ (resetting 6 false).parts, ((resetting 6 false).part e.1).migr.held = []) ∧
    -- the homes and the links of the die hold nothing, a request, and an accumulate
    (dieHolds (resetting 3 false) 0 = false ∧ dieLinks (resetting 4 false) 0 = false) ∧
    dieHolds { resetting 3 false with reqs := [(7, { req0 (.read none) 4 with held := some 0x100000 })] } 0 = true ∧
    dieHolds { resetting 3 false with unitQ := [(0, [4])] } 0 = true ∧ dieLinks { resetting 4 false with areqs := [(4, areq0 false 0 0)] } 0 = true ∧
    (onDie 0 (homeOf 0 false) = true ∧ onDie 0 (keyHome (lineKey 600 0x5000000000)) = false) :=
  ⟨by decide, by decide, ⟨_, _, rfl, rfl, rfl, rfl, rfl, rfl⟩, by decide, by decide, by decide, by decide, by decide, by decide, by decide, by decide, by decide⟩

/-- Partition 0 at a state of its migration, with nothing placed. -/
def migrating (m : Migr) (halted : Bool) : State :=
  let s := atTeam id id id fun p => { p with migr := m }
  if halted then { s with gangs := [], teams := [], waves := [], grids := [] } else s

theorem witness_MigrationMovesAPartition :
    (∀ m b, ∃ x, tget (migrating m b).parts 0 = some x ∧ x.migr = m ∧ x.dec = none ∧ x.decReqs = [] ∧ x.size = 1) ∧
    (∀ m b, resetDie (migrating m b) = none) ∧ (∀ m b, (resetDie ((migrating m b).setDie 0 { Die.fresh with st := .reset 2 })).isSome) ∧
    (∃ g, tget (migrating Migr.fresh false).gangs 0 = some g ∧ g.part = 0 ∧ g.life = .resident) ∧
    (∀ m, let s := migrating m true
      s.gangs = [] ∧ s.grids = [] ∧ s.reqs = [] ∧ s.dies = [] ∧ (s.part 0).firings = [] ∧ s.areqs = [] ∧ s.clusters = []) ∧
    (5 : BitVec 3).toNat = 5 ∧
    (∀ pass ∈ [0, Config.stackBytes - 1], pass < 1 * Config.stackBytes) ∧
    (∀ c ∈ [({ kind := 0, seq := 3, addr := Config.stackBytes - 2, rsv := 0, data := [1, 2] } : Chunk), { kind := 5, seq := 3, addr := 0, rsv := 0, data := [1] },
        { kind := 5, seq := 3, addr := 0, rsv := 0, data := [] }, { kind := 0, seq := 4, addr := 0, rsv := 0, data := [] }, { kind := 0, seq := 3, addr := 0, rsv := 1, data := [] },
        { kind := 9, seq := 3, addr := 0, rsv := 0, data := [] }],
      let m := { Migr.fresh with st := 4, seq := 3 }
      (c.rsv = 0 ∧ c.seq = m.seq % 2 ^ 32 ∧ c.kind = 0 ∧ c.data.length ≤ 4032 ∧ c.addr + c.data.length ≤ 1 * Config.stackBytes) ∨
        (c.rsv = 0 ∧ c.seq = m.seq % 2 ^ 32 ∧ 1 ≤ c.kind ∧ c.kind ≤ 5 ∧ c.data.length ≤ 4032 ∧ c.addr = ((tget m.taken c.kind).getD []).length) ∨
        (c.rsv ≠ 0 ∨ c.seq ≠ m.seq % 2 ^ 32 ∨ (6 < c.kind ∧ c.kind ≠ 255))) := by
  refine ⟨fun m b => ?_, fun m b => ?_, fun m b => ?_, ⟨_, rfl, rfl, rfl⟩, fun m => ⟨rfl, rfl, rfl, rfl, rfl, rfl, rfl⟩, rfl, by decide, by decide⟩
  · cases b <;> exact ⟨_, rfl, rfl, rfl, rfl, rfl⟩
  · cases b <;> rfl
  · cases b <;> rfl

theorem witness_DecodeReadsBackEncode :
    (∀ i ∈ [Instr.iadd (go none) (toV 5) (.v 1) (.v 2) false .n32, .ld (go (some 1)) (.v 10) (.v 2) 0xFFFFF8 ⟨1, 0⟩ .b64, .mbar 3],
      wordOk i = true ∧ ((hdrOf i).isSome = true ∨ rollerWord i = true)) ∧
    WellFormed (.policyAdd 3 2 1) ∧ encodePolicy (.policyAdd 3 2 1) = some 0x10C84000 := ⟨by decide, rfl, by decide⟩

/-- The wave that a state picks first, and the home's line or the copy from which its word comes. -/
def picked (s : State) (cls : IssueClass) (copy : Bool) (p : Cand → Raw → Bool) : Bool :=
  match pick s 0 0 cls with
  | some c => match fetchXlat s c.w c.path.pc.toNat with
    | .ok pa e =>
      let home := homeOf pa e.ms
      let word (f : Nat → Byte) : Raw := Raw.unpack (word96OfBytes ((List.range 12).map f))
      decide (c.path.pc.toNat % 65536 + 12 ≤ 65536 ∧ home < 1024 ∧ pa % 128 + 12 ≤ 128) &&
        match tget (s.core 0).l1 (pa / 128) with
        | some cp => copy && decide ((s.core 0).pts ≤ cp.rts) && !cp.bad && p c (word fun j => cp.data.getD (pa % 128 + j) 0)
        | none => !copy && !homeOffline s home && !poisoned s pa 12 &&
          (match tget s.lines (lineKey home pa) with
            | some ln => decide (ln.use = 0 ∧ max (max (s.core 0).pts ln.wts) ln.rts + (s.part (s.partNo c.w)).regs.lease ≤ s.ceil)
            | none => false) && p c (word fun j => memGet s.mem (pa + j))
    | _ => false
  | none => false
/-- Line 0 at its home, or a copy of it in core 0. -/
def fetched (copy : Bool) (s : State) : State :=
  if copy then
    let d := (List.range 128).map fun j => memGet s.mem j
    s.updCore 0 fun c => { c with l1 := [(0, { bad := false, wts := 0, rts := 4, data := d, pref := false, last := 0, hint := 0 })] }
  else { s with lines := [(lineKey (homeOf 0 false) 0, Line.fresh)] }

theorem witness_StepsRunWhatComesNext :
    ({ State.reset with cycle := 1 }.ticked < { State.reset with cycle := 1 }.cycle) ∧
    (let s := { State.reset with cycle := 256, ticked := 256 }
     s.cycle ≤ s.ticked ∧ s.halved / 256 < s.cycle / 256) ∧
    (State.reset.cycle ≤ State.reset.ticked ∧ State.reset.agenda = [] ∧ State.reset.ctrl.alarm = false ∧ State.reset.ctrl.tripped = false) ∧
    -- a vector instruction, a memory instruction and an unassigned word in their slots, from the home and from a copy
    (∀ copy ∈ [false, true], ∀ x ∈ [(IssueClass.alu, 0x7040014010080600000000, true), (.other, 0x7070100280200009fffff840, true), (.other, 0xf07040000000000000000000, false)],
      let s := { fetched copy (waveState State.reset (BitVec.ofNat 96 x.2.1)) with agenda := [], focus := .none }
      let b := sendSaved (if x.1 = .other then noteRefusals s 0 0 else s) 0 0
      slotFree b 0 0 x.1 = true ∧ inGap b 0 = false ∧
        picked b x.1 copy (fun c r => !losesPorts b 0 0 x.1 c r && !hrelWaits b 0 0 c.w r && ((decodeWave r matches .ok _) == x.2.2)) = true) ∧
    (let s := rollerState State.reset 0xe47040000000000000000003
     ∃ n m st, rollerTeam s 0 = some (n, m) ∧ m.stream = some st ∧ st.waiting = none ∧ inGap s 0 = false ∧ st.words[st.pc]? = some 0xe47040000000000000000003) ∧
    decodeRoller (Raw.unpack 0xe47040000000000000000003) = .ok (.mbar 3) ∧
    (∃ d, ((policyState State.reset 0x10C84000).part 0).dec = some d ∧ d.image[d.pc]? = some 0x10C84000) ∧ decodePolicy 0x10C84000 = .ok (.policyAdd 3 2 1) := by
  refine ⟨by decide, by decide, by decide, by decide +kernel, ⟨_, _, _, rfl, rfl, rfl, by decide, rfl⟩, by decide, ⟨_, rfl, rfl⟩, by decide⟩

/-- The next step of the state after reset is the next cycle, of which `ResetLeavesTheStatedValues` gives the form of memory. -/
theorem witness_EveryStepKeepsMemoryCanonical : Memory.wf State.reset.mem = true ∧ ∃ t, step State.reset = .next t := ⟨rfl, _, rfl⟩

theorem witness_NoStepTurnsTimeBack :
    (∀ rest, State.reset.agenda ≠ .event .fullDeviceReset :: rest ∧ State.reset.agenda ≠ .event .powerOn :: rest) ∧ ∃ t, step State.reset = .next t :=
  ⟨fun _ => ⟨nofun, nofun⟩, _, rfl⟩

theorem witness_AlarmsStopTheModule :
    (let s := { at0 id with ctrl := { Ctrl.reset with alarm := true } }
     s.ctrl.alarm = true ∧ (∀ rest, s.agenda ≠ .event .powerOn :: rest) ∧ ∃ w, tget s.waves 0 = some w) ∧
    { Ctrl.reset with tripped := true }.tripped = true := ⟨⟨rfl, fun _ => nofun, _, rfl⟩, rfl⟩

/-! ## Words written out from the encoding tables

Each word is `OP<<88 | G<<84 | H<<72 | D<<62 | A<<52 | B<<42 | M<<32 | X` with the field values of its row (Tables 12-1, 13-2,
14-2, 15-2, 16-2, 17-1, 17-5, 18-1), or `OP<<26 | D<<22 | A<<18 | B<<14 | I` of Table 21-2. -/

theorem test_decode_integer : ∀ x ∈ [
    (0x7040014010080600000000, Instr.iadd (go none) (toV 5) (.v 1) (.v 2) false .n32),
    (0x10704040dff00022fffffffe, .iaddImm (go none) ⟨false, .w 3⟩ .zero 0xFFFFFFFE true .i32),
    (0x170408150180c2200000000, .isub (go none) ⟨true, .v 5⟩ (.w 1) (.latch 3) true .i32),
    (0x27040018010082600000104, .imad (go none) (toV 6) (.v 1) (.v 2) (.w 4) true .n32),
    (0x127040018010000200000009, .imadImm (go none) (toV 6) (.v 1) 9 .i32),
    (0x37040018010080200000000, .imulh (go none) (toV 6) (.v 1) (.v 2) .i32),
    (0x47040018028040000000000, .iadd64 (go none) (toV 6) (.v 2) (.latch 1)),
    (0x147040419020000000000007, .iadd64Imm (go none) ⟨false, .w 6⟩ (.w 2) 7),
    (0x570400180200fc600000000, .lea (go none) (toV 6) (.v 2) (.v 3) 15 .n32),
    (0x157040018020004280000000, .leaImm (go none) (toV 6) (.v 2) 0x80000000 1 .i32),
    (0x67040018020100700000000, .imin (go none) (toV 6) (.v 2) (.v 4) .n64),
    (0x77040014027000200000000, .imax (go none) (toV 5) (.v 2) (.sp .lane) .i32),
    (0x167040018020000300000003, .iminImm (go none) (toV 6) (.v 2) 3 .i64),
    (0x177040014020000600000003, .imaxImm (go none) (toV 5) (.v 2) 3 .n32),
    (0x87040014020002200000000, .iabs (go none) (toV 5) (.v 2) true .i32),
    (0x970406040200ea600000184, .isetp (go none) ⟨false, 1⟩ (.v 2) (.v 3) 4 .ge .xor .n32),
    (0x197040605c00004200000008, .isetpImm (go none) ⟨false, 1⟩ (.sp .lane) 8 .lt .i32),
    (0xa70400140200f8800000000, .isel (go none) (toV 5) (.v 2) (.v 3) true 6 .b32),
    (0x1a7040018020018900000001, .iselImm (go none) (toV 6) (.v 2) 1 false 6 .b64),
    (0x2070400140200c0800000000, .shl (go none) (toV 5) (.v 2) (.v 3) .b32),
    (0x2170400180200c0900000000, .shr (go none) (toV 6) (.v 2) (.v 3) .b64),
    (0x2270400140200c0800000000, .sar (go none) (toV 5) (.v 2) (.v 3) .b32),
    (0x2c704001402000080000003f, .shlImm (go none) (toV 5) (.v 2) 63 .b32),
    (0x2d7040014020000800000001, .shrImm (go none) (toV 5) (.v 2) 1 .b32),
    (0x2e7040018020000900000020, .sarImm (go none) (toV 6) (.v 2) 32 .b64),
    (0x2370400140200c2800000000, .rot (go none) (toV 5) (.v 2) (.v 3) true .b32),
    (0x247040018020119600000008, .bool3 (go none) (toV 6) (.v 2) (.v 4) (.v 8) true 0x96),
    (0x2f704001402000e80000ff00, .bool3Imm (go none) (toV 5) (.v 2) 0xFF00 0xE8),
    (0x257040014020000900000000, .popc (go none) (toV 5) (.v 2) .b64),
    (0x267040014030000800000000, .clz (go none) (toV 5) (.v 3) .b32),
    (0x277040018020000900000000, .brev (go none) (toV 6) (.v 2) .b64),
    (0x2870400140200c0200000000, .bfe (go none) (toV 5) (.v 2) (.v 3) .i32),
    (0x2970400140200c0000000004, .bfi (go none) (toV 5) (.v 2) (.v 3) (.v 4)),
    (0x2a70400140200c0000000202, .bsel (go none) (toV 5) (.v 2) (.v 3) (.latch 2))],
    decodeTableWord 96 x.1 = some x.2 := by decide +kernel

theorem test_decode_moves : ∀ x ∈ [
    (0x307040015d60000800000000, Instr.mov (go none) (toV 5) (.sp .coreId) .b32),
    (0x3170400180000003deadbeef, .movi (go none) (toV 6) 0xDEADBEEF .i64),
    (0x32704042405000000000001f, .movw (go none) ⟨false, .w 9⟩ (.v 5) 31),
    (0x3370400140200c0400000400, .shfl (go none) (toV 5) (.v 2) (.v 3) .all .rot),
    (0x347040609830000200000104, .vote (go none) ⟨false, 2⟩ 3 (.w 4) .uni),
    (0x357040015830000000000400, .ballot (go none) (toV 5) 3 .all),
    (0x367040014020002900000400, .matchv (go none) (toV 5) (.v 2) .all true .b64),
    (0x37704001402000a800000101, .redux (go none) (toV 5) (.v 2) (.w 1) .xor .b32),
    (0x387040015600000000000000, .s2v (go none) (toV 5) 96),
    (0x3970406040200d2800000187, .psetp (go none) ⟨false, 1⟩ (.v 2) (.v 3) 7 true .or .b32),
    (0x3a7040e058260c8000000184, .plop (go none) ⟨true, 1⟩ 2 3 4 0x80)],
    decodeTableWord 96 x.1 = some x.2 := by decide +kernel

theorem test_decode_control : ∀ x ∈ [
    (0xc070400000000000ffffffff, Instr.bra (go none) 0xFFFFFFFF),
    (0xc17040000020000000000000, .brx (go none) (.v 2)),
    (0xc27040000000000000000004, .call (go none) 4),
    (0xc37040000000000000000000, .ret (go none)),
    (0xc47040000000000000000000, .exit (go none)),
    (0xc57040001050000000000000, .conv (go none) (.w 5)),
    (0xc67040000000000000000000, .yield (go none)),
    (0xc77040000000000000000000, .nop (go none)),
    (0xc87040000000000000000fff, .bkpt (go none) 0xFFF),
    (0xd07040000000000000000123, .trap (go none) 0x123),
    (0xd17040000000000000001000, .eret (go none) true),
    (0xd27010018000000000000204, .rdsys (go (some 1)) (.v 6) 0x204),
    (0xd37040000020000000000110, .wrsys (go none) 0x110 (.v 2)),
    (0xd47020018000000000000000, .rdts (go (some 2)) (.v 6)),
    (0xd57030418000000000000000, .rdclk (go (some 3)) (.w 6)),
    (0xd6704000000000000000000f, .setprio (go none) 15)],
    decodeTableWord 96 x.1 = some x.2 := by decide +kernel

theorem test_decode_floating : ∀ x ∈ [
    (0x40704001401009ac00000000, Instr.fadd (go none) (toV 5) (.v 1) (.v 2) ⟨.rz, true, false, true⟩ .f32),
    (0x4170400140100a4a00000000, .fmul (go none) (toV 5) (.v 1) (.v 2) ⟨.rd, false, true, false⟩ .f16),
    (0x427040018010094c00000003, .ffma (go none) (toV 6) (.v 1) (.v 2) (.v 3) ⟨.rz, false, true, false⟩ .f32),
    (0x43704001401008ab00000000, .fmin (go none) (toV 5) (.v 1) (.v 2) true false true .bf16),
    (0x447040014010084c00000000, .fmax (go none) (toV 5) (.v 1) (.v 2) false true false .f32),
    (0x4570406040100baa00000983, .fsetp (go none) ⟨false, 1⟩ (.v 1) (.v 2) 3 .xor true .geu .f16),
    (0x467040014020000d00000000, .fclass (go none) (toV 5) (.v 2) .f64),
    (0x477000014020038000000000, .frcp (go (some 0)) (.v 5) (.v 2) .ru true),
    (0x477000014020000100000000, .frsq (go (some 0)) (.v 5) (.v 2) false),
    (0x477000014020010200000000, .fsqrt (go (some 0)) (.v 5) (.v 2) .rz false),
    (0x477000014020008300000000, .fex2 (go (some 0)) (.v 5) (.v 2) true),
    (0x477000014020000400000000, .flg2 (go (some 0)) (.v 5) (.v 2) false),
    (0x477000014020000500000000, .fsin (go (some 0)) (.v 5) (.v 2) false),
    (0x477000414020000600000000, .fcos (go (some 0)) (.w 5) (.v 2) false),
    (0x487040014010082f00000000, .hadd2 (go none) (toV 5) (.v 1) (.v 2) ⟨.rn, false, false, true⟩ .f16x2),
    (0x4970400140100b1000000004, .hfma2 (go none) (toV 5) (.v 1) (.v 2) (.v 4) ⟨.ru, false, false, false⟩ .bf16x2),
    (0x4a7040014010088400000004, .dot4 (go none) (toV 5) (.v 1) (.v 2) (.v 4) true .n8),
    (0x4b7040014010091000000004, .dot2 (go none) (toV 5) (.v 1) (.v 2) (.v 4) .rz .bf16x2),
    (0x4c7040014010004c3f800000, .faddImm (go none) (toV 5) (.v 1) 0x3F800000 .rn false true .f32),
    (0x4d7040014010018a00003c00, .fmulImm (go none) (toV 5) (.v 1) 0x3C00 .rz true false .f16),
    (0x4e7040014010000b00003f80, .ffmaImm (go none) (toV 5) (.v 1) 0x3F80 .rn false false .bf16),
    (0x507040018020116d00000000, .dadd (go none) (toV 6) (.v 2) (.v 4) .rz true true),
    (0x517040018020102d00000000, .dmul (go none) (toV 6) (.v 2) (.v 4) .rn false true),
    (0x527040018020124d00000008, .dfma (go none) (toV 6) (.v 2) (.v 4) (.v 8) .rd true false),
    (0x53704060402010ed00000587, .dsetp (go none) ⟨false, 1⟩ (.v 2) (.v 4) 7 .or .nan),
    (0x60704001402001a200000400, .cvt (go none) (toV 5) (.v 2) .rz false false .f64 .i32),
    (0x61704001402003cc00006800, .cvtn (go none) (toV 5) (.v 2) 6 .rd 7 true .f32),
    (0x627040014020258e00002000, .cvtef (go none) (toV 5) (.v 2) 9 2 3 .fmt),
    (0x637040014020008f00004400, .cvtw (go none) (toV 5) (.v 2) 4 .rz 1 .f16x2),
    (0x6470400140200c1000001c00, .pack (go none) (toV 5) (.v 2) (.v 3) .ru true .bf16x2),
    (0x657040018030000f00001000, .unpack (go none) (toV 6) (.v 3) true .f16x2),
    (0x6670400140200c4c00000000, .bscale (go none) (toV 5) (.v 2) (.v 3) 0 .unscale)],
    decodeTableWord 96 x.1 = some x.2 := by decide +kernel

theorem test_decode_memory : ∀ x ∈ [
    (0x7070100280200009fffff840, Instr.ld (go (some 1)) (.v 10) (.v 2) 0xFFFFF8 ⟨1, 0⟩ .b64),
    (0x717040000020202800001020, .st (go none) (.v 2) 0x10 (.v 8) ⟨0, 2⟩ .b128),
    (0x727000014030000000000300, .ldl (go (some 0)) (.v 5) (.v 3) 3 .i8),
    (0x737040000030140500000200, .stl (go none) (.v 3) 2 (.v 5) .n16),
    (0x7470004190200009000008c0, .ldw (go (some 0)) 6 2 8 ⟨3, 0⟩ .b64),
    (0x757040000020000000008000, .pref (go none) (.v 2) 0x80 ⟨0, 0⟩),
    (0x767040000020140000000000, .cctlUse (go none) (.v 2) 0 (.v 5) ⟨0, 0⟩),
    (0x767040000020002000000000, .cctlL1drop (go none) (.v 2) 0 ⟨0, 0⟩),
    (0x767040000020004000000000, .cctlWb (go none) (.v 2) 0 ⟨0, 0⟩),
    (0x80700001802010e800000400, .atom (go (some 0)) (.v 6) (.v 2) 4 (.v 4) ⟨0, 0⟩ .cas .b32),
    (0x8170407fc020140c00000400, .atomLocal (go none) .zero (.v 2) 4 (.v 5) .add .f32),
    (0x827040000020144600000410, .acc (go none) (.v 2) 4 (.v 5) ⟨0, 1⟩ .max .n32),
    (0x837040000000000000000000, .flushres (go none)),
    (0x847040000000002700000000, .fence (go none) .partition ⟨true, false, false, true⟩),
    (0x9070400000000000000001af, .bar (go none) 15 0xA true),
    (0x9170400000000000000000f2, .gbar (go none) 2 0xF false),
    (0x92700001802010a300000800, .mwait (go (some 0)) (.v 6) (.v 2) 8 (.v 4) ⟨0, 0⟩ .ge .i64),
    (0x93704000000000000000001f, .claim (go none) 31),
    (0x947040000000000000000001, .release (go none) 1),
    (0x957040000000000000000fff, .nap (go none) 4095)],
    decodeTableWord 96 x.1 = some x.2 := by decide +kernel

theorem test_decode_graph : ∀ x ∈ [
    (0xa07000008040038000000000, Instr.gnewg (go (some 0)) 7 (.v 2) (.v 4)),
    (0xa170000080400080ffff0000, .gnewv (go (some 0)) 1 (.v 2) (.imm 0xFFFF) (.v 4)),
    (0xa270407fc040038000058000, .gfreev (go none) 7 .zero (.w 5) (.v 4)),
    (0xa3700000804017a000010006, .gadd (go (some 0)) 7 (.v 2) (.imm 1) (.v 4) (.v 5) (some (.v 6))),
    (0xa4700000804017e000010000, .gdel (go (some 0)) 7 (.v 2) (.imm 1) (.v 4) (.v 5) .inn true),
    (0xa5700000804017c000010007, .gswap (go (some 0)) 7 (.v 2) (.imm 1) (.v 4) (.v 5) (.v 7) .inn),
    (0xa5700000804017a000010007, .gswapShared (go (some 0)) 7 (.v 2) (.imm 1) (.v 4) (.v 5) (.v 7) .out),
    (0xa67000020010088000010000, .glde (go (some 0)) 1 (.v 8) (.imm 1) (.v 1) (.v 2) .out),
    (0xa77000030040004000070000, .gdeg (go (some 0)) 0 (.v 12) (.imm 7) (.v 4) .inn),
    (0xa8700002004003be00070000, .gldv (go (some 0)) 7 (.v 8) (.imm 7) (.v 4) true 30),
    (0xa9700000c040239f00070000, .gstv (go (some 0)) 7 (.v 3) (.imm 7) (.v 4) (.v 8) false 31),
    (0xaa700000804003c300070000, .gopen (go (some 0)) 7 (.v 2) (.imm 7) (.v 4) .inn 3),
    (0xab7000010000038200000000, .gnext (go (some 0)) 7 (.v 4) 2),
    (0xac7000010000278100000000, .gseek (go (some 0)) 7 (.v 4) (.v 9) 1),
    (0xad7000008000030000000000, .gclose (go (some 0)) 6 (.v 2) 0),
    (0xae7000014020038000070000, .gwaitlow (go (some 0)) 7 (.v 5) (.imm 7) (.v 2))],
    decodeTableWord 96 x.1 = some x.2 := by decide +kernel

theorem test_decode_engines : ∀ x ∈ [
    (0xb070400000201402fffff000, Instr.cpy (go none) (.v 2) (.v 5) 255 63 true 31 .g2l .team),
    (0xb1704040c04016c000090006, .ggath (go none) 3 (.imm 9) (.v 4) (.v 5) (.v 6) .block true .inn),
    (0xb27040000000000000000085, .waitc (go none) .acc 5),
    (0xb3700001400000000000003f, .hwaitFull (go (some 0)) (.v 5) 63),
    (0xb370407fc000000000000047, .hwaitFree (go none) 7),
    (0xb47040000000000000000007, .hrel (go none) 7),
    (0xb5704000002014ff80010000, .mstart (go none) (.v 2) (.v 5) 255 0x8001),
    (0xb67040000000000000000000, .mstop (go none))],
    decodeTableWord 96 x.1 = some x.2 := by decide +kernel

theorem test_decode_roller : ∀ x ∈ [
    (0xe0704003cff3f80c00000000, Instr.mma 15 255 254 true .narrow),
    (0xe1704003c000000000000000, .mzero 15),
    (0xe2704000cfe0020100000000, .mstore 254 3 .rd .f16),
    (0xe3704000c000000340000000, .mscale 3 true 0x40000000),
    (0xe4704000000000000000000f, .mbar 15),
    (0xe5704000000000000201ffff, .mloop 2 1 0xFFFF),
    (0xe67040000000000000000000, .mend),
    (0xe7704000000000070001c063, .mfmt 7 0x1C063)],
    decodeTableWord 96 x.1 = some x.2 := by decide +kernel

theorem test_decode_policy : ∀ x ∈ [
    (0x4c03fff, Instr.policyLi 3 0x3FFF),
    (0x8c00005, .policyLui 3 5),
    (0xcc82000, .policyAddi 3 2 0x2000),
    (0x10c84000, .policyAdd 3 2 1),
    (0x14c84000, .policySub 3 2 1),
    (0x18c84000, .policyAnd 3 2 1),
    (0x1cc84000, .policyOr 3 2 1),
    (0x20c84000, .policyXor 3 2 1),
    (0x24c84000, .policyShl 3 2 1),
    (0x28c84000, .policyShr 3 2 1),
    (0x2cc84000, .policyMinu 3 2 1),
    (0x30c84000, .policyMaxu 3 2 1),
    (0x34c84000, .policySltu 3 2 1),
    (0x40c80009, .policyVq 3 2 9),
    (0x44c80005, .policyVs 3 2 5),
    (0x48c80003, .policyVp 3 2 3),
    (0x4cc00009, .policyVf 3 9),
    (0x50c00007, .policyVg 3 7),
    (0x60c84000, .policyFit 3 2 1),
    (0x64c84000, .policyFind 3 2 1),
    (0x80084064, .policyBeq 2 1 100),
    (0x84084064, .policyBne 2 1 100),
    (0x88084064, .policyBltu 2 1 100),
    (0x8c084064, .policyBgeu 2 1 100),
    (0x90000064, .policyBra 100),
    (0xa0c000ff, .qloop 3 255),
    (0xc0000000, .policyEndNone),
    (0xc0084001, .policyEndPlace 2 1),
    (0xc0080002, .policyEndPreempt 2),
    (0xc0000003, .policyEndResume),
    (0xc0000004, .policyEndSuspend),
    (0xc0000005, .policyEndKillteam),
    (0xc0000006, .policyEndKillgrid),
    (0xc0000007, .policyEndEscalate)],
    decodeTableWord 32 x.1 = some x.2 := by decide +kernel

/-! ## Ill-formed words: each decode check refuses -/

def hint (g : Guard) (s : Option (BitVec 2)) : Hdr := ⟨g, ⟨0, false, s, 0⟩⟩
/-- An instruction of every kind of check that the check refuses, with the check. -/
theorem test_ill_formed_headers : ∀ i ∈
    [Instr.nop (hint ⟨true, 7⟩ none),                                     -- the guard 0b1111 (R248)
     .iadd (go (some 0)) (toV 5) (.v 1) (.v 2) false .n32,                -- SET on a fixed-latency word (R250)
     .frcp (go none) (.v 5) (.v 1) .rn false,                             -- no SET on a variable-latency one (R250)
     .ld (go none) (.v 4) (.v 2) 0 ⟨0, 0⟩ .b32,                           -- the same of a load into a register (Table 15-1)
     .acc (go (some 1)) (.v 2) 0 (.v 4) ⟨0, 0⟩ .add .i32,                 -- SET on ACC (Table 15-1)
     .gnewv (go none) 7 (.v 4) (.imm 1) (.v 1),                           -- no SET on a graph word with a result (R346)
     .hwaitFull (go none) (.v 4) 0, .hwaitFull (go (some 0)) .zero 0,     -- HWAIT (R381)
     .rdts (go none) (.v 4)], wordOk i = false := by decide

theorem test_ill_formed_operands : ∀ i ∈
    [Instr.iadd64 (go none) (toV 5) (.v 2) (.v 4), .iadd64 (go none) (toV 6) (.v 3) (.v 4),      -- odd pairs (R254)
     .iadd64 (go none) (toV 6) (.latch 3) (.v 4), .iadd64 (go none) (toV 6) .zero (.v 4),        -- L3 and zero as pairs (R254, R271)
     .iadd64 (go none) ⟨false, .w 5⟩ (.w 2) (.w 4), .bfi (go none) (toV 5) (.v 1) (.v 2) (.sp .lane), -- a special register in C
     .movw (go none) (toV 5) (.v 1) 0, .movw (go none) ⟨false, .w 5⟩ (.w 1) 0,                   -- MOVW's classes
     .s2v (go none) (toV 5) 97, .s2v (go none) ⟨false, .w 5⟩ 96,                                 -- S2V beyond w96 (R289)
     .shfl (go none) (toV 5) (.latch 0) (.v 2) .all .abs, .mstart (go none) (.v 2) (.latch 1) 0 0,   -- latches on R258's words
     .gwaitlow (go (some 0)) 7 (.v 5) (.imm 1) (.latch 1), .mwait (go (some 0)) (.v 5) (.v 2) 0 (.latch 0) ⟨0, 0⟩ .eq .n32,
     .ld (go (some 0)) (.v 6) (.v 2) 0 ⟨0, 0⟩ .b128, .st (go none) (.v 2) 0 (.latch 0) ⟨0, 0⟩ .b128,  -- quads (R323)
     .ldw (go (some 0)) 5 2 0 ⟨0, 0⟩ .b64, .atom (go (some 0)) (.v 5) (.v 2) 0 (.v 5) ⟨0, 0⟩ .cas .b32, -- pairs of LDW and CAS
     .gnewv (go (some 0)) 7 (.v 5) (.imm 1) (.v 1), .glde (go (some 0)) 7 (.v 6) (.imm 1) (.v 1) (.v 2) .out, -- result groups (R344)
     .gdeg (go (some 0)) 7 (.w 4) (.imm 1) (.v 1) .out, .ggath (go none) 3 (.imm 1) (.v 1) (.v 2) (.v 5) .edge false .out,
     .cpy (go none) (.v 3) (.v 4) 0 0 false 0 .g2l .wave, .cvtef (go none) (toV 5) (.v 1) 5 0 0 .fmt], wordOk i = false := by decide

theorem test_ill_formed_fields : ∀ i ∈
    [Instr.iadd (go none) (toV 5) (.v 1) (.v 2) false .i64, .fadd (go none) (toV 5) (.v 1) (.v 2) ⟨.rn, false, false, false⟩ .f64,  -- types
     .faddImm (go none) (toV 5) (.v 1) 0x10000 .rn false false .f16,                             -- an immediate beyond 16 bits (R305)
     .redux (go none) (toV 5) (.v 1) .all .and .i32, .acc (go none) (.v 2) 0 (.v 4) ⟨0, 0⟩ .min .f32,   -- operations and types
     .atom (go (some 0)) (.v 5) (.v 2) 0 (.v 4) ⟨0, 0⟩ .exch .i32, .ld (go (some 0)) (.v 4) (.v 2) 0 ⟨0, 3⟩ .b32,  -- HOME code 3 (R261)
     .cvt (go none) (toV 5) (.v 1) .rz false false .i32 .n32, .cvt (go none) (toV 5) (.v 1) .rn false true .f32 .i32,
     .cvtw (go none) (toV 5) (.v 1) 1 .rn 0 .f16x2, .bscale (go none) (toV 5) (.v 1) (.v 2) 1 .apply, -- odd element (R318), FREG (R320)
     .fence (go none) .team ⟨false, false, false, false⟩, .bar (go none) 1 0 false, .gbar (go none) 1 0 true,   -- empty masks
     .claim (go none) 0, .release (go none) 0, .gldv (go (some 0)) 7 (.v 8) (.imm 1) (.v 1) true 29,  -- counts (R341), an odd 16-byte offset
     .cpy (go none) (.v 2) (.v 4) 0 1 false 0 .g2l .wave,                                         -- a handle without HEN (R361)
     .mma 0 0 0 true .bf16, .mstore 0 0 .rz .f32, .mloop 1 0 3,                                   -- Roller words (R374 to R378)
     .policyVq 0 0 10, .policyVs 0 0 6, .policyVp 0 0 4, .policyVf 0 10, .policyVg 0 8], wordOk i = false := by decide

/-- Words that are no instruction: the unassigned opcodes, the guard 0b1111, reserved bits, reserved register numbers, codes
that are not assigned, NW on a variable-latency word, field codes of a policy word. -/
theorem test_refused_words :
    (∀ w ∈ [0xf07040000000000000000000, 0xb7040000000000000000000, 0xf040014010080600000000, 0x7040014010080600000001, 0x7050014010080600000000, 0x7040630010080600000000, 0x7040016040080600000000, 0x7040014010081100000000, 0x3370400140200c0500000400, 0x707000828020000900000000, 0xe87040000000000000000000, 0xe47040000000000000000010, 0xe47030000000000000000003, 0xe47040004000000000000003],
      decodeTableWord 96 w = none) ∧
    (∀ w ∈ [0x0, 0x10c84001, 0x40c8000a, 0xc0000008, 0x90400005, 0x4c440005], decodeTableWord 32 w = none) := by decide +kernel

/-- The word of R266's example, as its bytes stand in memory. -/
theorem test_decode_example_12_9 : decodeTableWord 96 0x00A141008008000200000000 =
    some (.iadd ⟨⟨true, 2⟩, ⟨1, false, none, 1⟩⟩ (toV 2) (.v 0) (.latch 0) false .i32) := by decide +kernel

/-! ## Single steps -/

/-- What wave 0 shows after an instruction. -/
def after {α : Type} (i : Instr) (s : State) (f : Wave → α) : Option α :=
  match exec i s with
  | .next t => some (f (t.wave 0))
  | _ => none
/-- Registers v1, v2 and v3 hold one value in every lane. -/
def with3 (a b c : Word) (w : Wave := Wave.fresh) : State :=
  at0 fun x => { x with latches := w.latches, v := [(1, List.replicate 32 a), (2, List.replicate 32 b), (3, List.replicate 32 c)] }

theorem test_iadd_wraps : after (.iadd (go none) (toV 5) (.v 1) (.v 2) false .n32) (with3 0xFFFFFFFF 2 0) (·.vget 5 31) = some 1 := by decide +kernel
theorem test_iadd_saturates : after (.iadd (go none) (toV 5) (.v 1) (.v 2) true .i32) (with3 0x7FFFFFFF 2 0) (·.vget 5 31) = some 0x7FFFFFFF := by decide +kernel

/-- Table 13-4. -/
theorem test_bfe_table_13_4 : ∀ x ∈ [((0x0C08 : Nat), (0x12 : Word), (0x12 : Word)), (0x0818, 0xF0, 0xFFFFFFF0), (0x081C, 0xF, 0xFFFFFFFF), (0x40, 0, 0)],
    after (.bfe (go none) (toV 5) (.v 1) (.v 2) .n32) (with3 0xF0F01234 (BitVec.ofNat 32 x.1) 0) (·.vget 5 0) = some x.2.1 ∧
    after (.bfe (go none) (toV 5) (.v 1) (.v 2) .i32) (with3 0xF0F01234 (BitVec.ofNat 32 x.1) 0) (·.vget 5 0) = some x.2.2 := by decide +kernel

/-- The selectors of R286. -/
theorem test_bsel_examples : ∀ x ∈ [((0x8FE0 : Nat), (0xFF885511 : Word)), (0x0688, 0x44332211), (0x0FAC, 0x88776655), (0x0053, 0x11223344), (0xC0008, 0x2211)],
    after (.bsel (go none) (toV 5) (.v 1) (.v 2) (.v 3)) (with3 0x44332211 0x88776655 (BitVec.ofNat 32 x.1)) (·.vget 5 9) = some x.2 := by decide +kernel

/-- The fold of R294's example over lanes 8 to 31. -/
theorem test_redux_example : after (.redux (go none) (toV 2) (.sp .lane) .all .add .i32) (at0 fun w => { w with exited := 0xFF }) (fun w => (w.vget 2 8, w.vget 2 31, w.vget 2 7)) =
    some (468, 468, 0) := by decide +kernel

/-- The first line of the example of R259: the product is in L0, and v9 keeps its value. -/
theorem test_fmul_nw : after (.fmul (go none) ⟨true, .v 9⟩ (.v 1) (.v 2) ⟨.rn, false, false, false⟩ .f32) (with3 0x40000000 0x40400000 0)
    (fun w => (w.vget 9 0, (w.latch 0).vals.getD 0 0, (w.latch 0).valid)) = some (0, 0x40C00000, true) := by decide +kernel

/-- The block of R320: the scale of 100.0 under 0x0100_C05C, and Table 14-6's second lane. -/
def quant (a r : Word) : State := at0 fun x => { x with v := [(1, List.replicate 32 a), (11, List.replicate 32 r)], fmts := [(0, { stamp := 0, val := 0x0100C05C, own := true })] }
theorem test_bscale_derive : after (.bscale (go none) (toV 8) (.v 1) (.v 0) 0 .derive) (quant 0x42C80000 0) (·.vget 8 0) = some 0x81 := by decide +kernel
theorem test_cvtef_table_14_6 : after (.cvtef (go none) (toV 10) (.v 1) 11 0 0 .fmt) (quant 0x3F466666 0) (fun w => (w.vget 10 0, w.vget 11 0)) =
    some (0x29, 0xBBCCCD00) := by decide +kernel

/-- A branch of half the lanes splits the path: both halves stand where R295 sends them. -/
theorem test_bra_splits : after (.bra goP 4) (at0 (p0 0xFFFF0000)) (fun w => (w.pcOf 31, w.pcOf 0)) = some (48, 12) := by decide +kernel

/-- The floors of R451's example: one LPDDR6 controller is retired. -/
theorem test_floor_example :
    let p (f : Nat) : Part := { Part.fresh with regs := { PRegs.fresh with floors := [(1, f)] } }
    let s := { State.reset with parts := [(0, p 128), (4, p 64), (8, p 64)], ctrl := { Ctrl.reset with retTier := [3] } }
    (match exec .floorRecompute s with
      | .next t => t.parts.map fun e => (tget e.2.regs.effs 1).getD 0
      | _ => []) = [120, 60, 60] := by decide +kernel

/-- The example of FIPS 180 (R464): the digest of "abc". -/
theorem test_sha512_abc : sha512 [0x61, 0x62, 0x63] =
    [0xddaf35a193617aba, 0xcc417349ae204131, 0x12e6fa4e89a97ea2, 0x0a9eeee64b55d39a, 0x2192992a274fc1a8, 0x36ba3c23a3feebbd, 0x454d4423643ce80e,
     0x2a9ac94fa54ca49f] := by decide +kernel

end Sys2Proof.Machine.Tests
end

namespace Sys2Proof.Machine

/-! ## Results of the width of a type -/

@[simp] theorem loWord_setWidth_word (x : Word) : loWord (x.setWidth 64) = x :=
  BitVec.setWidth_setWidth_of_le x (by decide)

@[simp] theorem rdW_true (s : State) (w : Wave) (l : Nat) (x : Src) : rdW s w l true x = rd64 s w l x := rfl

@[simp] theorem loWord_rdW_false (s : State) (w : Wave) (l : Nat) (x : Src) : loWord (rdW s w l false x) = rd32 s w l x :=
  loWord_setWidth_word _

theorem immW_wide {ty : Ty} (h : ty.is64 = true) (x : Word) :
    immW ty x = if ty = .n64 then x.setWidth 64 else x.signExtend 64 := if_pos h

theorem loWord_immW_narrow {ty : Ty} (h : ty.is64 = false) (x : Word) : loWord (immW ty x) = x := by
  have e : immW ty x = x.setWidth 64 := if_neg (Bool.eq_false_iff.1 h)
  rw [e, loWord_setWidth_word]

theorem minW_wide {ty : Ty} (h : ty.is64 = true) (a b : DWord) : minW ty a b = opMin64 ty a b := if_pos h

theorem loWord_minW_narrow {ty : Ty} (h : ty.is64 = false) (a b : DWord) :
    loWord (minW ty a b) = opMin32 ty (loWord a) (loWord b) := by
  have e : minW ty a b = (opMin32 ty (loWord a) (loWord b)).setWidth 64 := if_neg (Bool.eq_false_iff.1 h)
  rw [e, loWord_setWidth_word]

theorem maxW_wide {ty : Ty} (h : ty.is64 = true) (a b : DWord) : maxW ty a b = opMax64 ty a b := if_pos h

theorem loWord_maxW_narrow {ty : Ty} (h : ty.is64 = false) (a b : DWord) :
    loWord (maxW ty a b) = opMax32 ty (loWord a) (loWord b) := by
  have e : maxW ty a b = (opMax32 ty (loWord a) (loWord b)).setWidth 64 := if_neg (Bool.eq_false_iff.1 h)
  rw [e, loWord_setWidth_word]

theorem atWidth_true (f64 : DWord → DWord) (f32 : Word → Word) (a : DWord) : atWidth true f64 f32 a = f64 a := rfl

theorem loWord_atWidth_false (f64 : DWord → DWord) (f32 : Word → Word) (a : DWord) :
    loWord (atWidth false f64 f32 a) = f32 (loWord a) := loWord_setWidth_word _

/-- An instruction with one operand, performed at the width of its type. -/
theorem givesW_of_atWidth {wide : Bool} {i : Instr} {hd : Hdr} {d : Dst} {a : Src} {f64 : DWord → DWord} {f32 : Word → Word}
    (e : ∀ s, exec i s = .next (aluW s hd (useOf i) wide d fun w l => atWidth wide f64 f32 (rdW s w l wide a))) :
    GivesW wide i hd d (fun s w l => f32 (rd32 s w l a)) (fun s w l => f64 (rd64 s w l a)) := by
  refine givesW_of_aluW e ?_ ?_
  · rintro rfl s w l; rw [loWord_atWidth_false, loWord_rdW_false]
  · rintro rfl s w l; rw [atWidth_true, rdW_true]

/-! ## Minimum, maximum and absolute value (R279) -/

/-- The order of operand values is that of signed or of unsigned numbers, as the type says. -/
theorem val32_lt_val32 (signed : Bool) (x y : Word) : val32 signed x < val32 signed y ↔
    (if signed then decide (x.toInt < y.toInt) else decide (x.toNat < y.toNat)) = true := by
  cases signed with
  | false => exact Int.ofNat_lt.trans decide_eq_true_iff.symm
  | true => exact decide_eq_true_iff.symm

theorem val64_lt_val64 (signed : Bool) (x y : DWord) : val64 signed x < val64 signed y ↔
    (if signed then decide (x.toInt < y.toInt) else decide (x.toNat < y.toNat)) = true := by
  cases signed with
  | false => exact Int.ofNat_lt.trans decide_eq_true_iff.symm
  | true => exact decide_eq_true_iff.symm

theorem opMin32_eq (ty : Ty) (x y : Word) : opMin32 ty x y =
    if (if ty.isSigned then decide (y.toInt < x.toInt) else decide (y.toNat < x.toNat)) then y else x :=
  if_congr (val32_lt_val32 _ _ _) rfl rfl

theorem opMax32_eq (ty : Ty) (x y : Word) : opMax32 ty x y =
    if (if ty.isSigned then decide (x.toInt < y.toInt) else decide (x.toNat < y.toNat)) then y else x :=
  if_congr (val32_lt_val32 _ _ _) rfl rfl

theorem opMin64_eq (ty : Ty) (x y : DWord) : opMin64 ty x y =
    if (if ty.isSigned then decide (y.toInt < x.toInt) else decide (y.toNat < x.toNat)) then y else x :=
  if_congr (val64_lt_val64 _ _ _) rfl rfl

theorem opMax64_eq (ty : Ty) (x y : DWord) : opMax64 ty x y =
    if (if ty.isSigned then decide (x.toInt < y.toInt) else decide (x.toNat < y.toNat)) then y else x :=
  if_congr (val64_lt_val64 _ _ _) rfl rfl

/-- The most negative number is the one whose absolute value lies above the signed range. -/
theorem natAbs_toInt_intMin {n : Nat} (hn : 0 < n) : ((BitVec.intMin n).toInt.natAbs : Int) = 2 ^ (n - 1) := by
  rw [BitVec.toInt_intMin_of_pos hn, Int.natAbs_neg, Int.natAbs_pow]
  simp

theorem natAbs_toInt_lt {n : Nat} {x : BitVec n} (hn : 0 < n) (h : x ≠ BitVec.intMin n) :
    (x.toInt.natAbs : Int) < 2 ^ (n - 1) := by
  have hlo := x.le_toInt
  have hhi := x.toInt_lt
  have hne : x.toInt ≠ -2 ^ (n - 1) := fun e => h (BitVec.eq_of_toInt_eq (e.trans (BitVec.toInt_intMin_of_pos hn).symm))
  omega

theorem minOf_true (n : Nat) : minOf true n = -2 ^ (n - 1) := congrArg Neg.neg (Nat.cast_pow 2 (n - 1))

theorem maxOf_true (n : Nat) : maxOf true n = 2 ^ (n - 1) - 1 := congrArg (· - 1) (Nat.cast_pow 2 (n - 1))

theorem clampTo_natAbs_toInt {n : Nat} (hn : 0 < n) (x : BitVec n) :
    clampTo true n x.toInt.natAbs = if x = BitVec.intMin n then (BitVec.intMax n).toInt else x.toInt.natAbs := by
  have hp : (0 : Int) < 2 ^ (n - 1) := by positivity
  change (if _ < minOf true n then minOf true n else if maxOf true n < _ then maxOf true n else _) = _
  rw [minOf_true, maxOf_true, if_neg (by omega)]
  split_ifs with hgt hx hx
  · rw [BitVec.toInt_intMax]
  · have := natAbs_toInt_lt hn hx
    omega
  · subst hx
    rw [natAbs_toInt_intMin hn] at hgt
    omega
  · rfl

theorem ofInt_natAbs_toInt {n : Nat} (x : BitVec n) : BitVec.ofInt n x.toInt.natAbs = if x.msb then -x else x := by
  rw [BitVec.msb_eq_toInt]
  by_cases h : x.toInt < 0
  · rw [Int.ofNat_natAbs_of_nonpos h.le, BitVec.ofInt_neg, BitVec.ofInt_toInt]
    simp [h]
  · rw [Int.natAbs_of_nonneg (not_lt.1 h), BitVec.ofInt_toInt]
    simp [h]

/-- IABS at every width: saturation changes the most negative number alone (R279). -/
theorem ofInt_absolute {n : Nat} (hn : 0 < n) (sat : Bool) (x : BitVec n) :
    BitVec.ofInt n (if sat then clampTo true n x.toInt.natAbs else x.toInt.natAbs) =
      if x = BitVec.intMin n then (if sat then BitVec.intMax n else BitVec.intMin n)
      else if x.msb then -x else x := by
  by_cases hx : x = BitVec.intMin n
  · subst hx
    cases sat with
    | false =>
      rw [if_neg Bool.false_ne_true, ofInt_natAbs_toInt, BitVec.neg_intMin, ite_self, if_pos rfl, if_neg Bool.false_ne_true]
    | true => rw [if_pos rfl, clampTo_natAbs_toInt hn, if_pos rfl, BitVec.ofInt_toInt, if_pos rfl, if_pos rfl]
  · rw [clampTo_natAbs_toInt hn, if_neg hx, if_neg hx, ite_self, ofInt_natAbs_toInt]

theorem opAbs32_eq (sat : Bool) (x : Word) : opAbs32 sat x =
    if x = BitVec.intMin 32 then (if sat then BitVec.intMax 32 else BitVec.intMin 32) else if x.msb then -x else x :=
  ofInt_absolute (by decide) sat x

theorem opAbs64_eq (sat : Bool) (x : DWord) : opAbs64 sat x =
    if x = BitVec.intMin 64 then (if sat then BitVec.intMax 64 else BitVec.intMin 64) else if x.msb then -x else x :=
  ofInt_absolute (by decide) sat x

/-! ## Counts and the reversal of bits (R284) -/

theorem opPopc_eq_countP {n : Nat} (x : BitVec n) : opPopc x = (List.range n).countP fun k => x.getLsbD k :=
  List.countP_eq_length_filter.symm

theorem length_takeWhile_range {p : Nat → Bool} {m n : Nat} (hmn : m ≤ n) (hp : ∀ k, k < m → p k = true)
    (hm : m < n → p m = false) : ((List.range n).takeWhile p).length = m := by
  obtain ⟨j, rfl⟩ := Nat.exists_eq_add_of_le hmn
  rw [List.range_add, List.takeWhile_append_of_pos (by simpa using hp), List.length_append, List.length_range]
  cases j with
  | zero => simp
  | succ j => simp [List.range_succ_eq_map, hm (by omega)]

/-- The run of 0 bits ends at the binary logarithm, where the highest 1 bit stands. -/
theorem opClz_eq_takeWhile {n : Nat} (x : BitVec n) :
    opClz x = ((List.range n).takeWhile fun k => !x.getLsbD (n - 1 - k)).length := by
  change (if x = 0 then n else n - 1 - x.toNat.log2) = _
  by_cases hx : x = 0
  · subst hx
    rw [if_pos rfl, length_takeWhile_range le_rfl (by simp) (by simp)]
  · have hne : x.toNat ≠ 0 := fun e => hx (BitVec.eq_of_toNat_eq (by simpa using e))
    have hlog : x.toNat.log2 < n := (Nat.log2_lt hne).2 x.isLt
    rw [if_neg hx, length_takeWhile_range (m := n - 1 - x.toNat.log2) (by omega)]
    · intro k hk
      have hlt : x.toNat < 2 ^ (n - 1 - k) := (Nat.log2_lt hne).1 (by omega)
      simp [BitVec.getLsbD, Nat.testBit_lt_two_pow hlt]
    · intro _
      have hpos : n - 1 - (n - 1 - x.toNat.log2) = x.toNat.log2 := by omega
      simp [BitVec.getLsbD, hpos, Nat.testBit_log2 hne]

/-- By induction on the number of bits: the next power of two lies above the sum so far. -/
theorem testBit_sum_two_pow (f : Nat → Bool) (n k : Nat) :
    ((List.range n).foldl (fun acc j => acc + (if f j then 2 ^ j else 0)) 0).testBit k = (decide (k < n) && f k) := by
  induction n generalizing k with
  | zero => simp
  | succ n ih =>
    rw [List.range_succ, List.foldl_append, List.foldl_cons, List.foldl_nil]
    have hlt : (List.range n).foldl (fun acc j => acc + (if f j then 2 ^ j else 0)) 0 < 2 ^ n :=
      Nat.lt_pow_two_of_testBit _ fun j hj => by rw [ih]; simp [hj]
    cases hf : f n with
    | false =>
      rw [if_neg Bool.false_ne_true, Nat.add_zero, ih]
      by_cases hk : k = n
      · simp [hk, hf]
      · rw [decide_eq_decide.2 (show k < n ↔ k < n + 1 by omega)]
    | true =>
      rw [if_pos rfl, Nat.add_comm]
      rcases lt_trichotomy k n with h | rfl | h
      · rw [Nat.testBit_two_pow_add_gt h, ih]
        simp [h, h.trans n.lt_succ_self]
      · rw [Nat.testBit_two_pow_add_eq, ih]
        simp [hf]
      · have hpow : 2 ^ (n + 1) ≤ 2 ^ k := Nat.pow_le_pow_right (by decide) h
        rw [Nat.testBit_lt_two_pow (by omega), decide_eq_false (by omega), Bool.false_and]

@[simp] theorem getLsbD_ofBits (n : Nat) (f : Nat → Bool) (k : Nat) :
    (ofBits n f).getLsbD k = (decide (k < n) && f k) := by
  change (BitVec.ofNat n _).getLsbD k = _
  rw [BitVec.getLsbD_ofNat, testBit_sum_two_pow, Bool.and_self_left]

theorem getLsbD_opBrev {n k : Nat} (x : BitVec n) (h : k < n) : (opBrev x).getLsbD k = x.getLsbD (n - 1 - k) := by
  change (ofBits n fun j => x.getLsbD (n - 1 - j)).getLsbD k = _
  rw [getLsbD_ofBits, decide_eq_true h, Bool.true_and]

/-! ## Selection of bytes (R286) -/

/-- The byte of the pair (a, b) that the index of result byte n names. -/
def sourceByte (a b c : Word) (n : Nat) : Byte := (join b a).extractLsb' (8 * (c.extractLsb' (3 * n) 3).toNat) 8

/-- Byte n of BSEL's result. -/
def selectedByte (a b c : Word) (n : Nat) : Byte :=
  if c.getLsbD (16 + n) then 0
  else if c.getLsbD (12 + n) then (if (sourceByte a b c n).getLsbD 7 then 255 else 0)
  else sourceByte a b c n

theorem opBsel_eq (a b c : Word) : opBsel a b c =
    selectedByte a b c 3 ++ (selectedByte a b c 2 ++ (selectedByte a b c 1 ++ selectedByte a b c 0)) := rfl

theorem getLsbD_opBsel (a b c : Word) {n j : Nat} (hn : n < 4) (hj : j < 8) :
    (opBsel a b c).getLsbD (8 * n + j) = (selectedByte a b c n).getLsbD j := by
  rw [opBsel_eq, BitVec.getLsbD_append, BitVec.getLsbD_append, BitVec.getLsbD_append]
  interval_cases n
  · rw [if_pos (by omega), if_pos (by omega), if_pos (by omega), Nat.zero_add]
  · rw [if_pos (by omega), if_pos (by omega), if_neg (by omega), Nat.add_sub_cancel_left]
  · rw [if_pos (by omega), if_neg (by omega), Nat.add_sub_cancel_left]
  · rw [if_neg (by omega), Nat.add_sub_cancel_left]

theorem getLsbD_join (hi lo : Word) (k : Nat) : (join hi lo).getLsbD k = if k < 32 then lo.getLsbD k else hi.getLsbD (k - 32) :=
  BitVec.getLsbD_append

theorem getLsbD_sourceByte (a b c : Word) (n : Nat) {k : Nat} (hk : k < 8) : (sourceByte a b c n).getLsbD k =
    if c.toNat / 2 ^ (3 * n) % 8 < 4 then a.getLsbD (8 * (c.toNat / 2 ^ (3 * n) % 8) + k)
    else b.getLsbD (8 * (c.toNat / 2 ^ (3 * n) % 8 - 4) + k) := by
  have hidx : (c.extractLsb' (3 * n) 3).toNat = c.toNat / 2 ^ (3 * n) % 8 := by
    rw [BitVec.extractLsb'_toNat, Nat.shiftRight_eq_div_pow]
  change ((join b a).extractLsb' (8 * (c.extractLsb' (3 * n) 3).toNat) 8).getLsbD k = _
  rw [hidx, BitVec.getLsbD_extractLsb', decide_eq_true hk, Bool.true_and, getLsbD_join]
  generalize c.toNat / 2 ^ (3 * n) % 8 = src
  by_cases h : src < 4
  · rw [if_pos h, if_pos (by omega)]
  · rw [if_neg h, if_neg (by omega)]
    congr 1; omega

theorem getLsbD_replicated_sign (t : Bool) {j : Nat} (hj : j < 8) : (if t then 255 else 0 : Byte).getLsbD j = t := by
  cases t
  · simp
  · interval_cases j <;> rfl

theorem getLsbD_selectedByte (a b c : Word) (n : Nat) {j : Nat} (hj : j < 8) : (selectedByte a b c n).getLsbD j =
    if c.getLsbD (16 + n) then false
    else if c.getLsbD (12 + n) then (sourceByte a b c n).getLsbD 7 else (sourceByte a b c n).getLsbD j := by
  by_cases hclear : c.getLsbD (16 + n) = true
  · have e : selectedByte a b c n = 0 := if_pos hclear
    rw [e, if_pos hclear]
    exact BitVec.getLsbD_zero
  · rw [if_neg hclear]
    by_cases hsign : c.getLsbD (12 + n) = true
    · have e : selectedByte a b c n = if (sourceByte a b c n).getLsbD 7 then 255 else 0 :=
        (if_neg hclear).trans (if_pos hsign)
      rw [e, if_pos hsign, getLsbD_replicated_sign _ hj]
    · have e : selectedByte a b c n = sourceByte a b c n := (if_neg hclear).trans (if_neg hsign)
      rw [e, if_neg hsign]

/-! ## The statements -/

/-- Settles O2: the model's order and its absolute value are those of R279, at both widths. -/
theorem minimaMaximaAndAbsoluteValues : Obligations.MinimaMaximaAndAbsoluteValues := by
  intro hd d a b imm sat ty
  refine ⟨?imin, ?imax, ?iminImm, ?imaxImm, ?iabs⟩
  case imin =>
    refine givesW_of_aluW (fun _ => rfl) (fun h s w l => ?_) (fun h s w l => ?_)
    · rw [loWord_minW_narrow h, h, loWord_rdW_false, loWord_rdW_false, opMin32_eq]
    · rw [minW_wide h, h, rdW_true, rdW_true, opMin64_eq]
  case imax =>
    refine givesW_of_aluW (fun _ => rfl) (fun h s w l => ?_) (fun h s w l => ?_)
    · rw [loWord_maxW_narrow h, h, loWord_rdW_false, loWord_rdW_false, opMax32_eq]
    · rw [maxW_wide h, h, rdW_true, rdW_true, opMax64_eq]
  case iminImm =>
    refine givesW_of_aluW (fun _ => rfl) (fun h s w l => ?_) (fun h s w l => ?_)
    · rw [loWord_minW_narrow h, h, loWord_rdW_false, loWord_immW_narrow h, opMin32_eq]
    · rw [minW_wide h, h, rdW_true, immW_wide h, opMin64_eq]
  case imaxImm =>
    refine givesW_of_aluW (fun _ => rfl) (fun h s w l => ?_) (fun h s w l => ?_)
    · rw [loWord_maxW_narrow h, h, loWord_rdW_false, loWord_immW_narrow h, opMax32_eq]
    · rw [maxW_wide h, h, rdW_true, immW_wide h, opMax64_eq]
  case iabs =>
    simpa only [opAbs32_eq, opAbs64_eq] using
      givesW_of_atWidth (i := .iabs hd d a sat ty) (hd := hd) (d := d) (a := a) fun _ => rfl

/-- Settles O3: the counts agree with the count and the run of bits, and BREV's bits are read off its definition. -/
theorem countsAndReversalOfBits : Obligations.CountsAndReversalOfBits := by
  intro hd d a ty
  refine ⟨?popc, ?clz, _, _, givesW_of_atWidth (i := .brev hd d a ty) fun _ => rfl, ?low, ?wide⟩
  case popc => exact gives32_of_alu (fun _ => rfl) fun s w l => by rw [opPopc_eq_countP, opPopc_eq_countP]
  case clz => exact gives32_of_alu (fun _ => rfl) fun s w l => by rw [opClz_eq_takeWhile, opClz_eq_takeWhile]
  case low => exact fun s w l k hk => getLsbD_opBrev _ hk
  case wide => exact fun s w l k hk => getLsbD_opBrev _ hk

/-- Settles O4: a select of words of the width of the type, and BSEL byte by byte. -/
theorem selectionOfWordsAndBytes : Obligations.SelectionOfWordsAndBytes := by
  refine ⟨fun hd d a b imm neg p ty => ⟨?isel, ?iselImm⟩,
    fun hd d a b c => ⟨_, gives32_of_alu (fun _ => rfl) fun _ _ _ => rfl, ?bsel⟩⟩
  case isel =>
    refine givesW_of_aluW (fun _ => rfl) (fun h s w l => ?_) (fun h s w l => ?_)
    · rw [h, apply_ite loWord, loWord_rdW_false, loWord_rdW_false]
    · rw [h, rdW_true, rdW_true]
  case iselImm =>
    refine givesW_of_aluW (fun _ => rfl) (fun h s w l => ?_) (fun h s w l => ?_)
    · rw [h, apply_ite loWord, loWord_rdW_false, loWord_immW_narrow h]
    · rw [h, rdW_true, immW_wide h]
  case bsel =>
    intro s w l n j hn hj
    simp only [getLsbD_opBsel _ _ _ hn hj, getLsbD_selectedByte _ _ _ _ hj, getLsbD_sourceByte _ _ _ _ hj,
      getLsbD_sourceByte _ _ _ _ (show 7 < 8 by decide)]

end Sys2Proof.Machine
